-- ==== Sys2Proof/Word.lean ====
section
/-! DEFINITION. The word types of the package: 64-bit control-space and data words, bytes. -/

namespace Sys2Proof

/-- A control-space register or a memory word (00 R3). -/
abbrev Word := BitVec 64

/-- One byte of memory. -/
abbrev Byte := BitVec 8

end Sys2Proof
end

