-- ==== Sys2Proof/Syntax.lean ====
section
/-! DEFINITION. The commands of the package: one constructor per row of spec/opcode_table.json, with its operands.
`q` is a queue number, `c` a logical core, `k` a control core, `p` a plant port or far-tier port, `req` the requester
of a control-space write, `dt` the processor-die cycles (0.5 ns) that pass before the command, `bad` what
the silicon does to it. -/

namespace Sys2Proof

/-- The requester of a control-space access (15 R434). -/
inductive Req where
  | host
  | custodian
  | sup (k : Nat)
  | job (k : Nat)
  deriving DecidableEq, Repr

/-- The encoder lines of the tide gate (02 R567). -/
inductive EncLine where
  | a | b | z
  deriving DecidableEq, Repr

/-- A tide-relay message: the master's tide count, its mean interval (processor-die cycles per 8 counts) and its
gate state (02 R65). -/
structure RelayMsg where
  count : Nat
  rate : Nat
  state : Nat
  deriving DecidableEq, Repr

/-- The fields of a vector instruction word that do not select the operation (07, table of the instruction word).
`rsv` is the value of the reserved bits 47:45. -/
structure VxIns where
  vd : Nat
  va : Nat
  vb : Nat
  vc : Nat
  pg : Nat
  z : Bool
  w : Nat
  rm : Nat
  fmt : Nat
  sgn : Bool
  sat : Bool
  imsh : Bool
  ns : Bool
  rsv : Nat
  imm : BitVec 16
  deriving DecidableEq, Repr

/-- 07, float arithmetic class. -/
inductive VxFArith where
  | fadd | fsub | fmul | fma | fnma | fdiv | fsqrt | frint | fabs | fneg | fcopysign | unassigned
  deriving DecidableEq, Repr

/-- 07, float compare class. -/
inductive VxFCmp where
  | fmin | fmax | fminnum | fmaxnum | eq | lt | le | un | unassigned
  deriving DecidableEq, Repr

/-- 07, integer class. -/
inductive VxIntOp where
  | add | sub | min | max | eq | ne | lt | le | unassigned
  deriving DecidableEq, Repr

/-- 07, shift and logic class. -/
inductive VxShiftOp where
  | sll | srl | sra | srr | and | or | xor | andn | not | unassigned
  deriving DecidableEq, Repr

/-- 07, move class. -/
inductive VxMoveOp where
  | sel | bcast | movi | pmov | pand | por | pnot | unassigned
  deriving DecidableEq, Repr

/-- 07, reduction class; `int` selects the integer form of rsum, rmax and rmin. -/
inductive VxRedOp where
  | rsum (int : Bool) | rmax (int : Bool) | rmin (int : Bool) | rmaxnum | rminnum | unassigned
  deriving DecidableEq, Repr

/-- 07 R190, the forms of vx.cvt. -/
inductive VxCvtForm where
  | longLong | longInt | intLong | longShort | shortLong | unassigned
  deriving DecidableEq, Repr

/-- 07, the scalar instructions of the control class; `unassigned` also stands for an unused OPC and for the unassigned codes of the
memory and summary classes (R181). -/
inductive VxCtlOp where
  | nop | ai | apar | aadd | ashl | unassigned
  deriving DecidableEq, Repr

/-- 08, integer operations of major opcodes 0x01 and 0x02. -/
inductive CcAlu where
  | add | sub | and | or | xor | sll | srl | sra | slt | sltu | min | max | minu | maxu
  deriving DecidableEq, Repr

/-- 08, multiply and divide. -/
inductive CcMul where
  | mul | mulh | mulhu | div | divu | rem | remu
  deriving DecidableEq, Repr

/-- 08 R203, R204: a control-core integer instruction, decoded; `illegal` is any word that R203 calls illegal. -/
inductive CcInt where
  | reg (op : CcAlu) (rd ra rb : Nat)
  | imm (op : CcAlu) (rd ra : Nat) (im : BitVec 16)
  | lui (rd : Nat) (im : BitVec 16) (sh : Nat)
  | mul (op : CcMul) (rd ra rb : Nat)
  | illegal
  deriving DecidableEq, Repr

/-- 08 R206, atomics on 64-bit words. -/
inductive CcAmo where
  | cas | swap | fadd | fmin | fmax
  deriving DecidableEq, Repr

/-- 08, branch conditions. -/
inductive CcCond where
  | beq | bne | blt | bge | bltu | bgeu
  deriving DecidableEq, Repr

/-- 08, branches and jumps; the displacement is in bytes, relative to the instruction. -/
inductive CcJump where
  | br (cond : CcCond) (ra rb : Nat) (disp : Int)
  | jal (rd : Nat) (disp : Int)
  | jr (ra : Nat)
  | jalr (rd ra : Nat)
  deriving DecidableEq, Repr

/-- 08, binary64 and binary32 operations. -/
inductive CcFlt where
  | add | sub | mul | fma | div | sqrt | min | max | minnum | maxnum | eq | lt | le | un | rint
  deriving DecidableEq, Repr

/-- 08, float conversions: between the long formats, and to and from integers of `bits` bits. -/
inductive CcCvt where
  | f64to32 | f32to64
  | toInt (dbl : Bool) (bits : Nat) (sgn : Bool)
  | ofInt (dbl : Bool) (bits : Nat) (sgn : Bool)
  deriving DecidableEq, Repr

/-- 08 R208, the control-core system registers by name. -/
inductive CcSr where
  | status | tvec | trapCause | trapPc | trapAddr | flags | vstate | cycle | mboxIe | callStatus
  | xlatRoot | xlatInv | jobPerm | ctl
  deriving DecidableEq, Repr

/-- The second operand of a long-vector instruction: a vector register or a g register (08). -/
inductive CvSrc where
  | v (n : Nat)
  | g (n : Nat)
  deriving DecidableEq, Repr

/-- 08, long-vector compare relations. -/
inductive CvRel where
  | eq | ne | lt | le | ltu | leu
  deriving DecidableEq, Repr

/-- 08, long-vector ALU class 0x22; `pg` is the governing predicate. -/
inductive CvAlu where
  | vadd | vsub | vand | vor | vxor | vshl | vshr | vsar | vmin | vmax | vminu | vmaxu
  | vcmp (r : CvRel) | vsel | vdup | vtog
  deriving DecidableEq, Repr

/-- 08, multiplier class 0x23. -/
inductive CvMul where
  | vmul | vmulhi | vmulhiu | qfmul
  deriving DecidableEq, Repr

/-- 08 R220, fixed-point instructions of class 0x24. -/
inductive CvFix where
  | qadd | qaddu | qsub | qsubu | qavg | qavgu | qhsub | qhsubu | qrshr | qrshru
  deriving DecidableEq, Repr

/-- 08, reductions and predicate logic of class 0x24. -/
inductive CvRed where
  | vrsum | vrmax | vrmin | vrmaxu | vrminu | pand | por | pnot
  deriving DecidableEq, Repr

/-- Who issues an access that reaches a cove (10 R279). -/
inductive CoveSrc where
  | host
  | controlCore (k : Nat) (cached : Bool) (hint : Nat)
  | mover (hint : Nat) (prio : Nat)
  | delta
  | plant
  | bme
  | folioBack
  | folioCow
  | rack
  deriving DecidableEq, Repr

/-- What the storage does on an access: nothing, a correction of one or two bits (10 R284), an uncorrectable word in the
stack or the cove cache (R285), parity retries on the stack interface (R287; four of them escalate). -/
inductive Flaw where
  | none
  | corrected
  | uncorrStack
  | uncorrCache
  | retries (n : Nat)
  deriving DecidableEq, Repr

/-- What an access at a cove meets: an error, and the dirty lines, by address, that the host returns where a page in host bias is
resolved with it (16 R446). -/
structure Found where
  flaw : Flaw := .none
  host : List (Nat × List Byte) := []
  deriving DecidableEq, Repr

/-- A word in error that a read of a command finds (10 R283 to R287): its storage (0 stack, 1 cove cache, 2 core store, 3 far tier,
4 stack interface, 5 routine store, 6 signature store), its address or its offset in the store of the command's core, whether the
code cannot correct it, and on the stack interface the retries (four of them escalate). -/
structure Upset where
  kind : Nat
  addr : Nat
  lost : Bool
  tries : Nat
  deriving DecidableEq, Repr

/-- What the silicon does to a command: the unit of re-execution whose check fails (17 R480), if one does, and the words in error that
its reads find (10 R283). -/
structure Silicon where
  unit : Option Nat := none
  words : List Upset := []
  deriving DecidableEq, Repr

/-- The kinds of a memory-plane packet (12 R337): a write's bytes with its mask, `none` for a byte that the mask leaves. -/
inductive MpKind where
  | read (len : Nat)
  | write (data : List (Option Byte))
  | atomic (op : Nat) (opa opb : Word)
  deriving DecidableEq, Repr

/-- An incoming memory-plane access (12 R337, R341): the issuer's rack slot, its sequence number (writes and atomics),
region identifier and key, window offset, and kind. `folio` marks the folio traffic of 19 R533. -/
structure MpPacket where
  src : Nat
  seq : Nat
  region : Nat
  key : Nat
  off : Nat
  kind : MpKind
  folio : Bool
  deriving DecidableEq, Repr

/-- A torus packet in transit (12 R358): source, destination, payload tag, collective stream if any. -/
structure TorusPacket where
  src : Nat
  dst : Nat
  vc : Nat
  stream : Option Nat
  id : Nat
  deriving DecidableEq, Repr

/-- The header of a collective's segment (13 R389) and the place of a packet's data. `cmd` is the routine identifier;
`phase` 0 is reduce-scatter and 1 is all-gather or broadcast; `chunk` the ring chunk; `last` marks the chunk's last packet. -/
structure CollPacket where
  group : Nat
  cmd : Nat
  rtype : Nat
  bytes : Nat
  root : Nat
  seq : Nat
  seg : Nat
  stream : Nat
  axis : Nat
  phase : Nat
  chunk : Nat
  data : List Byte
  last : Bool
  deriving DecidableEq, Repr

/-- A fence record of board flash, in flash order (01 R20; 16, table of board records): the physical core, whether the record takes it
out of the fenced set, and whether its protection verifies (HMAC for a fence, Otbavia's signature for an unfence). -/
structure FenceRec where
  core : Nat
  unfence : Bool
  ok : Bool
  deriving DecidableEq, Repr

/-- The board records as they stand in flash when start-up reads them (16, table of board records). -/
structure Board where
  fwA : Option Nat
  fwB : Option Nat
  unitMapOk : Bool
  code176 : Bool
  disabled : List Nat
  idKey : List Byte
  unitMap : List Byte
  fences : List FenceRec
  posOk : Bool
  x : Nat
  y : Nat
  z : Nat
  dx : Nat
  dy : Nat
  dz : Nat
  ownerKey : Option (List Byte)
  fuse : Bool
  hwm : Option Nat
  idCacheOk : Bool
  deriving DecidableEq, Repr

/-- What training and testing find at a start-up (16, power-on steps 1 and 4): of each far-tier port whose device is enumerated its
capacity in GiB, width code and speed code (10 R305), the fabric ports that train (die, port, lanes), and whether die links and stacks
pass; and `hdm`, the size of the range that the host gives its HDM decoder, in units of 256 MiB (16 R443). -/
structure Boot where
  hostLink : Bool
  dieLinks : Bool
  stacksOk : Bool
  far : List (Nat × Nat × Nat × Nat)
  ports : List (Nat × Nat × Nat)
  plant : List Nat
  hdm : Nat
  deriving DecidableEq, Repr

/-- The unit whose duplicated copies disagree (17 R499). -/
inductive CmpUnit where
  | gate
  | sched (p slot : Nat)
  deriving DecidableEq, Repr

/-- The unit whose translations are discarded (10 R303). -/
inductive XlatUnit where
  | core (c : Nat)
  | cc (k : Nat)
  deriving DecidableEq, Repr

/-- A custodian error (17 R497). -/
inductive CustErr where
  | parity
  | uncorrectable
  deriving DecidableEq, Repr

/-- A PLDM message of the types that R562 lists. -/
inductive PldmReq where
  | baseDiscovery
  | sensor (id : Nat)
  deriving DecidableEq, Repr

/-- An MCTP control message (20 R562). -/
inductive MctpReq where
  | setEid (eid : Nat)
  | getEid
  | getVersion
  | getTypes
  deriving DecidableEq, Repr

/-- What the other members' reserves give a restore (19 R531, R543 to R546): for rows (owner's rank, row), the leaves at positions 0
to G − 3 (data), G − 2 (P) and G − 1 (Q) as listed bytes of 65,536, and the positions that could not be read. -/
structure RestoreRows where
  leaves : List ((Nat × Nat × Nat) × List (Nat × Byte))
  missing : List (Nat × Nat × Nat)
  deriving DecidableEq, Repr

/-- A step of a PLDM firmware update (20 R563): a part of the image, or the end of the transfer with the bundle's version
(none: the copy would not verify). -/
inductive FwReq where
  | data (bytes : List Byte)
  | finish (version : Option Nat)
  deriving DecidableEq, Repr

/-- An encoder input that takes a new level: `dt` cycles pass before it does, and it then holds the level for `keep` samples of its
glitch filter (02 R35). -/
structure Settle where
  dt : Nat
  keep : Nat
  deriving DecidableEq, Repr

/-- A bulk access in a channel of cove `cove` that has waited `wait` × 250 ns (10 R280). -/
structure BulkWait where
  cove : Nat
  wait : Nat
  deriving DecidableEq, Repr

/-- A doorbell write: its value, and how many decodings of the descriptor at the front end then fail their parity (17 R482). -/
structure Bell where
  tail : Word
  par : Nat := 0
  deriving DecidableEq, Repr

/-- A stream whose next operation is triggered, and how many of its combines fail their check (17 R480, R482). -/
structure Combine where
  stream : Nat
  fails : Nat := 0
  deriving DecidableEq, Repr

/-- The commands of the block: one constructor per row of spec/opcode_table.json. -/
inductive Instr where
  -- the tide (02)
  | encoderEdge (t : Settle) (a b : Bool)
  | encoderLevelLoss (line : EncLine)
  | zEdge (t : Settle)
  | mainsPulse (dt : Nat) (small : Bool)
  | pllLockLoss
  | ppsEdge (dt : Nat)
  | ppsMissingLoss (dt : Nat)
  | stoppedCountsLoss (dt : Nat)
  | coastEnd (dt : Nat)
  | tideCycleStart (dt : Nat)
  | shortCycleHoldEnd (dt : Nat)
  | markFire (dt m : Nat)
  | freePhaseComplete
  | tideLock (dt rtt : Nat)
  | lockTimeout (dt : Nat)
  | resume (req : Req)
  | tideStep (req : Req)
  | remeasure (req : Req) (rtt : Nat)
  | forceStop (req : Req)
  | ptpLoss (req : Req)
  | tgPtimeStepWrite (req : Req) (v : Word)
  | tgPtimeAdjWrite (req : Req) (v : Word)
  | relaySend (dt : Nat)
  | relayMessage (dt : Nat) (m : RelayMsg)
  | relayLoss (dt : Nat)
  | tgStep (q : Nat)
  | tgStop (q : Nat)
  | phaseCompletionReport (who entry : Nat)
  -- power (01)
  | powerThrottle (dt pin : Nat)
  | openClockStep (dt : Nat) (up : Bool)
  -- generator registers (03)
  | rngRegisterWrite (req : Req) (c j : Nat) (v : Word)
  -- surrogate engine (04)
  | sgMm (q : Nat) (bad : Silicon)
  | sgMmb (q : Nat) (bad : Silicon)
  | checkReexecution (q : Nat) (bad : Option Nat)
  -- solver engine (05, 06)
  | svBind (q : Nat)
  | svFactor (q : Nat) (bad : Silicon)
  | svSolve (q : Nat) (bad : Silicon)
  | svFsolve (q : Nat) (bad : Silicon)
  | svSigload (q : Nat)
  | dmDelta (q : Nat) (bad : Silicon)
  | dmDense (q : Nat) (bad : Silicon)
  -- vector engine (07)
  | vectorCommand (q : Nat) (bad : Silicon)
  | vxLd (c : Nat) (x : VxIns)
  | vxSt (c : Nat) (x : VxIns)
  | vxFloatArithmetic (c : Nat) (op : VxFArith) (x : VxIns)
  | vxFloatCompare (c : Nat) (op : VxFCmp) (x : VxIns)
  | vxInteger (c : Nat) (op : VxIntOp) (x : VxIns)
  | vxShiftLogic (c : Nat) (op : VxShiftOp) (x : VxIns)
  | vxMove (c : Nat) (op : VxMoveOp) (x : VxIns)
  | vxReduction (c : Nat) (op : VxRedOp) (x : VxIns)
  | vxCvt (c : Nat) (op : VxCvtForm) (x : VxIns)
  | vxScale (c : Nat) (x : VxIns)
  | vxSmry (c : Nat) (x : VxIns)
  | vxLoop (c : Nat) (x : VxIns)
  | vxEndloop (c : Nat) (x : VxIns)
  | vxEnd (c : Nat) (x : VxIns)
  | vxScalarControl (c : Nat) (op : VxCtlOp) (x : VxIns)
  | mailboxPost (c : Nat)
  -- control cores (08)
  | ccIntegerOp (k : Nat) (x : CcInt)
  | ccLoad (k par size : Nat) (sgn uncached : Bool) (rd ra : Nat) (off : BitVec 16)
  | ccStore (k size : Nat) (uncached : Bool) (rb ra : Nat) (off : BitVec 16)
  | ccAtomic (k : Nat) (op : CcAmo) (rd ra rb rc : Nat)
  | ccBranch (k : Nat) (x : CcJump)
  | ccFloatOp (k : Nat) (dbl : Bool) (op : CcFlt) (rm rd ra rb rc : Nat)
  | ccFloatConvert (k : Nat) (op : CcCvt) (rm rd ra : Nat)
  | ccSys (k : Nat)
  | ccBrk (k : Nat)
  | ccTret (k : Nat)
  | ccFence (k : Nat)
  | ccWfi (k : Nat)
  | srRd (k rd : Nat) (r : CcSr)
  | srWr (k : Nat) (r : CcSr) (ra : Nat)
  | interrupt (k : Nat)
  | mbwait (k rd ra rb : Nat)
  | mbwaitDeadline (k dt : Nat)
  | mbtake (k rd re n : Nat)
  | cctake (k rd rb : Nat)
  | cctakeDeadline (k dt : Nat)
  | ccarg (k rd rs n : Nat)
  | ccdone (k rs re : Nat)
  | setvl (k rd ra : Nat) (im : BitVec 32)
  | vld (k vd ra pg : Nat)
  | vst (k vs ra pg : Nat)
  | vectorAlu (k : Nat) (op : CvAlu) (vd va : Nat) (b : CvSrc) (pg : Nat)
  | vectorMultiply (k : Nat) (op : CvMul) (vd va : Nat) (b : CvSrc) (pg : Nat)
  | fixedPointOp (k : Nat) (op : CvFix) (vd va : Nat) (b : CvSrc) (pg : Nat)
  | vectorReduction (k : Nat) (op : CvRed) (vd va vb pg : Nat)
  | ccCall (q : Nat)
  -- command queues (09)
  | doorbellWrite (req : Req) (q : Nat) (b : Bell)
  | cqResume (req : Req) (q : Nat)
  | cqStop (req : Req) (q : Nat)
  | signalCounterWrite (req : Req) (n : Nat) (v : Word)
  | routineInvalid (q : Nat)
  | commandCompletion (q : Nat)
  | cqNop (q : Nat)
  | cqPatchfence (q : Nat)
  | cqLoop (q : Nat)
  | cqEndloop (q : Nat)
  | cqRecord (q : Nat)
  | segmentCopy (q : Nat)
  | cqEndrec (q : Nat)
  | cqReplay (q : Nat)
  | cqSwapbank (q : Nat)
  | routineBankWrite (req : Req) (c bank off : Nat) (v : Word)
  | verify (req : Req) (c : Nat)
  | bankVerifyEnd (c : Nat) (ok : Bool) (dir : List (Nat × Nat × Nat))
  -- coves, movers, far tier (10)
  | coveAccess (src : CoveSrc) (addr : Nat) (wr : Option (List Byte)) (len : Nat) (found : Found)
  | bulkPromotion (w : BulkWait)
  | patrolScrub (v addr : Nat) (flaw : Flaw) (passEnd : Bool)
  | stackTempSample (v t0 t1 t2 t3 : Nat)
  | stackThrottleEval (v : Nat)
  | junctionThrottle (v j0 j1 : Nat)
  | unkeep (req : Req) (v : Nat)
  | dmCopy (q : Nat) (bad : Silicon)
  | dmStride (q : Nat) (bad : Silicon)
  | dmGather (q : Nat) (bad : Silicon)
  | dmScatter (q : Nat) (bad : Silicon)
  | xlatInv (req : Req) (u : XlatUnit)
  | farPortDown (p : Nat)
  | farTierAerEvent (p : Nat) (unc cor : BitVec 32)
  | dramRefresh (v : Nat)
  -- parameter update (11)
  | bmeSgd (q : Nat) (bad : Silicon)
  | bmeAdamw (q : Nat) (bad : Silicon)
  | bmeRowada (q : Nat) (bad : Silicon)
  -- fabric (12)
  | memoryPlaneAccessReceive (m : MpPacket)
  | remoteAtomic
  | acknowledgementSend (slot : Nat)
  | acknowledgementReceive (slot n : Nat)
  | remoteReadResponse (id : Nat) (data : List Byte)
  | rackPathDown (path : Nat)
  | torusPortDown (die port : Nat)
  | linkLevelRetransmission (die port : Nat)
  | torusPacketHop (m : TorusPacket)
  | fbPeerDeadWrite (req : Req) (v : Word)
  | fbAmo (q : Nat)
  | fbSend (q : Nat) (accepted : Bool)
  | sendPayloadDone (id : Nat)
  | fbRecv (q : Nat)
  | messageHeaderArrival (die src : Nat) (tag : BitVec 32) (len id : Nat)
  | messageReceiveDone (die : Nat) (data : List Byte)
  | headerResend (q : Nat) (accepted : Bool)
  | fbNop (q : Nat)
  -- collectives (13)
  | fbAllreduce (q : Nat)
  | fbRscat (q : Nat)
  | fbAgather (q : Nat)
  | fbBcast (q : Nat)
  | fbBarrier (q : Nat)
  | segmentAdmission
  | triggeredOperation (g seg : Nat) (x : Combine)
  | collectivePacketArrival (m : CollPacket)
  | abortToken (g : Nat)
  | fbGstatAbort (req : Req) (g : Nat)
  | fbGstatReset (req : Req) (g : Nat)
  -- plant ports (14)
  | slotCommit (dt p n : Nat) (held : Bool)
  | keepAliveSend (dt p n : Nat)
  | frameReceive (dt p : Nat) (frame : List Byte) (fcsOk : Bool)
  | ppFbload (q : Nat)
  | ppSend (q dt : Nat)
  | plantLinkDown (p : Nat)
  | plantLinkUp (p : Nat)
  -- the image (15)
  | imgLoad (req : Req) (banks : List (Nat × List (Nat × Nat × Nat)))
  | unload (req : Req)
  | registerWrite (req : Req) (off size : Nat) (v : Word)
  -- host link and start-up (16)
  | biasFlip (req : Req) (v : Word) (dirty : List (Nat × List Byte))
  | identity (req : Req) (len : Nat)
  | attest (req : Req) (len : Nat)
  | ownerSet (req : Req) (len : Nat) (signed : Bool)
  | mgmt (req : Req) (len : Nat) (signed : Bool)
  | mailboxBadRequest (req : Req) (cmd len : Nat)
  | hlHostDbWrite (req : Req) (v : Word)
  | restart (req : Req) (k : Nat)
  | dbSet (req : Req) (k : Nat)
  | featLock (req : Req)
  | hostless
  | hostLinkDown
  | hostLinkUp
  | powerGood (board : Board) (boot : Boot)
  | identityTreesBuilt (ok : Bool)
  | bcastSend (req : Req) (banks : List (Nat × List (Nat × Nat × Nat)))
  | chunkReceive (root size n : Nat) (data : List Byte)
  | chunkTimeout
  | broadcastAcknowledgement (child count : Nat)
  | broadcastResendRequest (child : Nat)
  | broadcastDiscardNotice
  | bcastStart (banks : List (Nat × List (Nat × Nat × Nat)))
  -- dependability (17)
  | fenceGo (req : Req) (c : Nat) (persist : Bool)
  | fenceReport (c : Nat)
  | inj (req : Req) (c unit count : Nat)
  | soundingTestGo (req : Req) (c : Nat) (full : Bool)
  | coreSoundCommand (q : Nat)
  | soundResult (c : Nat) (fail : Option Nat)
  | custodianEvent
  | custodianError (e : CustErr)
  | tideCmp (u : CmpUnit) (again : Bool)
  | supplyWarn (vin : Nat)
  | supplyWarnClear (vin : Nat)
  | supplyReset (vin : Nat)
  | powerDown (vin : Nat)
  | resetN
  | perstN (low : Bool)
  -- reproducibility and counters (18)
  | recordResume
  | replayGo (req : Req) (kinds : Nat)
  | armOff (req : Req)
  | replayDeliver (dt : Nat)
  | snap (req : Req)
  | snapshotWrite
  -- folios (19)
  | folioTrigger
  | folioGo (req : Req)
  | folioRequest (x : Nat)
  | leafCopy
  | folioCommit
  | folioValid
  | folioAbort (req : Req)
  | abandonNotice (gen cause : Nat)
  | restore (req : Req) (mask : Word) (leaves : Nat)
  | restoreChoice (rank gen : Nat)
  | restoreAnnouncement (gen : Nat) (lost : List Nat) (x : RestoreRows)
  | restoreEnd
  -- supply and management (20)
  | healthSummary
  | healthGet (tag : Nat)
  | fenceCore (tag c : Nat) (persist : Bool)
  | sound (tag c : Nat) (full : Bool)
  | setCap (tag cap floor : Nat)
  | setThresh (tag warn rst : Nat)
  | logFetch (tag first count : Nat)
  | mgmtReset (tag : Nat)
  | managementAttest (tag : Nat) (nonce : List Byte)
  | managementOwnerSet (tag : Nat) (req : List Byte) (signed : Bool)
  | reparent (tag id : Nat)
  | addChild (tag id : Nat)
  | dropChild (tag id : Nat)
  | mctpControl (m : MctpReq)
  | pldmMonitoring (m : PldmReq)
  | pldmFirmwareUpdate (m : FwReq)
  | i3cDynamicAddressAssignment (addr : Nat)
  | minClr (req : Req)
  deriving DecidableEq, Repr

end Sys2Proof
end

