-- ==== Sys2Proof/Machine/Bits.lean ====
section
/-! DEFINITION. Tables, byte order, bit fields and sparse byte memory: the plain-data operations every chapter uses. -/

namespace Sys2Proof.Machine

/-! ## Tables: lists of key and value; a key that is not listed has the default -/

/-- The value of key `k`, or `d` if the table does not list it. -/
def tget {κ α : Type} [DecidableEq κ] (d : α) (k : κ) : List (κ × α) → α
  | [] => d
  | (k', v) :: t => if k = k' then v else tget d k t

/-- The table with key `k` at `v`; the other keys keep their values and places. -/
def tset {κ α : Type} [DecidableEq κ] (k : κ) (v : α) : List (κ × α) → List (κ × α)
  | [] => [(k, v)]
  | (k', v') :: t => if k = k' then (k, v) :: t else (k', v') :: tset k v t

/-- The table without key `k`. -/
def tdel {κ α : Type} [DecidableEq κ] (k : κ) : List (κ × α) → List (κ × α)
  | [] => []
  | (k', v') :: t => if k = k' then tdel k t else (k', v') :: tdel k t

/-- Whether the table lists `k`. -/
def thas {κ α : Type} [DecidableEq κ] (k : κ) : List (κ × α) → Bool
  | [] => false
  | (k', _) :: t => if k = k' then true else thas k t

/-- A list with `x` put before the first element that does not come before it. -/
def insertBy {α : Type} (le : α → α → Bool) (x : α) : List α → List α
  | [] => [x]
  | y :: t => if le x y then x :: y :: t else y :: insertBy le x t

/-- A list in the order `le`. -/
def sortBy {α : Type} (le : α → α → Bool) : List α → List α
  | [] => []
  | x :: t => insertBy le x (sortBy le t)

/-! ## Bytes and numbers, little-endian (00 R2) -/

/-- The `n` low bytes of `w`, lowest first. -/
def bytesOf : Nat → Nat → List Byte
  | 0, _ => []
  | n + 1, w => BitVec.ofNat 8 (w % 256) :: bytesOf n (w / 256)

/-- The number whose bytes, lowest first, are given. -/
def ofBytes : List Byte → Nat
  | [] => 0
  | b :: t => b.toNat + 256 * ofBytes t

/-- The bytes of a list at offset `o`, `n` of them, zero beyond the end. -/
def sliceB (l : List Byte) (o n : Nat) : List Byte := (List.range n).map (fun j => (l.drop o).getD j 0)

/-- The little-endian number of `n` bytes at offset `o` of a byte list. -/
def numAt (l : List Byte) (o n : Nat) : Nat := ofBytes ((l.drop o).take n)

/-- `n` zero bytes. -/
def zeros (n : Nat) : List Byte := List.replicate n 0

/-- A byte list padded with zeros to `n` bytes. -/
def padTo (n : Nat) (l : List Byte) : List Byte := l ++ zeros (n - l.length)

/-- Bits hi:lo of a number. -/
def bits (w hi lo : Nat) : Nat := w / 2 ^ lo % 2 ^ (hi + 1 - lo)

/-- Bit `b` of a number. -/
def bit (w b : Nat) : Bool := w / 2 ^ b % 2 == 1

/-- A Boolean as a bit. -/
def b2n (b : Bool) : Nat := if b then 1 else 0

/-- The two's-complement value of the low `w` bits of `n`. -/
def sval (w n : Nat) : Int := if n % 2 ^ w < 2 ^ (w - 1) then (n % 2 ^ w : Nat) else ((n % 2 ^ w : Nat) : Int) - (2 ^ w : Nat)

/-- The `w`-bit two's-complement code of an integer. -/
def scode (w : Nat) (z : Int) : Nat := (z % ((2 ^ w : Nat) : Int)).toNat

/-- A count that stops at its largest value (`w` bits). -/
def satAdd (w x n : Nat) : Nat := if x + n ≤ 2 ^ w - 1 then x + n else 2 ^ w - 1

/-- The number of set bits among the low `n` bits. -/
def popcount (w : Nat) : Nat → Nat
  | 0 => 0
  | n + 1 => popcount w n + b2n (bit w n)

/-- Bitwise exclusive or of two byte lists, the shorter read as zero-padded. -/
def xorB : List Byte → List Byte → List Byte
  | [], l => l
  | l, [] => l
  | a :: s, b :: t => (a ^^^ b) :: xorB s t

/-! ## Sparse byte memory: addresses strictly rising, no byte equal to the unlisted value zero -/

/-- What an address that no entry lists reads as (log entry 2). -/
def Mem.blank : Byte := 0

/-- The byte at address `a`. -/
def Mem.get : List Host.Cell → Nat → Byte
  | [], _ => Mem.blank
  | (a', b) :: t, a => if a = a' then b else if a < a' then Mem.blank else Mem.get t a

/-- The memory with byte `b` at address `a`, in canonical form. -/
def Mem.put (a : Nat) (b : Byte) : List Host.Cell → List Host.Cell
  | [] => if b = Mem.blank then [] else [(a, b)]
  | (a', b') :: t =>
    if a = a' then (if b = Mem.blank then t else (a, b) :: t)
    else if a < a' then (if b = Mem.blank then (a', b') :: t else (a, b) :: (a', b') :: t)
    else (a', b') :: Mem.put a b t

/-- The memory with a list of bytes written from address `a` upward. -/
def Mem.write (a : Nat) : List Byte → List Host.Cell → List Host.Cell
  | [], m => m
  | b :: t, m => Mem.write (a + 1) t (Mem.put a b m)

/-- `n` bytes read from address `a` upward. -/
def Mem.read (m : List Host.Cell) (a n : Nat) : List Byte := (List.range n).map (fun j => Mem.get m (a + j))

/-- Every entry lies above `lo`, addresses rise strictly, and no byte is the unlisted value. -/
def Mem.wfFrom : Nat → List Host.Cell → Bool
  | _, [] => true
  | lo, (a, b) :: t => decide (lo ≤ a) && decide (b ≠ Mem.blank) && Mem.wfFrom (a + 1) t

/-- The canonical form of a memory. -/
def Memory.wf (m : List Host.Cell) : Bool := Mem.wfFrom 0 m

/-- The listed bytes of an address range, with addresses relative to its start. -/
def Mem.cut (m : List Host.Cell) (a n : Nat) : List Host.Cell :=
  (m.filter (fun c => decide (a ≤ c.1) && decide (c.1 < a + n))).map (fun c => (c.1 - a, c.2))

/-- The memory without the listed bytes of an address range. -/
def Mem.clear (m : List Host.Cell) (a n : Nat) : List Host.Cell :=
  m.filter (fun c => !(decide (a ≤ c.1) && decide (c.1 < a + n)))

/-- Writes sparse bytes, at addresses relative to `a`, over a cleared range. -/
def Mem.paste (m : List Host.Cell) (a n : Nat) (cells : List Host.Cell) : List Host.Cell :=
  cells.foldl (fun m c => Mem.put (a + c.1) c.2 m) (Mem.clear m a n)

/-- Sparse exclusive or of two ranges. -/
def Mem.xor (m cells : List Host.Cell) : List Host.Cell :=
  cells.foldl (fun m c => Mem.put c.1 (Mem.get m c.1 ^^^ c.2) m) m

/-- `n` addresses from `a`. -/
def addrs (a n : Nat) : List Nat := (List.range n).map (a + ·)

end Sys2Proof.Machine
end

