-- ==== Sys2Proof/Machine/Float.lean ====
section
/-! DEFINITION. binary64 and binary32 arithmetic (03 R76 to R82): every operation is computed exactly and rounded once.
Results come with their exception flags in the layout of R80. -/

namespace Sys2Proof.Machine

/-- A binary interchange format: exponent and fraction widths. -/
structure FFmt where
  eb : Nat
  mb : Nat
  deriving DecidableEq, Repr

/-- binary64 (format code 0). -/
def f64 : FFmt := ⟨11, 52⟩

/-- binary32 (format code 1). -/
def f32 : FFmt := ⟨8, 23⟩

/-- A decoded value: a NaN with sign, payload and quiet bit, an infinity, or (−1)^s × m × 2^e. -/
inductive FVal where
  | nan (s : Bool) (payload : Nat) (quiet : Bool)
  | inf (s : Bool)
  | fin (s : Bool) (m : Nat) (e : Int)
  deriving DecidableEq, Repr

/-- A result code and its exception flags. -/
structure FRes where
  code : Nat
  flags : Nat
  deriving DecidableEq, Repr

/-- R80: invalid operation. -/
def flInvalid : Nat := 1
/-- R80: division by zero. -/
def flDivZero : Nat := 2
/-- R80: overflow. -/
def flOverflow : Nat := 4
/-- R80: underflow. -/
def flUnderflow : Nat := 8
/-- R80: inexact. -/
def flInexact : Nat := 16

/-- The width of a format. -/
def FFmt.w (F : FFmt) : Nat := F.eb + F.mb + 1
/-- The exponent bias. -/
def FFmt.bias (F : FFmt) : Nat := 2 ^ (F.eb - 1) - 1
/-- The exponent of the least subnormal. -/
def FFmt.qmin (F : FFmt) : Int := 1 - (F.bias : Int) - F.mb
/-- The code of an infinity. -/
def FFmt.infCode (F : FFmt) (s : Bool) : Nat := b2n s * 2 ^ (F.w - 1) + (2 ^ F.eb - 1) * 2 ^ F.mb
/-- R82: the default NaN. -/
def FFmt.dnan (F : FFmt) : Nat := (2 ^ F.eb - 1) * 2 ^ F.mb + 2 ^ (F.mb - 1)
/-- The code of a zero. -/
def FFmt.zero (F : FFmt) (s : Bool) : Nat := b2n s * 2 ^ (F.w - 1)

/-- The value of a code. -/
def FFmt.dec (F : FFmt) (c : Nat) : FVal :=
  let s := bit c (F.w - 1)
  let e := bits c (F.w - 2) F.mb
  let f := bits c (F.mb - 1) 0
  if e = 2 ^ F.eb - 1 then
    if f = 0 then .inf s else .nan s (bits f (F.mb - 2) 0) (bit f (F.mb - 1))
  else if e = 0 then .fin s f F.qmin
  else .fin s (2 ^ F.mb + f) (F.qmin + (e - 1 : Nat))

/-- The code of a quiet NaN with a sign and payload. -/
def FFmt.qnan (F : FFmt) (s : Bool) (payload : Nat) : Nat := b2n s * 2 ^ (F.w - 1) + F.dnan + payload % 2 ^ (F.mb - 1)

/-- The number of bits of a magnitude. -/
def blen (m : Nat) : Nat := if m = 0 then 0 else Nat.log2 m + 1

/-- Whether rounding attribute `rm` (R78, codes 0 to 4) moves a magnitude away from zero, by the kept integer, the
remainder and the divisor 2^sh it was taken by. -/
def roundsUp (rm : Nat) (s : Bool) (kept rem sh : Nat) : Bool :=
  match rm with
  | 0 => decide (2 * rem > 2 ^ sh) || (decide (2 * rem = 2 ^ sh) && decide (kept % 2 = 1))
  | 1 => false
  | 2 => !s && decide (0 < rem)
  | 3 => s && decide (0 < rem)
  | _ => decide (2 * rem ≥ 2 ^ sh)

/-- A magnitude m × 2^e rounded to `p` significant bits with least exponent `q0`: integer, exponent, inexact. -/
def roundMag (p : Nat) (q0 : Int) (rm : Nat) (s : Bool) (m : Nat) (e : Int) : Nat × Int × Bool :=
  let q := max (e + blen m - p) q0
  if q ≤ e then (m * 2 ^ (e - q).toNat, q, false)
  else
    let sh := (q - e).toNat
    let kept := m / 2 ^ sh
    let rem := m % 2 ^ sh
    (kept + b2n (roundsUp rm s kept rem sh), q, decide (rem ≠ 0))

/-- The code and flags of (−1)^s × m × 2^e, m not zero, rounded once (R76, R78, R81). -/
def FFmt.pack (F : FFmt) (rm : Nat) (s : Bool) (m : Nat) (e : Int) : FRes :=
  let p := F.mb + 1
  let sgn := b2n s * 2 ^ (F.w - 1)
  let (k, q, inex) := roundMag p F.qmin rm s m e
  let emaxq : Int := F.bias - F.mb
  if (k ≥ 2 ^ p ∧ q + 1 > emaxq) ∨ q > emaxq then
    let toInf := match rm with
      | 1 => false
      | 2 => !s
      | 3 => s
      | _ => true
    let c := if toInf then (2 ^ F.eb - 1) * 2 ^ F.mb else (2 ^ F.eb - 1) * 2 ^ F.mb - 1
    ⟨sgn + c, flOverflow + flInexact⟩
  else
    let (ku, qu, _) := roundMag p (e - 10000) rm s m e
    let tiny := decide ((blen ku : Int) + qu ≤ F.qmin + F.mb)
    ⟨sgn + (q - F.qmin).toNat * 2 ^ F.mb + k, (if inex then flInexact else 0) + (if tiny && inex then flUnderflow else 0)⟩

/-- The exact value of an integer times a power of two, rounded; an exact zero takes the sign given. -/
def FFmt.packInt (F : FFmt) (rm : Nat) (zs : Bool) (z : Int) (e : Int) : FRes :=
  if z = 0 then ⟨F.zero zs, 0⟩ else F.pack rm (decide (z < 0)) z.natAbs e

/-- R82: the result of an operation that has NaN operands: the first of them, quieted; invalid if one signals. -/
def FFmt.nans (F : FFmt) (xs : List FVal) : Option FRes :=
  let first := xs.findSome? (fun x => match x with
    | .nan s p _ => some (F.qnan s p)
    | _ => none)
  let sig := xs.any (fun x => match x with
    | .nan _ _ false => true
    | _ => false)
  first.map (fun c => ⟨c, if sig then flInvalid else 0⟩)

/-- R82: an invalid operation without NaN operands. -/
def FFmt.invalid (F : FFmt) : FRes := ⟨F.dnan, flInvalid⟩

/-- The sign an exact zero sum takes: negative only when both addends are, or under roundTowardNegative. -/
def zeroSign (rm : Nat) (a b : Bool) : Bool := if a = b then a else rm == 3

/-- (−1)^s × m as an integer. -/
def sgnInt (s : Bool) (m : Nat) : Int := if s then -(m : Int) else m

/-- The sum of two finite values rounded. -/
def FFmt.addFin (F : FFmt) (rm : Nat) (sa : Bool) (ma : Nat) (ea : Int) (sb : Bool) (mb : Nat) (eb : Int) : FRes :=
  if ma = 0 ∧ mb = 0 then ⟨F.zero (zeroSign rm sa sb), 0⟩
  else if ma = 0 then F.pack rm sb mb eb
  else if mb = 0 then F.pack rm sa ma ea
  else
    let e := min ea eb
    let z := sgnInt sa (ma * 2 ^ (ea - e).toNat) + sgnInt sb (mb * 2 ^ (eb - e).toNat)
    F.packInt rm (zeroSign rm sa sb) z e

/-- Addition of decoded values. -/
def FFmt.addV (F : FFmt) (rm : Nat) (x y : FVal) : FRes :=
  match F.nans [x, y] with
  | some r => r
  | none =>
    match x, y with
    | .inf s, .inf t => if s = t then ⟨F.infCode s, 0⟩ else F.invalid
    | .inf s, _ => ⟨F.infCode s, 0⟩
    | _, .inf t => ⟨F.infCode t, 0⟩
    | .fin sa ma ea, .fin sb mb eb => F.addFin rm sa ma ea sb mb eb
    | _, _ => F.invalid

/-- Negation of a decoded value. -/
def FVal.neg : FVal → FVal
  | .nan s p q => .nan (!s) p q
  | .inf s => .inf (!s)
  | .fin s m e => .fin (!s) m e

/-- Addition. -/
def FFmt.add (F : FFmt) (rm a b : Nat) : FRes := F.addV rm (F.dec a) (F.dec b)

/-- Subtraction: the second operand negated unless it is a NaN. -/
def FFmt.sub (F : FFmt) (rm a b : Nat) : FRes :=
  let y := F.dec b
  F.addV rm (F.dec a) (match y with
    | .nan s p q => .nan s p q
    | v => v.neg)

/-- Multiplication. -/
def FFmt.mul (F : FFmt) (rm a b : Nat) : FRes :=
  let x := F.dec a
  let y := F.dec b
  match F.nans [x, y] with
  | some r => r
  | none =>
    match x, y with
    | .inf s, .inf t => ⟨F.infCode (xor s t), 0⟩
    | .inf s, .fin t m _ => if m = 0 then F.invalid else ⟨F.infCode (xor s t), 0⟩
    | .fin s m _, .inf t => if m = 0 then F.invalid else ⟨F.infCode (xor s t), 0⟩
    | .fin s m e, .fin t n g => if m * n = 0 then ⟨F.zero (xor s t), 0⟩ else F.pack rm (xor s t) (m * n) (e + g)
    | _, _ => F.invalid

/-- a × b + c of decoded values, rounded once; 0 × ∞ is invalid even beside a quiet NaN (R81). -/
def FFmt.fmaV (F : FFmt) (rm : Nat) (x y z : FVal) : FRes :=
  let zinf := match x, y with
    | .fin _ 0 _, .inf _ => true
    | .inf _, .fin _ 0 _ => true
    | _, _ => false
  match F.nans [x, y, z] with
  | some r => ⟨r.code, if zinf || r.flags != 0 then flInvalid else 0⟩
  | none =>
    if zinf then F.invalid else
    match x, y, z with
    | .fin s m e, .fin t n g, .fin u k h => F.addFin rm (xor s t) (m * n) (e + g) u k h
    | .fin _ _ _, .fin _ _ _, .inf u => ⟨F.infCode u, 0⟩
    | .inf s, .inf t, .inf u => if xor s t = u then ⟨F.infCode u, 0⟩ else F.invalid
    | .inf s, .inf t, _ => ⟨F.infCode (xor s t), 0⟩
    | .inf s, .fin t _ _, .inf u => if xor s t = u then ⟨F.infCode u, 0⟩ else F.invalid
    | .inf s, .fin t _ _, _ => ⟨F.infCode (xor s t), 0⟩
    | .fin s _ _, .inf t, .inf u => if xor s t = u then ⟨F.infCode u, 0⟩ else F.invalid
    | .fin s _ _, .inf t, _ => ⟨F.infCode (xor s t), 0⟩
    | _, _, _ => F.invalid

/-- fusedMultiplyAdd. -/
def FFmt.fma (F : FFmt) (rm a b c : Nat) : FRes := F.fmaV rm (F.dec a) (F.dec b) (F.dec c)

/-- Division. -/
def FFmt.div (F : FFmt) (rm a b : Nat) : FRes :=
  let x := F.dec a
  let y := F.dec b
  match F.nans [x, y] with
  | some r => r
  | none =>
    match x, y with
    | .inf _, .inf _ => F.invalid
    | .inf s, .fin t _ _ => ⟨F.infCode (xor s t), 0⟩
    | .fin s _ _, .inf t => ⟨F.zero (xor s t), 0⟩
    | .fin s m e, .fin t n g =>
      if n = 0 then (if m = 0 then F.invalid else ⟨F.infCode (xor s t), flDivZero⟩)
      else if m = 0 then ⟨F.zero (xor s t), 0⟩
      else
        let k := F.mb + 4 + blen n - blen m
        let num := m * 2 ^ k
        let q := num / n
        F.pack rm (xor s t) (2 * q + b2n (decide (num % n ≠ 0))) (e - g - k - 1)
    | _, _ => F.invalid

/-- The integer square root, found bit by bit from bit `k - 1` down, starting at `acc`. -/
def isqrtFrom (n : Nat) : Nat → Nat → Nat
  | 0, acc => acc
  | k + 1, acc => if (acc + 2 ^ k) * (acc + 2 ^ k) ≤ n then isqrtFrom n k (acc + 2 ^ k) else isqrtFrom n k acc

/-- ⌊√n⌋. -/
def isqrt (n : Nat) : Nat := isqrtFrom n (blen n / 2 + 1) 0

/-- Square root. -/
def FFmt.sqrt (F : FFmt) (rm a : Nat) : FRes :=
  let x := F.dec a
  match F.nans [x] with
  | some r => r
  | none =>
    match x with
    | .inf s => if s then F.invalid else ⟨F.infCode false, 0⟩
    | .fin s m e =>
      if m = 0 then ⟨F.zero s, 0⟩
      else if s then F.invalid
      else
        let k := 2 * (F.mb + 4) + (if (e - (2 * (F.mb + 4) : Nat)) % 2 = 0 then 0 else 1)
        let n := m * 2 ^ k
        let r := isqrt n
        F.pack rm false (2 * r + b2n (decide (r * r ≠ n))) ((e - k) / 2 - 1)
    | _ => F.invalid

/-- rSqrt (05 R146): 1/√a, rounded once. -/
def FFmt.rsqrt (F : FFmt) (rm a : Nat) : FRes :=
  let x := F.dec a
  match F.nans [x] with
  | some r => r
  | none =>
    match x with
    | .inf s => if s then F.invalid else ⟨F.zero false, 0⟩
    | .fin s m e =>
      if m = 0 then ⟨F.infCode s, flDivZero⟩
      else if s then F.invalid
      else
        let odd := e % 2 ≠ 0
        let m' := if odd then 2 * m else m
        let e' := if odd then e - 1 else e
        let t := F.mb + 4 + blen m'
        let r := isqrt (2 ^ (2 * t) / m')
        F.pack rm false (2 * r + b2n (decide (r * r * m' ≠ 2 ^ (2 * t)))) (-(e' / 2) - t - 1)
    | _ => F.invalid

/-- Order of two values that are not NaN: the exact comparison. -/
def FVal.lt (x y : FVal) : Bool :=
  match x, y with
  | .inf s, .inf t => s && !t
  | .inf s, _ => s
  | _, .inf t => !t
  | .fin sa ma ea, .fin sb mb eb =>
    let e := min ea eb
    decide (sgnInt sa (ma * 2 ^ (ea - e).toNat) < sgnInt sb (mb * 2 ^ (eb - e).toNat))
  | _, _ => false

/-- Whether a value is a NaN. -/
def FVal.isNan : FVal → Bool
  | .nan _ _ _ => true
  | _ => false

/-- Whether a value is a signalling NaN. -/
def FVal.isSnan : FVal → Bool
  | .nan _ _ false => true
  | _ => false

/-- Whether a value is infinite. -/
def FVal.isInf : FVal → Bool
  | .inf _ => true
  | _ => false

/-- The sign of a value. -/
def FVal.sign : FVal → Bool
  | .nan s _ _ => s
  | .inf s => s
  | .fin s _ _ => s

/-- Whether a value is a zero. -/
def FVal.isZero : FVal → Bool
  | .fin _ 0 _ => true
  | _ => false

/-- Less-than that also orders −0 below +0, as minimum and maximum need. -/
def FVal.ltz (x y : FVal) : Bool := x.lt y || (x.isZero && y.isZero && x.sign && !y.sign)

/-- A comparison: `k` is 0 eq, 1 lt, 2 le, 3 unordered. Ordered relations signal on any NaN, eq and unordered only on a
signalling one (IEEE 754-2019). -/
def FFmt.cmp (F : FFmt) (k a b : Nat) : Bool × Nat :=
  let x := F.dec a
  let y := F.dec b
  let un := x.isNan || y.isNan
  let sig := x.isSnan || y.isSnan
  let fl := if (un && (k == 1 || k == 2)) || sig then flInvalid else 0
  let r := if un then k == 3 else match k with
    | 0 => !x.lt y && !y.lt x
    | 1 => x.lt y
    | 2 => !y.lt x
    | _ => false
  (r, fl)

/-- minimum and maximum: a NaN operand is returned under R82. -/
def FFmt.minmax (F : FFmt) (mx : Bool) (a b : Nat) : FRes :=
  let x := F.dec a
  let y := F.dec b
  match F.nans [x, y] with
  | some r => r
  | none => ⟨if (if mx then x.ltz y else y.ltz x) then b else a, 0⟩

/-- minimumNumber and maximumNumber: a number is preferred to a NaN; a signalling NaN raises invalid. -/
def FFmt.minmaxNum (F : FFmt) (mx : Bool) (a b : Nat) : FRes :=
  let x := F.dec a
  let y := F.dec b
  let fl := if x.isSnan || y.isSnan then flInvalid else 0
  if x.isNan && y.isNan then (F.nans [x, y]).getD F.invalid
  else if x.isNan then ⟨b, fl⟩
  else if y.isNan then ⟨a, fl⟩
  else ⟨if (if mx then x.ltz y else y.ltz x) then b else a, 0⟩

/-- A finite magnitude m × 2^e rounded to an integer: the integer and whether it is inexact. -/
def roundInt (rm : Nat) (s : Bool) (m : Nat) (e : Int) : Nat × Bool :=
  if 0 ≤ e then (m * 2 ^ e.toNat, false)
  else
    let sh := (-e).toNat
    let kept := m / 2 ^ sh
    let rem := m % 2 ^ sh
    (kept + b2n (roundsUp rm s kept rem sh), decide (rem ≠ 0))

/-- roundToIntegral with the instruction's attribute; the sign of a zero result is the operand's. -/
def FFmt.rint (F : FFmt) (rm a : Nat) : FRes :=
  let x := F.dec a
  match F.nans [x] with
  | some r => r
  | none =>
    match x with
    | .fin s m e =>
      let (k, _) := roundInt rm s m e
      if k = 0 then ⟨F.zero s, 0⟩ else ⟨(F.pack 0 s k 0).code, 0⟩
    | .inf s => ⟨F.infCode s, 0⟩
    | _ => F.invalid

/-- R82, R102: conversion between the two long formats. -/
def cvtLong (F G : FFmt) (rm a : Nat) : FRes :=
  match F.dec a with
  | .nan s p q =>
    let p' := if F.mb ≤ G.mb then p * 2 ^ (G.mb - F.mb) else p / 2 ^ (F.mb - G.mb)
    ⟨G.qnan s p', if q then 0 else flInvalid⟩
  | .inf s => ⟨G.infCode s, 0⟩
  | .fin s m e => if m = 0 then ⟨G.zero s, 0⟩ else G.pack rm s m e

/-- Conversion of an integer to a long format. -/
def cvtOfInt (G : FFmt) (rm : Nat) (z : Int) : FRes := G.packInt rm false z 0

/-- Conversion to an integer of `w` bits: the exact rounding, or none (NaN, infinity, out of range) with the bound on the
value's side. -/
def cvtToInt (F : FFmt) (rm : Nat) (w : Nat) (sgn : Bool) (a : Nat) : Option Int × Nat :=
  let lo : Int := if sgn then -(2 ^ (w - 1) : Nat) else 0
  let hi : Int := if sgn then (2 ^ (w - 1) : Nat) - 1 else (2 ^ w : Nat) - 1
  match F.dec a with
  | .fin s m e =>
    let (k, inex) := roundInt rm s m e
    let z := sgnInt s k
    if lo ≤ z ∧ z ≤ hi then (some z, if inex then flInexact else 0) else (none, flInvalid)
  | _ => (none, flInvalid)

/-- The magnitude code of a value (abs) and its negation and sign copy act on the code alone. -/
def FFmt.abs (F : FFmt) (a : Nat) : Nat := bits a (F.w - 2) 0
/-- Negation of a code. -/
def FFmt.negc (F : FFmt) (a : Nat) : Nat := bits a (F.w - 2) 0 + (1 - b2n (bit a (F.w - 1))) * 2 ^ (F.w - 1)
/-- fusedMultiplyAdd(−a, b, c) (06 R161). -/
def FFmt.fnma (F : FFmt) (rm a b c : Nat) : FRes := F.fma rm (F.negc a) b c
/-- The magnitude of `a` with the sign of `b`. -/
def FFmt.copysign (F : FFmt) (a b : Nat) : Nat := bits a (F.w - 2) 0 + b2n (bit b (F.w - 1)) * 2 ^ (F.w - 1)

end Sys2Proof.Machine
end

