-- ==== Sys2Proof/Config.lean ====
section
/-! DEFINITION. What the spec leaves open and the model keeps free: constants without a body, so that a statement about
them holds for every value. Each is named in the assumption log. -/

namespace Sys2Proof.Config

/-- A byte the spec leaves open, by the free-value counter at its use and its address (log entry 6). -/
opaque freeByte : Nat → Nat → Byte

/-- A 64-bit value the spec leaves open, by the free-value counter at its use (log entry 6). -/
opaque freeWord : Nat → Word

/-- A 64-bit value the spec leaves open and that may depend on nothing but the inputs given (05 R148, 06 R153; log entry 6). -/
opaque freeOf : List Nat → Nat → Word

/-- A choice the spec leaves open, by the free-value counter at its use and an index (log entry 6). -/
opaque freeIndex : Nat → Nat → Nat

/-- The bytes of the identity signature over a report (16 R461, R465): bottom-tree leaf, top leaf, byte index. The private
values derive from the PUF seed, which never leaves the custodian (log entry 7). -/
opaque attestSigByte : Nat → Nat → Nat → Byte

/-- The bytes of a fence record (true: an unfence record) of a physical core as flash holds it (16, table of board records): HMAC-SHA256 keyed from the PUF
seed, and a layout that the spec does not give (log entry 7). -/
opaque fenceRecord : Nat → Bool → List Byte

end Sys2Proof.Config
end

