-- ==== Sys2Proof/Machine/Regs.lean ====
section
/-! DEFINITION. The control-space registers of the package: one constructor of `Reg` per register line of the spec, its
offset, and its table (width, effect point, who may access it, feature, fields with access code, reset value and used
values), from the register lines and tables of spec/01 to spec/20 and the block table of 16 (R3, R5, R10, R11, R439). -/

namespace Sys2Proof.Machine

/-- Field access codes (00 R5). Bits that no field names are reserved: they read zero and ignore writes. -/
inductive Acc where
  | rw | ro | wo | w1c | w1s | w1p
  deriving DecidableEq, Repr

/-- Effect points (00 R11). -/
inductive Effect where
  | imm | cmd | phase | cycle | block | load
  deriving DecidableEq, Repr

/-- Who may read and write a register: the access rule of its chapter. `dflt` is 15 R435 (and 10 R309, 12 R369, which say
the same); `tide`, `tgJobR`, `tgPt`, `tgCmd` are 02 R70 and R42; `rng` 03 R107; `param`, `qctl`, `qread` 09 R239; `bell`,
`sig` 09 R238; `xlat` 10 R304; `ccOwn`, `ccRead` 08 R234; `ccCtl` 16 R451; `pp`, `ppJobR` 14 R414; `pmcSel`, `pmcVal`,
`pmcShd` 18 R527; `hostDb` 16 R450; `sound` 17 R503. -/
inductive Acl where
  | dflt | tide | tgJobR | tgPt | tgCmd | rng | param | qctl | qread | bell | sig | xlat
  | ccOwn | ccRead | ccCtl | pp | ppJobR | pmcSel | pmcVal | pmcShd | hostDb | sound
  deriving DecidableEq, Repr

/-- One field of a register's table: bounds, access code, reset value, whether the reset is IMG, and the intervals of
values in use (empty: every value is used). -/
structure FieldInfo where
  hi : Nat
  lo : Nat
  acc : Acc
  rst : Nat
  img : Bool
  used : List (Nat × Nat)
  deriving DecidableEq, Repr

/-- A register's introducing line and table. -/
structure RegInfo where
  bytes : Nat
  eff : Effect
  acl : Acl
  feat : Option Nat
  fields : List FieldInfo
  deriving DecidableEq, Repr

/-- The bounds of a field. -/
structure Fld where
  hi : Nat
  lo : Nat
  deriving DecidableEq, Repr

/-- The control-space registers, with their indices: `c` logical core, `k` control core, `q` queue, `v` cove, `p` plant
port, `d` fabric die, `n`, `b`, `w` as in the spec's names. -/
inductive Reg where
  | glUnitEnable (n : Nat)
  | glUnitFenced (n : Nat)
  | glCoreCount
  | glPwrCap
  | glMemMap
  | glLog2phys (n : Nat)
  | glImgAddr
  | glImgCtl
  | glImgStatus
  | glImgInfo
  | glImgDigest (n : Nat)
  | glBootStatus
  | glBcastCtl
  | glBcastStatus
  | glErrStatus
  | glFenceCtl
  | glChkCtl
  | glFolioMembers
  | glFolioCfg
  | glFolioTrig
  | glFolioCtl
  | glFolioStatus
  | glFolioProg
  | glFolioReg (n : Nat)
  | glSupplyCfg
  | glSupplyStatus
  | glThermStatus
  | glMgmtStatus
  | tgCtl
  | tgSrcCfg
  | tgSrcRate
  | tgLoss
  | tgCmd
  | tgStatus
  | tgCount
  | tgCycleNo
  | tgOffset
  | tgZlatch
  | tgRelay
  | tgPtime
  | tgPtimeStep
  | tgPtimeAdj
  | tgPtimeFine
  | tgPhase (n : Nat)
  | tgMark (n : Nat)
  | tgPmcSel (n : Nat)
  | tgPmcValue (n : Nat)
  | tgPmcShadow (n : Nat)
  | ppCfg (p : Nat)
  | ppCtl (p : Nat)
  | ppStatus (p : Nat)
  | ppMissSlots (p : Nat)
  | ppRxRing (p : Nat) (n : Nat)
  | ppRxf (p : Nat) (n : Nat)
  | ppSlotTime (p : Nat) (n : Nat)
  | ppSlotBuf (p : Nat) (n : Nat)
  | ppSlotThr (p : Nat) (n : Nat)
  | hlFeatOffer (n : Nat)
  | hlFeatAccept (n : Nat)
  | hlFeatCtl
  | hlBiasCtl
  | hlMboxCtl
  | hlEvent
  | hlHostDb
  | hlMbox (n : Nat)
  | ftPort (n : Nat)
  | ftSet (n : Nat)
  | cnChoiceBit
  | cnChoiceTime
  | cnRdCtl
  | cnRdRing
  | cnRdStatus
  | cnPmcSel (n : Nat)
  | cnPmcValue (n : Nat)
  | cnPmcShadow (n : Nat)
  | cnRecCtl
  | cnRecRing
  | cnRecWptr
  | cnRecRdptr
  | cnRplCtl
  | cnRplRing
  | cnRplStatus
  | clStatus
  | clEntry (n : Nat) (w : Nat)
  | fbTorusId
  | fbVcWeight (d : Nat)
  | fbMpStatus (d : Nat)
  | fbPeerDead
  | fbCollStatus (d : Nat)
  | fbPort (d : Nat) (n : Nat)
  | fbGroup (n : Nat)
  | fbGstat (n : Nat)
  | fbPmcSel (d : Nat) (n : Nat)
  | fbPmcValue (d : Nat) (n : Nat)
  | fbPmcShadow (d : Nat) (n : Nat)
  | fbExpRange (n : Nat)
  | fbExpKey (n : Nat)
  | fbImpRange (n : Nat)
  | fbImpKey (n : Nat)
  | fbImpCtl (n : Nat)
  | cvHintQuota (v : Nat)
  | cvPrio (v : Nat)
  | cvScrub (v : Nat)
  | cvEcc (v : Nat)
  | cvEccAddr (v : Nat)
  | cvTherm (v : Nat)
  | cvBmeStatus (v : Nat)
  | cvPmcSel (v : Nat) (n : Nat)
  | cvPmcValue (v : Nat) (n : Nat)
  | cvPmcShadow (v : Nat) (n : Nat)
  | cqDoorbell (q : Nat)
  | cqCtl (q : Nat)
  | cqStatus (q : Nat)
  | cqSerial (q : Nat)
  | cqBind (q : Nat)
  | cqRing (q : Nat)
  | cqCring (q : Nat)
  | cqCread (q : Nat)
  | cqSig (n : Nat)
  | coreBind (c : Nat)
  | coreRngKey (c : Nat) (n : Nat)
  | coreRngCtr (c : Nat) (n : Nat)
  | coreSgStatus (c : Nat)
  | coreSvStatus (c : Nat)
  | coreVxStatus (c : Nat)
  | coreVxFlags (c : Nat)
  | coreSig (c : Nat) (n : Nat)
  | coreRbank (c : Nat)
  | coreXlatRoot (c : Nat)
  | coreXlatInv (c : Nat)
  | coreDmFaddr (c : Nat) (n : Nat)
  | coreDmFser (c : Nat) (n : Nat)
  | coreChkStatus (c : Nat)
  | coreSound (c : Nat)
  | corePmcSel (c : Nat) (n : Nat)
  | corePmcValue (c : Nat) (n : Nat)
  | corePmcShadow (c : Nat) (n : Nat)
  | coreParam (c : Nat) (b : Nat) (w : Nat)
  | corePstage (c : Nat) (b : Nat) (w : Nat)
  | coreBank (c : Nat) (b : Nat) (w : Nat)
  | ccStatus (k : Nat)
  | ccTvec (k : Nat)
  | ccTrapCause (k : Nat)
  | ccTrapPc (k : Nat)
  | ccTrapAddr (k : Nat)
  | ccFlags (k : Nat)
  | ccVstate (k : Nat)
  | ccCycle (k : Nat)
  | ccMboxIe (k : Nat)
  | ccXlatRoot (k : Nat)
  | ccXlatInv (k : Nat)
  | ccJobPerm (k : Nat)
  | ccCtl (k : Nat)
  | ccCallStatus (k : Nat)
  | ccMboxTag (k : Nat) (n : Nat)
  | ccMboxVal (k : Nat) (n : Nat)
  deriving DecidableEq, Repr

/-- The control-space offset of a register (16, table of control-space blocks; each chapter's register lines). -/
def Reg.off : Reg → Nat
  | .glUnitEnable n => 0x100 + n * 8
  | .glUnitFenced n => 0x118 + n * 8
  | .glCoreCount => 0x130
  | .glPwrCap => 0x140
  | .glMemMap => 0x200
  | .glLog2phys n => 0x400 + n * 4
  | .glImgAddr => 0x800
  | .glImgCtl => 0x808
  | .glImgStatus => 0x810
  | .glImgInfo => 0x818
  | .glImgDigest n => 0x820 + n * 8
  | .glBootStatus => 0x900
  | .glBcastCtl => 0xa00
  | .glBcastStatus => 0xa08
  | .glErrStatus => 0xb00
  | .glFenceCtl => 0xb08
  | .glChkCtl => 0xb10
  | .glFolioMembers => 0xc00
  | .glFolioCfg => 0xc08
  | .glFolioTrig => 0xc10
  | .glFolioCtl => 0xc18
  | .glFolioStatus => 0xc20
  | .glFolioProg => 0xc28
  | .glFolioReg n => 0xc40 + n * 8
  | .glSupplyCfg => 0xd00
  | .glSupplyStatus => 0xd08
  | .glThermStatus => 0xd10
  | .glMgmtStatus => 0xd18
  | .tgCtl => 0x10000
  | .tgSrcCfg => 0x10008
  | .tgSrcRate => 0x10010
  | .tgLoss => 0x10018
  | .tgCmd => 0x10020
  | .tgStatus => 0x10028
  | .tgCount => 0x10030
  | .tgCycleNo => 0x10038
  | .tgOffset => 0x10040
  | .tgZlatch => 0x10048
  | .tgRelay => 0x10050
  | .tgPtime => 0x10060
  | .tgPtimeStep => 0x10068
  | .tgPtimeAdj => 0x10070
  | .tgPtimeFine => 0x10078
  | .tgPhase n => 0x10100 + n * 8
  | .tgMark n => 0x10800 + n * 8
  | .tgPmcSel n => 0x11000 + n * 32
  | .tgPmcValue n => 0x11008 + n * 32
  | .tgPmcShadow n => 0x11010 + n * 32
  | .ppCfg p => 0x20000 + p * 0x8000
  | .ppCtl p => 0x20008 + p * 0x8000
  | .ppStatus p => 0x20010 + p * 0x8000
  | .ppMissSlots p => 0x20018 + p * 0x8000
  | .ppRxRing p n => 0x20040 + p * 0x8000 + n * 8
  | .ppRxf p n => 0x20100 + p * 0x8000 + n * 8
  | .ppSlotTime p n => 0x21000 + p * 0x8000 + n * 32
  | .ppSlotBuf p n => 0x21008 + p * 0x8000 + n * 32
  | .ppSlotThr p n => 0x21010 + p * 0x8000 + n * 32
  | .hlFeatOffer n => 0x30000 + n * 8
  | .hlFeatAccept n => 0x30010 + n * 8
  | .hlFeatCtl => 0x30020
  | .hlBiasCtl => 0x30100
  | .hlMboxCtl => 0x30108
  | .hlEvent => 0x30110
  | .hlHostDb => 0x30118
  | .hlMbox n => 0x32000 + n * 8
  | .ftPort n => 0x40000 + n * 8
  | .ftSet n => 0x40040 + n * 8
  | .cnChoiceBit => 0x50000
  | .cnChoiceTime => 0x50008
  | .cnRdCtl => 0x50010
  | .cnRdRing => 0x50018
  | .cnRdStatus => 0x50020
  | .cnPmcSel n => 0x50100 + n * 32
  | .cnPmcValue n => 0x50108 + n * 32
  | .cnPmcShadow n => 0x50110 + n * 32
  | .cnRecCtl => 0x50400
  | .cnRecRing => 0x50408
  | .cnRecWptr => 0x50410
  | .cnRecRdptr => 0x50418
  | .cnRplCtl => 0x50440
  | .cnRplRing => 0x50448
  | .cnRplStatus => 0x50450
  | .clStatus => 0x60000
  | .clEntry n w => 0x80000 + n * 32 + w * 8
  | .fbTorusId => 0x100000
  | .fbVcWeight d => 0x100008 + d * 0x80000
  | .fbMpStatus d => 0x100010 + d * 0x80000
  | .fbPeerDead => 0x100018
  | .fbCollStatus d => 0x100020 + d * 0x80000
  | .fbPort d n => 0x100100 + d * 0x80000 + n * 8
  | .fbGroup n => 0x100400 + n * 8
  | .fbGstat n => 0x100600 + n * 8
  | .fbPmcSel d n => 0x100800 + d * 0x80000 + n * 32
  | .fbPmcValue d n => 0x100808 + d * 0x80000 + n * 32
  | .fbPmcShadow d n => 0x100810 + d * 0x80000 + n * 32
  | .fbExpRange n => 0x110000 + n * 32
  | .fbExpKey n => 0x110008 + n * 32
  | .fbImpRange n => 0x130000 + n * 32
  | .fbImpKey n => 0x130008 + n * 32
  | .fbImpCtl n => 0x130010 + n * 32
  | .cvHintQuota v => 0x1000000 + v * 0x10000
  | .cvPrio v => 0x1000008 + v * 0x10000
  | .cvScrub v => 0x1000010 + v * 0x10000
  | .cvEcc v => 0x1000018 + v * 0x10000
  | .cvEccAddr v => 0x1000020 + v * 0x10000
  | .cvTherm v => 0x1000028 + v * 0x10000
  | .cvBmeStatus v => 0x1000030 + v * 0x10000
  | .cvPmcSel v n => 0x1000100 + v * 0x10000 + n * 32
  | .cvPmcValue v n => 0x1000108 + v * 0x10000 + n * 32
  | .cvPmcShadow v n => 0x1000110 + v * 0x10000 + n * 32
  | .cqDoorbell q => 0x2000000 + q * 64
  | .cqCtl q => 0x2000008 + q * 64
  | .cqStatus q => 0x2000010 + q * 64
  | .cqSerial q => 0x2000018 + q * 64
  | .cqBind q => 0x2000020 + q * 64
  | .cqRing q => 0x2000028 + q * 64
  | .cqCring q => 0x2000030 + q * 64
  | .cqCread q => 0x2000038 + q * 64
  | .cqSig n => 0x2100000 + n * 8
  | .coreBind c => 0x10000000 + c * 0x100000
  | .coreRngKey c n => 0x10000200 + c * 0x100000 + n * 8
  | .coreRngCtr c n => 0x10000210 + c * 0x100000 + n * 8
  | .coreSgStatus c => 0x10000300 + c * 0x100000
  | .coreSvStatus c => 0x10000310 + c * 0x100000
  | .coreVxStatus c => 0x10000320 + c * 0x100000
  | .coreVxFlags c => 0x10000328 + c * 0x100000
  | .coreSig c n => 0x10000400 + c * 0x100000 + n * 8
  | .coreRbank c => 0x10000500 + c * 0x100000
  | .coreXlatRoot c => 0x10000600 + c * 0x100000
  | .coreXlatInv c => 0x10000608 + c * 0x100000
  | .coreDmFaddr c n => 0x10000610 + c * 0x100000 + n * 16
  | .coreDmFser c n => 0x10000618 + c * 0x100000 + n * 16
  | .coreChkStatus c => 0x10000700 + c * 0x100000
  | .coreSound c => 0x10000708 + c * 0x100000
  | .corePmcSel c n => 0x10000800 + c * 0x100000 + n * 32
  | .corePmcValue c n => 0x10000808 + c * 0x100000 + n * 32
  | .corePmcShadow c n => 0x10000810 + c * 0x100000 + n * 32
  | .coreParam c b w => 0x10010000 + c * 0x100000 + b * 0x80 + w * 8
  | .corePstage c b w => 0x10020000 + c * 0x100000 + b * 0x80 + w * 8
  | .coreBank c b w => 0x10040000 + c * 0x100000 + b * 0x40000 + w * 8
  | .ccStatus k => 0x30000000 + k * 0x10000
  | .ccTvec k => 0x30000008 + k * 0x10000
  | .ccTrapCause k => 0x30000010 + k * 0x10000
  | .ccTrapPc k => 0x30000018 + k * 0x10000
  | .ccTrapAddr k => 0x30000020 + k * 0x10000
  | .ccFlags k => 0x30000028 + k * 0x10000
  | .ccVstate k => 0x30000030 + k * 0x10000
  | .ccCycle k => 0x30000038 + k * 0x10000
  | .ccMboxIe k => 0x30000040 + k * 0x10000
  | .ccXlatRoot k => 0x30000048 + k * 0x10000
  | .ccXlatInv k => 0x30000050 + k * 0x10000
  | .ccJobPerm k => 0x30000058 + k * 0x10000
  | .ccCtl k => 0x30000060 + k * 0x10000
  | .ccCallStatus k => 0x30000068 + k * 0x10000
  | .ccMboxTag k n => 0x30002000 + k * 0x10000 + n * 16
  | .ccMboxVal k n => 0x30002008 + k * 0x10000 + n * 16

/-- Whether the register's indices lie in the ranges that its introducing line gives. -/
def Reg.inRange : Reg → Bool
  | .glUnitEnable n => decide (n < 3)
  | .glUnitFenced n => decide (n < 3)
  | .glCoreCount => true
  | .glPwrCap => true
  | .glMemMap => true
  | .glLog2phys n => decide (n < 192)
  | .glImgAddr => true
  | .glImgCtl => true
  | .glImgStatus => true
  | .glImgInfo => true
  | .glImgDigest n => decide (n < 4)
  | .glBootStatus => true
  | .glBcastCtl => true
  | .glBcastStatus => true
  | .glErrStatus => true
  | .glFenceCtl => true
  | .glChkCtl => true
  | .glFolioMembers => true
  | .glFolioCfg => true
  | .glFolioTrig => true
  | .glFolioCtl => true
  | .glFolioStatus => true
  | .glFolioProg => true
  | .glFolioReg n => decide (n < 16)
  | .glSupplyCfg => true
  | .glSupplyStatus => true
  | .glThermStatus => true
  | .glMgmtStatus => true
  | .tgCtl => true
  | .tgSrcCfg => true
  | .tgSrcRate => true
  | .tgLoss => true
  | .tgCmd => true
  | .tgStatus => true
  | .tgCount => true
  | .tgCycleNo => true
  | .tgOffset => true
  | .tgZlatch => true
  | .tgRelay => true
  | .tgPtime => true
  | .tgPtimeStep => true
  | .tgPtimeAdj => true
  | .tgPtimeFine => true
  | .tgPhase n => decide (n < 8)
  | .tgMark n => decide (n < 256)
  | .tgPmcSel n => decide (n < 4)
  | .tgPmcValue n => decide (n < 4)
  | .tgPmcShadow n => decide (n < 4)
  | .ppCfg p => decide (p < 2)
  | .ppCtl p => decide (p < 2)
  | .ppStatus p => decide (p < 2)
  | .ppMissSlots p => decide (p < 2)
  | .ppRxRing p n => decide (p < 2) && decide (n < 4)
  | .ppRxf p n => decide (p < 2) && decide (n < 16)
  | .ppSlotTime p n => decide (p < 2) && decide (n < 64)
  | .ppSlotBuf p n => decide (p < 2) && decide (n < 64)
  | .ppSlotThr p n => decide (p < 2) && decide (n < 64)
  | .hlFeatOffer n => decide (n < 2)
  | .hlFeatAccept n => decide (n < 2)
  | .hlFeatCtl => true
  | .hlBiasCtl => true
  | .hlMboxCtl => true
  | .hlEvent => true
  | .hlHostDb => true
  | .hlMbox n => decide (n < 1024)
  | .ftPort n => decide (n < 4)
  | .ftSet n => decide (n < 4)
  | .cnChoiceBit => true
  | .cnChoiceTime => true
  | .cnRdCtl => true
  | .cnRdRing => true
  | .cnRdStatus => true
  | .cnPmcSel n => decide (n < 16)
  | .cnPmcValue n => decide (n < 16)
  | .cnPmcShadow n => decide (n < 16)
  | .cnRecCtl => true
  | .cnRecRing => true
  | .cnRecWptr => true
  | .cnRecRdptr => true
  | .cnRplCtl => true
  | .cnRplRing => true
  | .cnRplStatus => true
  | .clStatus => true
  | .clEntry n w => decide (n < 16384) && decide (w < 4)
  | .fbTorusId => true
  | .fbVcWeight d => decide (d < 2)
  | .fbMpStatus d => decide (d < 2)
  | .fbPeerDead => true
  | .fbCollStatus d => decide (d < 2)
  | .fbPort d n => decide (d < 2) && decide (n < 10)
  | .fbGroup n => decide (n < 64)
  | .fbGstat n => decide (n < 64)
  | .fbPmcSel d n => decide (d < 2) && decide (n < 32)
  | .fbPmcValue d n => decide (d < 2) && decide (n < 32)
  | .fbPmcShadow d n => decide (d < 2) && decide (n < 32)
  | .fbExpRange n => decide (n < 4096)
  | .fbExpKey n => decide (n < 4096)
  | .fbImpRange n => decide (n < 4096)
  | .fbImpKey n => decide (n < 4096)
  | .fbImpCtl n => decide (n < 4096)
  | .cvHintQuota v => decide (v < 32)
  | .cvPrio v => decide (v < 32)
  | .cvScrub v => decide (v < 32)
  | .cvEcc v => decide (v < 32)
  | .cvEccAddr v => decide (v < 32)
  | .cvTherm v => decide (v < 32)
  | .cvBmeStatus v => decide (v < 32)
  | .cvPmcSel v n => decide (v < 32) && decide (n < 8)
  | .cvPmcValue v n => decide (v < 32) && decide (n < 8)
  | .cvPmcShadow v n => decide (v < 32) && decide (n < 8)
  | .cqDoorbell q => decide (q < 4096)
  | .cqCtl q => decide (q < 4096)
  | .cqStatus q => decide (q < 4096)
  | .cqSerial q => decide (q < 4096)
  | .cqBind q => decide (q < 4096)
  | .cqRing q => decide (q < 4096)
  | .cqCring q => decide (q < 4096)
  | .cqCread q => decide (q < 4096)
  | .cqSig n => decide (n < 65536)
  | .coreBind c => decide (c < 192)
  | .coreRngKey c n => decide (c < 192) && decide (n < 2)
  | .coreRngCtr c n => decide (c < 192) && decide (n < 2)
  | .coreSgStatus c => decide (c < 192)
  | .coreSvStatus c => decide (c < 192)
  | .coreVxStatus c => decide (c < 192)
  | .coreVxFlags c => decide (c < 192)
  | .coreSig c n => decide (c < 192) && decide (n < 16)
  | .coreRbank c => decide (c < 192)
  | .coreXlatRoot c => decide (c < 192)
  | .coreXlatInv c => decide (c < 192)
  | .coreDmFaddr c n => decide (c < 192) && decide (n < 2)
  | .coreDmFser c n => decide (c < 192) && decide (n < 2)
  | .coreChkStatus c => decide (c < 192)
  | .coreSound c => decide (c < 192)
  | .corePmcSel c n => decide (c < 192) && decide (n < 8)
  | .corePmcValue c n => decide (c < 192) && decide (n < 8)
  | .corePmcShadow c n => decide (c < 192) && decide (n < 8)
  | .coreParam c b w => decide (c < 192) && decide (b < 512) && decide (w < 16)
  | .corePstage c b w => decide (c < 192) && decide (b < 512) && decide (w < 16)
  | .coreBank c b w => decide (c < 192) && decide (b < 2) && decide (w < 32768)
  | .ccStatus k => decide (k < 48)
  | .ccTvec k => decide (k < 48)
  | .ccTrapCause k => decide (k < 48)
  | .ccTrapPc k => decide (k < 48)
  | .ccTrapAddr k => decide (k < 48)
  | .ccFlags k => decide (k < 48)
  | .ccVstate k => decide (k < 48)
  | .ccCycle k => decide (k < 48)
  | .ccMboxIe k => decide (k < 48)
  | .ccXlatRoot k => decide (k < 48)
  | .ccXlatInv k => decide (k < 48)
  | .ccJobPerm k => decide (k < 48)
  | .ccCtl k => decide (k < 48)
  | .ccCallStatus k => decide (k < 48)
  | .ccMboxTag k n => decide (k < 48) && decide (n < 64)
  | .ccMboxVal k n => decide (k < 48) && decide (n < 64)

/-- The register's table: width, effect point, access class, feature and fields. -/
def Reg.info : Reg → RegInfo
  | .glUnitEnable _ => ⟨8, .imm, .dflt, none, [⟨63, 0, .ro, 0, false, []⟩]⟩
  | .glUnitFenced _ => ⟨8, .imm, .dflt, none, [⟨63, 0, .ro, 0, false, []⟩]⟩
  | .glCoreCount => ⟨4, .imm, .dflt, none, [⟨7, 0, .ro, 0, false, []⟩, ⟨15, 8, .ro, 0, true, []⟩, ⟨23, 16, .ro, 0, false, []⟩]⟩
  | .glPwrCap => ⟨8, .phase, .dflt, none, [⟨12, 0, .rw, 3400, false, []⟩, ⟨44, 32, .rw, 2400, false, []⟩]⟩
  | .glMemMap => ⟨8, .load, .dflt, none, [⟨0, 0, .ro, 0, true, []⟩, ⟨27, 16, .ro, 0, true, [(0, 2048)]⟩]⟩
  | .glLog2phys _ => ⟨4, .load, .dflt, none, [⟨7, 0, .ro, 0, true, []⟩, ⟨31, 31, .ro, 0, true, []⟩]⟩
  | .glImgAddr => ⟨8, .imm, .dflt, none, [⟨40, 12, .rw, 0, false, []⟩]⟩
  | .glImgCtl => ⟨8, .imm, .dflt, none, [⟨0, 0, .w1p, 0, false, []⟩, ⟨1, 1, .w1p, 0, false, []⟩]⟩
  | .glImgStatus => ⟨8, .imm, .dflt, none, [⟨2, 0, .ro, 0, false, []⟩, ⟨7, 4, .ro, 0, false, []⟩, ⟨26, 16, .ro, 0, false, []⟩, ⟨63, 32, .ro, 0, false, []⟩]⟩
  | .glImgInfo => ⟨8, .load, .dflt, none, [⟨1, 0, .ro, 0, true, []⟩, ⟨2, 2, .ro, 0, true, []⟩, ⟨3, 3, .ro, 0, true, []⟩, ⟨4, 4, .ro, 0, true, []⟩, ⟨15, 8, .ro, 0, true, []⟩, ⟨63, 32, .ro, 0, false, []⟩]⟩
  | .glImgDigest _ => ⟨8, .load, .dflt, none, [⟨63, 0, .ro, 0, true, []⟩]⟩
  | .glBootStatus => ⟨8, .imm, .dflt, none, [⟨3, 0, .ro, 0, false, []⟩, ⟨7, 4, .ro, 0, false, []⟩, ⟨8, 8, .ro, 0, false, []⟩, ⟨9, 9, .ro, 0, false, []⟩, ⟨10, 10, .ro, 0, false, []⟩, ⟨63, 32, .ro, 0, false, []⟩]⟩
  | .glBcastCtl => ⟨8, .imm, .dflt, none, [⟨0, 0, .w1p, 0, false, []⟩, ⟨15, 8, .rw, 20, false, [(1, 255)]⟩]⟩
  | .glBcastStatus => ⟨8, .imm, .dflt, none, [⟨3, 0, .ro, 0, false, []⟩, ⟨4, 4, .ro, 0, false, []⟩, ⟨29, 16, .ro, 0, false, []⟩, ⟨30, 30, .ro, 0, false, []⟩, ⟨62, 48, .ro, 0, false, []⟩]⟩
  | .glErrStatus => ⟨8, .imm, .dflt, none, [⟨0, 0, .w1c, 0, false, []⟩, ⟨1, 1, .w1c, 0, false, []⟩, ⟨2, 2, .w1c, 0, false, []⟩, ⟨3, 3, .w1c, 0, false, []⟩, ⟨4, 4, .ro, 0, false, []⟩, ⟨5, 5, .ro, 0, false, []⟩, ⟨22, 16, .ro, 0, false, []⟩, ⟨47, 32, .ro, 0, false, []⟩]⟩
  | .glFenceCtl => ⟨8, .imm, .dflt, none, [⟨7, 0, .rw, 0, false, []⟩, ⟨8, 8, .rw, 0, false, []⟩, ⟨9, 9, .w1p, 0, false, []⟩, ⟨10, 10, .ro, 0, false, []⟩, ⟨12, 11, .ro, 0, false, []⟩]⟩
  | .glChkCtl => ⟨8, .imm, .dflt, none, [⟨7, 0, .rw, 0, false, []⟩, ⟨10, 8, .rw, 0, false, [(0, 5)]⟩, ⟨12, 11, .rw, 1, false, [(1, 2)]⟩, ⟨13, 13, .w1p, 0, false, []⟩, ⟨14, 14, .ro, 0, false, []⟩, ⟨16, 16, .rw, 0, false, []⟩]⟩
  | .glFolioMembers => ⟨8, .load, .dflt, some 7, [⟨63, 0, .ro, 0, true, []⟩]⟩
  | .glFolioCfg => ⟨8, .load, .dflt, some 7, [⟨0, 0, .ro, 0, true, []⟩, ⟨51, 16, .ro, 0, true, []⟩]⟩
  | .glFolioTrig => ⟨8, .cycle, .dflt, some 7, [⟨31, 0, .rw, 0, true, []⟩, ⟨63, 32, .rw, 0, true, []⟩]⟩
  | .glFolioCtl => ⟨8, .imm, .dflt, some 7, [⟨0, 0, .w1p, 0, false, []⟩, ⟨1, 1, .w1p, 0, false, []⟩, ⟨2, 2, .w1p, 0, false, []⟩]⟩
  | .glFolioStatus => ⟨8, .imm, .dflt, some 7, [⟨2, 0, .ro, 0, false, []⟩, ⟨5, 4, .ro, 0, false, []⟩, ⟨7, 6, .ro, 0, false, []⟩, ⟨11, 8, .ro, 0, false, []⟩, ⟨31, 16, .ro, 0, false, []⟩, ⟨63, 32, .ro, 0, false, []⟩]⟩
  | .glFolioProg => ⟨8, .imm, .dflt, some 7, [⟨31, 0, .ro, 0, false, []⟩, ⟨47, 32, .ro, 0, false, []⟩]⟩
  | .glFolioReg _ => ⟨8, .load, .dflt, some 7, [⟨40, 16, .ro, 0, true, []⟩, ⟨63, 41, .ro, 0, true, []⟩]⟩
  | .glSupplyCfg => ⟨8, .imm, .dflt, none, [⟨7, 0, .rw, 184, false, []⟩, ⟨15, 8, .rw, 168, false, []⟩]⟩
  | .glSupplyStatus => ⟨8, .imm, .dflt, none, [⟨15, 0, .ro, 0, false, []⟩, ⟨31, 16, .ro, 0, false, []⟩, ⟨47, 32, .ro, 65535, false, []⟩, ⟨48, 48, .w1p, 0, false, []⟩]⟩
  | .glThermStatus => ⟨8, .imm, .dflt, none, [⟨7, 0, .ro, 0, false, []⟩, ⟨15, 8, .ro, 0, false, []⟩, ⟨23, 16, .ro, 0, false, []⟩, ⟨31, 24, .ro, 0, false, []⟩, ⟨39, 32, .ro, 0, false, []⟩, ⟨47, 40, .ro, 0, false, []⟩, ⟨48, 48, .w1c, 0, false, []⟩]⟩
  | .glMgmtStatus => ⟨8, .imm, .dflt, none, [⟨6, 0, .ro, 0, false, []⟩, ⟨7, 7, .ro, 0, false, []⟩, ⟨15, 8, .ro, 0, false, []⟩, ⟨31, 16, .ro, 0, false, []⟩, ⟨47, 32, .ro, 0, false, []⟩]⟩
  | .tgCtl => ⟨8, .cycle, .tide, none, [⟨15, 0, .rw, 0, true, [(1, 65535)]⟩, ⟨19, 16, .rw, 0, true, [(1, 8)]⟩]⟩
  | .tgSrcCfg => ⟨8, .load, .tide, none, [⟨2, 0, .rw, 0, true, [(0, 5)]⟩, ⟨5, 4, .rw, 0, true, [(0, 2)]⟩, ⟨6, 6, .rw, 0, true, []⟩, ⟨7, 7, .rw, 0, true, []⟩, ⟨11, 8, .rw, 0, true, []⟩, ⟨12, 12, .rw, 0, true, []⟩, ⟨31, 16, .rw, 0, true, []⟩, ⟨63, 32, .rw, 0, true, []⟩]⟩
  | .tgSrcRate => ⟨8, .cycle, .tide, none, [⟨47, 0, .rw, 0, true, []⟩]⟩
  | .tgLoss => ⟨8, .cycle, .tide, none, [⟨25, 0, .rw, 0, true, []⟩, ⟨29, 26, .rw, 0, true, [(2, 15)]⟩, ⟨41, 32, .rw, 15, false, []⟩, ⟨55, 48, .rw, 10, false, [(1, 40)]⟩, ⟨63, 56, .rw, 50, false, [(1, 255)]⟩]⟩
  | .tgCmd => ⟨8, .imm, .tgCmd, none, [⟨0, 0, .w1p, 0, false, []⟩, ⟨1, 1, .w1p, 0, false, []⟩, ⟨2, 2, .w1p, 0, false, []⟩, ⟨3, 3, .w1p, 0, false, []⟩, ⟨4, 4, .w1p, 0, false, []⟩]⟩
  | .tgStatus => ⟨8, .imm, .tgJobR, none, [⟨2, 0, .ro, 0, false, []⟩, ⟨3, 3, .ro, 0, true, []⟩, ⟨6, 4, .ro, 0, false, []⟩, ⟨9, 8, .ro, 2, false, []⟩, ⟨13, 12, .ro, 0, false, []⟩, ⟨16, 16, .w1c, 0, false, []⟩, ⟨17, 17, .w1c, 0, false, []⟩, ⟨18, 18, .w1c, 0, false, []⟩, ⟨19, 19, .w1c, 0, false, []⟩, ⟨20, 20, .w1c, 0, false, []⟩]⟩
  | .tgCount => ⟨8, .imm, .tgJobR, none, [⟨15, 0, .ro, 0, false, []⟩, ⟨63, 16, .ro, 0, false, []⟩]⟩
  | .tgCycleNo => ⟨8, .imm, .tgJobR, none, [⟨47, 0, .ro, 0, false, []⟩, ⟨63, 48, .ro, 0, false, []⟩]⟩
  | .tgOffset => ⟨8, .imm, .tide, none, [⟨63, 0, .ro, 0, false, []⟩]⟩
  | .tgZlatch => ⟨8, .imm, .tide, none, [⟨63, 0, .ro, 0, false, []⟩]⟩
  | .tgRelay => ⟨8, .cycle, .tide, none, [⟨15, 0, .ro, 0, false, []⟩, ⟨31, 16, .ro, 0, false, []⟩, ⟨45, 32, .ro, 0, true, []⟩]⟩
  | .tgPtime => ⟨8, .imm, .tgJobR, none, [⟨63, 0, .ro, 0, false, []⟩]⟩
  | .tgPtimeStep => ⟨8, .imm, .tgPt, none, [⟨63, 0, .wo, 0, false, []⟩]⟩
  | .tgPtimeAdj => ⟨8, .imm, .tgPt, none, [⟨39, 0, .rw, 0, false, []⟩, ⟨63, 63, .rw, 0, false, []⟩]⟩
  | .tgPtimeFine => ⟨8, .imm, .tgJobR, none, [⟨15, 0, .ro, 0, false, []⟩, ⟨63, 16, .ro, 0, false, []⟩]⟩
  | .tgPhase _ => ⟨8, .cycle, .tide, none, [⟨7, 0, .rw, 0, true, []⟩, ⟨9, 8, .rw, 0, true, []⟩, ⟨14, 10, .rw, 0, true, [(0, 16)]⟩, ⟨31, 16, .rw, 0, true, []⟩, ⟨47, 32, .rw, 0, true, []⟩, ⟨48, 48, .rw, 0, true, []⟩]⟩
  | .tgMark _ => ⟨8, .cycle, .tide, none, [⟨15, 0, .rw, 0, true, []⟩, ⟨31, 16, .rw, 0, true, []⟩, ⟨32, 32, .rw, 0, true, []⟩, ⟨33, 33, .rw, 0, true, []⟩, ⟨34, 34, .rw, 0, true, []⟩, ⟨35, 35, .rw, 0, true, []⟩, ⟨36, 36, .rw, 0, true, []⟩]⟩
  | .tgPmcSel _ => ⟨8, .cycle, .pmcSel, none, [⟨7, 0, .rw, 0, true, [(0, 6)]⟩]⟩
  | .tgPmcValue _ => ⟨8, .imm, .pmcVal, none, [⟨47, 0, .rw, 0, false, []⟩]⟩
  | .tgPmcShadow _ => ⟨8, .imm, .pmcShd, none, [⟨47, 0, .ro, 0, false, []⟩]⟩
  | .ppCfg _ => ⟨8, .load, .pp, some 2, [⟨47, 0, .ro, 0, true, []⟩, ⟨48, 48, .ro, 0, true, []⟩, ⟨49, 49, .ro, 0, true, []⟩, ⟨63, 56, .ro, 96, false, []⟩]⟩
  | .ppCtl _ => ⟨8, .imm, .pp, some 2, [⟨0, 0, .rw, 0, false, []⟩]⟩
  | .ppStatus _ => ⟨8, .imm, .ppJobR, some 2, [⟨0, 0, .ro, 0, false, []⟩, ⟨1, 1, .ro, 0, false, []⟩, ⟨2, 2, .w1c, 0, false, []⟩, ⟨6, 4, .ro, 0, false, []⟩, ⟨31, 16, .ro, 0, false, []⟩, ⟨47, 32, .ro, 0, false, []⟩, ⟨63, 48, .ro, 0, false, []⟩]⟩
  | .ppMissSlots _ => ⟨8, .imm, .pp, some 2, [⟨63, 0, .w1c, 0, false, []⟩]⟩
  | .ppRxRing _ _ => ⟨8, .load, .pp, some 2, [⟨3, 0, .ro, 0, true, [(4, 12)]⟩, ⟨40, 11, .ro, 0, true, []⟩, ⟨63, 48, .ro, 0, true, []⟩]⟩
  | .ppRxf _ _ => ⟨8, .block, .pp, some 2, [⟨15, 0, .rw, 0, true, []⟩, ⟨27, 16, .rw, 0, true, []⟩, ⟨29, 28, .rw, 0, true, [(0, 2)]⟩, ⟨31, 30, .rw, 0, true, []⟩, ⟨47, 32, .rw, 0, true, []⟩, ⟨48, 48, .rw, 0, true, []⟩]⟩
  | .ppSlotTime _ _ => ⟨8, .cycle, .pp, some 2, [⟨7, 0, .rw, 0, true, []⟩, ⟨8, 8, .rw, 0, true, []⟩, ⟨9, 9, .rw, 0, true, []⟩, ⟨47, 16, .rw, 0, true, []⟩, ⟨63, 48, .rw, 0, true, []⟩]⟩
  | .ppSlotBuf _ _ => ⟨8, .cycle, .pp, some 2, [⟨40, 6, .rw, 0, true, []⟩, ⟨63, 52, .rw, 0, true, [(1, 4095)]⟩]⟩
  | .ppSlotThr _ _ => ⟨8, .cycle, .pp, some 2, [⟨31, 0, .rw, 0, true, []⟩]⟩
  | .hlFeatOffer _ => ⟨8, .imm, .dflt, none, [⟨63, 0, .ro, 4095, false, []⟩]⟩
  | .hlFeatAccept _ => ⟨8, .imm, .dflt, none, [⟨63, 0, .rw, 0, false, []⟩]⟩
  | .hlFeatCtl => ⟨8, .imm, .dflt, none, [⟨0, 0, .w1p, 0, false, []⟩, ⟨1, 1, .ro, 0, false, []⟩, ⟨2, 2, .w1c, 0, false, []⟩, ⟨3, 3, .ro, 0, false, []⟩]⟩
  | .hlBiasCtl => ⟨8, .imm, .dflt, none, [⟨18, 0, .rw, 0, false, []⟩, ⟨19, 19, .rw, 0, false, []⟩, ⟨20, 20, .w1p, 0, false, []⟩, ⟨21, 21, .ro, 0, false, []⟩]⟩
  | .hlMboxCtl => ⟨8, .imm, .dflt, none, [⟨7, 0, .rw, 0, false, [(1, 255)]⟩, ⟨8, 8, .w1p, 0, false, []⟩, ⟨9, 9, .ro, 0, false, []⟩, ⟨10, 10, .w1c, 0, false, []⟩, ⟨31, 16, .rw, 0, false, []⟩, ⟨47, 32, .ro, 0, false, []⟩]⟩
  | .hlEvent => ⟨8, .imm, .dflt, none, [⟨0, 0, .w1c, 0, false, []⟩, ⟨1, 1, .w1c, 0, false, []⟩, ⟨2, 2, .w1c, 0, false, []⟩, ⟨3, 3, .w1c, 0, false, []⟩, ⟨4, 4, .w1c, 0, false, []⟩, ⟨5, 5, .w1c, 0, false, []⟩]⟩
  | .hlHostDb => ⟨8, .imm, .hostDb, none, [⟨47, 0, .w1p, 0, false, []⟩]⟩
  | .hlMbox _ => ⟨8, .imm, .dflt, none, [⟨63, 0, .rw, 0, false, []⟩]⟩
  | .ftPort _ => ⟨8, .imm, .dflt, some 3, [⟨0, 0, .ro, 0, false, []⟩, ⟨3, 1, .ro, 0, false, []⟩, ⟨5, 4, .ro, 0, false, []⟩, ⟨26, 16, .ro, 0, false, []⟩, ⟨32, 32, .w1c, 0, false, []⟩, ⟨33, 33, .w1c, 0, false, []⟩]⟩
  | .ftSet _ => ⟨8, .load, .dflt, some 3, [⟨11, 0, .ro, 0, true, []⟩, ⟨24, 12, .ro, 0, true, [(0, 4096)]⟩, ⟨26, 25, .ro, 0, true, [(0, 2)]⟩, ⟨39, 32, .ro, 0, true, []⟩]⟩
  | .cnChoiceBit => ⟨8, .imm, .pmcShd, none, [⟨47, 0, .ro, 0, false, []⟩, ⟨51, 48, .ro, 0, false, []⟩]⟩
  | .cnChoiceTime => ⟨8, .imm, .pmcShd, none, [⟨47, 0, .ro, 0, false, []⟩, ⟨51, 48, .ro, 0, false, []⟩]⟩
  | .cnRdCtl => ⟨8, .imm, .pmcSel, none, [⟨0, 0, .rw, 0, false, []⟩, ⟨1, 1, .w1p, 0, false, []⟩]⟩
  | .cnRdRing => ⟨8, .block, .pmcSel, none, [⟨3, 0, .rw, 0, false, [(0, 12)]⟩, ⟨40, 14, .rw, 0, false, []⟩]⟩
  | .cnRdStatus => ⟨8, .imm, .pmcSel, none, [⟨0, 0, .ro, 0, false, []⟩, ⟨31, 16, .ro, 0, false, []⟩, ⟨63, 32, .ro, 0, false, []⟩]⟩
  | .cnPmcSel _ => ⟨8, .cycle, .pmcSel, none, [⟨7, 0, .rw, 0, true, [(0, 16)]⟩]⟩
  | .cnPmcValue _ => ⟨8, .imm, .pmcVal, none, [⟨47, 0, .rw, 0, false, []⟩]⟩
  | .cnPmcShadow _ => ⟨8, .imm, .pmcShd, none, [⟨47, 0, .ro, 0, false, []⟩]⟩
  | .cnRecCtl => ⟨8, .imm, .dflt, some 8, [⟨0, 0, .rw, 0, false, []⟩, ⟨1, 1, .rw, 0, false, []⟩, ⟨2, 2, .w1c, 0, false, []⟩, ⟨13, 8, .rw, 0, false, []⟩]⟩
  | .cnRecRing => ⟨8, .block, .dflt, some 8, [⟨5, 0, .rw, 0, false, [(20, 36)]⟩, ⟨51, 6, .rw, 0, false, []⟩]⟩
  | .cnRecWptr => ⟨8, .imm, .dflt, some 8, [⟨63, 0, .ro, 0, false, []⟩]⟩
  | .cnRecRdptr => ⟨8, .imm, .dflt, some 8, [⟨63, 0, .rw, 0, false, []⟩]⟩
  | .cnRplCtl => ⟨8, .imm, .dflt, some 8, [⟨0, 0, .w1p, 0, false, []⟩, ⟨1, 1, .w1p, 0, false, []⟩, ⟨13, 8, .rw, 0, false, []⟩]⟩
  | .cnRplRing => ⟨8, .block, .dflt, some 8, [⟨5, 0, .rw, 0, false, [(20, 36)]⟩, ⟨51, 6, .rw, 0, false, []⟩]⟩
  | .cnRplStatus => ⟨8, .imm, .dflt, some 8, [⟨2, 0, .ro, 0, false, []⟩, ⟨31, 16, .ro, 0, false, []⟩, ⟨63, 32, .ro, 0, false, []⟩]⟩
  | .clStatus => ⟨8, .imm, .dflt, none, [⟨13, 0, .ro, 0, false, []⟩, ⟨14, 14, .ro, 0, false, []⟩, ⟨47, 16, .ro, 0, false, []⟩]⟩
  | .clEntry _ _ => ⟨8, .imm, .dflt, none, [⟨63, 0, .ro, 0, false, []⟩]⟩
  | .fbTorusId => ⟨8, .load, .dflt, none, [⟨4, 0, .ro, 0, true, []⟩, ⟨9, 5, .ro, 0, true, []⟩, ⟨13, 10, .ro, 0, true, []⟩, ⟨21, 16, .ro, 0, true, []⟩, ⟨29, 24, .ro, 0, true, [(1, 32)]⟩, ⟨35, 30, .ro, 0, true, [(1, 32)]⟩, ⟨40, 36, .ro, 0, true, [(1, 16)]⟩]⟩
  | .fbVcWeight _ => ⟨8, .cycle, .dflt, none, [⟨7, 0, .rw, 0, true, []⟩, ⟨15, 8, .rw, 0, true, []⟩, ⟨23, 16, .rw, 0, true, []⟩, ⟨31, 24, .rw, 0, true, []⟩]⟩
  | .fbMpStatus _ => ⟨8, .imm, .dflt, none, [⟨15, 0, .ro, 0, false, []⟩, ⟨31, 16, .ro, 0, false, []⟩, ⟨47, 32, .ro, 0, false, []⟩, ⟨48, 48, .w1c, 0, false, []⟩]⟩
  | .fbPeerDead => ⟨8, .imm, .dflt, none, [⟨63, 0, .w1s, 0, false, []⟩]⟩
  | .fbCollStatus _ => ⟨8, .imm, .dflt, none, [⟨4, 0, .ro, 0, false, []⟩, ⟨27, 16, .ro, 2048, false, []⟩, ⟨47, 32, .ro, 0, false, []⟩]⟩
  | .fbPort _ _ => ⟨8, .imm, .dflt, none, [⟨0, 0, .ro, 0, false, []⟩, ⟨4, 1, .ro, 0, false, []⟩, ⟨31, 16, .ro, 0, false, []⟩, ⟨32, 32, .w1c, 0, false, []⟩]⟩
  | .fbGroup _ => ⟨8, .load, .dflt, some 6, [⟨4, 0, .ro, 0, true, []⟩, ⟨9, 5, .ro, 0, true, []⟩, ⟨13, 10, .ro, 0, true, []⟩, ⟨21, 16, .ro, 0, true, []⟩, ⟨29, 24, .ro, 0, true, []⟩, ⟨36, 32, .ro, 0, true, []⟩, ⟨42, 40, .ro, 0, true, []⟩, ⟨43, 43, .ro, 0, true, []⟩]⟩
  | .fbGstat _ => ⟨8, .imm, .dflt, some 6, [⟨31, 0, .ro, 0, false, []⟩, ⟨34, 32, .ro, 0, false, []⟩, ⟨39, 36, .ro, 0, false, []⟩, ⟨40, 40, .w1p, 0, false, []⟩, ⟨41, 41, .w1p, 0, false, []⟩]⟩
  | .fbPmcSel _ _ => ⟨8, .cycle, .pmcSel, none, [⟨7, 0, .rw, 0, true, [(0, 0), (16, 25), (32, 41), (48, 57), (64, 73), (80, 89)]⟩]⟩
  | .fbPmcValue _ _ => ⟨8, .imm, .pmcVal, none, [⟨47, 0, .rw, 0, false, []⟩]⟩
  | .fbPmcShadow _ _ => ⟨8, .imm, .pmcShd, none, [⟨47, 0, .ro, 0, false, []⟩]⟩
  | .fbExpRange _ => ⟨8, .imm, .dflt, some 4, [⟨29, 0, .rw, 0, true, []⟩, ⟨59, 30, .rw, 0, true, []⟩]⟩
  | .fbExpKey _ => ⟨8, .imm, .dflt, some 4, [⟨47, 0, .rw, 0, true, []⟩, ⟨51, 48, .rw, 0, true, []⟩, ⟨52, 52, .rw, 0, true, []⟩, ⟨53, 53, .rw, 0, true, []⟩, ⟨54, 54, .rw, 0, true, []⟩, ⟨55, 55, .rw, 0, true, []⟩]⟩
  | .fbImpRange _ => ⟨8, .imm, .dflt, some 4, [⟨29, 0, .rw, 0, true, []⟩, ⟨59, 30, .rw, 0, true, []⟩]⟩
  | .fbImpKey _ => ⟨8, .imm, .dflt, some 4, [⟨47, 0, .rw, 0, true, []⟩, ⟨63, 48, .rw, 0, true, []⟩]⟩
  | .fbImpCtl _ => ⟨8, .imm, .dflt, some 4, [⟨5, 0, .rw, 0, true, []⟩, ⟨6, 6, .rw, 0, true, []⟩]⟩
  | .cvHintQuota _ => ⟨8, .imm, .dflt, none, [⟨3, 0, .rw, 0, true, [(0, 12)]⟩, ⟨4, 4, .w1p, 0, false, []⟩]⟩
  | .cvPrio _ => ⟨8, .imm, .dflt, none, [⟨7, 0, .rw, 0, true, [(1, 64)]⟩]⟩
  | .cvScrub _ => ⟨8, .block, .dflt, none, [⟨5, 0, .rw, 12, false, [(1, 48)]⟩, ⟨63, 32, .ro, 0, false, []⟩]⟩
  | .cvEcc _ => ⟨8, .imm, .dflt, none, [⟨15, 0, .ro, 0, false, []⟩, ⟨31, 16, .ro, 0, false, []⟩, ⟨47, 32, .ro, 0, false, []⟩, ⟨55, 48, .ro, 0, false, []⟩]⟩
  | .cvEccAddr _ => ⟨8, .imm, .dflt, none, [⟨51, 0, .ro, 0, false, []⟩, ⟨54, 52, .ro, 0, false, []⟩]⟩
  | .cvTherm _ => ⟨8, .imm, .dflt, none, [⟨7, 0, .ro, 0, false, []⟩, ⟨10, 8, .ro, 0, false, []⟩, ⟨16, 16, .w1c, 0, false, []⟩]⟩
  | .cvBmeStatus _ => ⟨8, .imm, .dflt, none, [⟨0, 0, .ro, 0, false, []⟩, ⟨2, 1, .ro, 0, false, []⟩, ⟨3, 3, .ro, 0, false, []⟩, ⟨47, 16, .ro, 0, false, []⟩]⟩
  | .cvPmcSel _ _ => ⟨8, .cycle, .pmcSel, none, [⟨7, 0, .rw, 0, true, [(0, 14)]⟩]⟩
  | .cvPmcValue _ _ => ⟨8, .imm, .pmcVal, none, [⟨47, 0, .rw, 0, false, []⟩]⟩
  | .cvPmcShadow _ _ => ⟨8, .imm, .pmcShd, none, [⟨47, 0, .ro, 0, false, []⟩]⟩
  | .cqDoorbell _ => ⟨8, .imm, .bell, none, [⟨31, 0, .rw, 0, false, []⟩]⟩
  | .cqCtl _ => ⟨8, .imm, .qctl, none, [⟨0, 0, .w1p, 0, false, []⟩, ⟨1, 1, .w1p, 0, false, []⟩]⟩
  | .cqStatus _ => ⟨8, .imm, .qread, none, [⟨2, 0, .ro, 0, false, []⟩, ⟨6, 4, .ro, 0, false, []⟩, ⟨7, 7, .ro, 0, false, []⟩, ⟨8, 8, .ro, 0, false, []⟩, ⟨9, 9, .w1c, 0, false, []⟩, ⟨10, 10, .w1c, 0, false, []⟩, ⟨63, 32, .ro, 0, false, []⟩]⟩
  | .cqSerial _ => ⟨8, .imm, .qread, none, [⟨47, 0, .ro, 0, false, []⟩]⟩
  | .cqBind _ => ⟨8, .load, .dflt, none, [⟨3, 0, .ro, 0, true, [(0, 8), (15, 15)]⟩, ⟨15, 8, .ro, 0, true, []⟩, ⟨23, 16, .ro, 0, true, []⟩, ⟨27, 24, .ro, 0, true, []⟩, ⟨37, 32, .ro, 0, true, []⟩]⟩
  | .cqRing _ => ⟨8, .load, .dflt, none, [⟨3, 0, .ro, 0, true, [(4, 12)]⟩, ⟨51, 6, .ro, 0, true, []⟩]⟩
  | .cqCring _ => ⟨8, .load, .dflt, none, [⟨3, 0, .ro, 0, true, [(4, 12)]⟩, ⟨51, 6, .ro, 0, true, []⟩]⟩
  | .cqCread _ => ⟨8, .imm, .qctl, none, [⟨31, 0, .rw, 0, false, []⟩, ⟨63, 32, .ro, 0, false, []⟩]⟩
  | .cqSig _ => ⟨8, .imm, .sig, none, [⟨31, 0, .rw, 0, true, []⟩, ⟨63, 63, .wo, 0, false, []⟩]⟩
  | .coreBind _ => ⟨8, .load, .dflt, none, [⟨5, 0, .rw, 0, true, [(0, 47)]⟩, ⟨10, 8, .rw, 0, true, []⟩]⟩
  | .coreRngKey _ _ => ⟨8, .cmd, .rng, none, [⟨63, 0, .rw, 0, true, []⟩]⟩
  | .coreRngCtr _ _ => ⟨8, .cmd, .rng, none, [⟨63, 0, .rw, 0, true, []⟩]⟩
  | .coreSgStatus _ => ⟨8, .imm, .dflt, none, [⟨0, 0, .ro, 0, false, []⟩, ⟨1, 1, .ro, 0, false, []⟩, ⟨31, 16, .ro, 0, false, []⟩, ⟨63, 32, .ro, 0, false, []⟩]⟩
  | .coreSvStatus _ => ⟨8, .imm, .dflt, none, [⟨0, 0, .ro, 0, false, []⟩, ⟨1, 1, .ro, 0, false, []⟩, ⟨31, 16, .ro, 0, false, []⟩, ⟨34, 32, .ro, 0, false, []⟩]⟩
  | .coreVxStatus _ => ⟨8, .imm, .dflt, none, [⟨0, 0, .ro, 0, false, []⟩, ⟨3, 1, .ro, 0, false, []⟩, ⟨31, 16, .ro, 0, false, []⟩]⟩
  | .coreVxFlags _ => ⟨8, .imm, .dflt, none, [⟨4, 0, .w1c, 0, false, []⟩, ⟨8, 8, .w1c, 0, false, []⟩]⟩
  | .coreSig _ _ => ⟨8, .imm, .dflt, none, [⟨31, 0, .ro, 0, true, []⟩, ⟨32, 32, .ro, 0, true, []⟩, ⟨35, 33, .ro, 0, true, []⟩, ⟨36, 36, .ro, 0, true, []⟩, ⟨47, 40, .ro, 0, true, []⟩, ⟨55, 48, .ro, 0, true, []⟩, ⟨56, 56, .ro, 0, false, []⟩]⟩
  | .coreRbank _ => ⟨8, .imm, .dflt, none, [⟨0, 0, .ro, 0, true, []⟩, ⟨1, 1, .ro, 0, true, []⟩, ⟨2, 2, .w1p, 0, false, []⟩, ⟨3, 3, .w1c, 0, false, []⟩, ⟨4, 4, .ro, 0, false, []⟩, ⟨31, 16, .ro, 0, false, []⟩]⟩
  | .coreXlatRoot _ => ⟨8, .cmd, .xlat, none, [⟨51, 12, .rw, 0, true, []⟩]⟩
  | .coreXlatInv _ => ⟨8, .imm, .xlat, none, [⟨0, 0, .w1p, 0, false, []⟩, ⟨1, 1, .ro, 0, false, []⟩]⟩
  | .coreDmFaddr _ _ => ⟨8, .imm, .dflt, none, [⟨63, 0, .ro, 0, false, []⟩]⟩
  | .coreDmFser _ _ => ⟨8, .imm, .dflt, none, [⟨47, 0, .ro, 0, false, []⟩, ⟨51, 48, .ro, 0, false, []⟩]⟩
  | .coreChkStatus _ => ⟨8, .imm, .dflt, none, [⟨15, 0, .ro, 0, false, []⟩, ⟨19, 16, .ro, 0, false, []⟩, ⟨20, 20, .ro, 0, false, []⟩]⟩
  | .coreSound _ => ⟨8, .imm, .sound, none, [⟨0, 0, .w1p, 0, false, []⟩, ⟨1, 1, .rw, 0, false, []⟩, ⟨2, 2, .ro, 0, false, []⟩, ⟨31, 16, .ro, 0, false, []⟩, ⟨35, 32, .ro, 0, false, []⟩]⟩
  | .corePmcSel _ _ => ⟨8, .cycle, .pmcSel, none, [⟨7, 0, .rw, 0, true, [(0, 13)]⟩]⟩
  | .corePmcValue _ _ => ⟨8, .imm, .pmcVal, none, [⟨47, 0, .rw, 0, false, []⟩]⟩
  | .corePmcShadow _ _ => ⟨8, .imm, .pmcShd, none, [⟨47, 0, .ro, 0, false, []⟩]⟩
  | .coreParam _ _ _ => ⟨8, .imm, .param, none, [⟨63, 0, .rw, 0, true, []⟩]⟩
  | .corePstage _ _ _ => ⟨8, .imm, .param, none, [⟨63, 0, .rw, 0, true, []⟩]⟩
  | .coreBank _ _ _ => ⟨8, .imm, .dflt, none, [⟨63, 0, .rw, 0, true, []⟩]⟩
  | .ccStatus _ => ⟨8, .imm, .ccOwn, none, [⟨0, 0, .ro, 1, false, []⟩, ⟨1, 1, .rw, 0, false, []⟩, ⟨2, 2, .rw, 0, false, []⟩, ⟨3, 3, .rw, 0, false, []⟩, ⟨4, 4, .ro, 0, false, []⟩, ⟨5, 5, .ro, 1, false, []⟩]⟩
  | .ccTvec _ => ⟨8, .imm, .ccOwn, none, [⟨63, 2, .rw, 0, true, []⟩]⟩
  | .ccTrapCause _ => ⟨8, .imm, .ccRead, none, [⟨7, 0, .ro, 0, false, []⟩, ⟨8, 8, .ro, 0, false, []⟩, ⟨15, 15, .ro, 0, false, []⟩, ⟨22, 16, .ro, 0, false, []⟩]⟩
  | .ccTrapPc _ => ⟨8, .imm, .ccOwn, none, [⟨63, 0, .rw, 0, false, []⟩]⟩
  | .ccTrapAddr _ => ⟨8, .imm, .ccRead, none, [⟨63, 0, .ro, 0, false, []⟩]⟩
  | .ccFlags _ => ⟨8, .imm, .ccRead, none, [⟨4, 0, .w1c, 0, false, []⟩, ⟨8, 8, .w1c, 0, false, []⟩]⟩
  | .ccVstate _ => ⟨8, .imm, .ccRead, none, [⟨7, 0, .ro, 0, false, []⟩, ⟨9, 8, .ro, 0, false, []⟩, ⟨11, 10, .ro, 0, false, []⟩, ⟨12, 12, .ro, 1, false, []⟩]⟩
  | .ccCycle _ => ⟨8, .imm, .ccRead, none, [⟨63, 0, .ro, 0, false, []⟩]⟩
  | .ccMboxIe _ => ⟨8, .imm, .ccOwn, none, [⟨63, 0, .rw, 0, false, []⟩]⟩
  | .ccXlatRoot _ => ⟨8, .imm, .xlat, none, [⟨51, 12, .rw, 0, true, []⟩]⟩
  | .ccXlatInv _ => ⟨8, .imm, .xlat, none, [⟨0, 0, .w1p, 0, false, []⟩, ⟨1, 1, .ro, 0, false, []⟩]⟩
  | .ccJobPerm _ => ⟨8, .load, .dflt, none, [⟨15, 0, .rw, 0, true, []⟩, ⟨31, 16, .rw, 0, true, []⟩, ⟨32, 32, .rw, 0, true, []⟩, ⟨33, 33, .rw, 0, true, []⟩, ⟨34, 34, .rw, 0, true, []⟩, ⟨35, 35, .rw, 0, true, []⟩]⟩
  | .ccCtl _ => ⟨8, .imm, .ccCtl, none, [⟨0, 0, .w1p, 0, false, []⟩, ⟨1, 1, .w1p, 0, false, []⟩, ⟨2, 2, .w1c, 0, false, []⟩]⟩
  | .ccCallStatus _ => ⟨8, .imm, .ccOwn, none, [⟨15, 0, .ro, 0, false, []⟩, ⟨31, 16, .ro, 0, false, []⟩, ⟨32, 32, .rw, 0, false, []⟩]⟩
  | .ccMboxTag _ _ => ⟨8, .imm, .ccRead, none, [⟨15, 0, .ro, 0, false, []⟩, ⟨19, 16, .ro, 0, false, []⟩, ⟨24, 24, .w1c, 0, false, []⟩, ⟨25, 25, .w1c, 0, false, []⟩, ⟨63, 32, .ro, 0, false, []⟩]⟩
  | .ccMboxVal _ _ => ⟨8, .imm, .ccRead, none, [⟨63, 0, .ro, 0, false, []⟩]⟩


/-- The register of block GL at offset `o` of control space, if one stands there. -/
def Reg.locateGL (o : Nat) : Option Reg :=
  if 0x100 ≤ o ∧ (o - 0x100) / 8 < 3 ∧ ((o - 0x100) % 8) = 0 then some (.glUnitEnable ((o - 0x100) / 8))
  else if 0x118 ≤ o ∧ (o - 0x118) / 8 < 3 ∧ ((o - 0x118) % 8) = 0 then some (.glUnitFenced ((o - 0x118) / 8))
  else if o = 0x130 then some (.glCoreCount)
  else if o = 0x140 then some (.glPwrCap)
  else if o = 0x200 then some (.glMemMap)
  else if 0x400 ≤ o ∧ (o - 0x400) / 4 < 192 ∧ ((o - 0x400) % 4) = 0 then some (.glLog2phys ((o - 0x400) / 4))
  else if o = 0x800 then some (.glImgAddr)
  else if o = 0x808 then some (.glImgCtl)
  else if o = 0x810 then some (.glImgStatus)
  else if o = 0x818 then some (.glImgInfo)
  else if 0x820 ≤ o ∧ (o - 0x820) / 8 < 4 ∧ ((o - 0x820) % 8) = 0 then some (.glImgDigest ((o - 0x820) / 8))
  else if o = 0x900 then some (.glBootStatus)
  else if o = 0xa00 then some (.glBcastCtl)
  else if o = 0xa08 then some (.glBcastStatus)
  else if o = 0xb00 then some (.glErrStatus)
  else if o = 0xb08 then some (.glFenceCtl)
  else if o = 0xb10 then some (.glChkCtl)
  else if o = 0xc00 then some (.glFolioMembers)
  else if o = 0xc08 then some (.glFolioCfg)
  else if o = 0xc10 then some (.glFolioTrig)
  else if o = 0xc18 then some (.glFolioCtl)
  else if o = 0xc20 then some (.glFolioStatus)
  else if o = 0xc28 then some (.glFolioProg)
  else if 0xc40 ≤ o ∧ (o - 0xc40) / 8 < 16 ∧ ((o - 0xc40) % 8) = 0 then some (.glFolioReg ((o - 0xc40) / 8))
  else if o = 0xd00 then some (.glSupplyCfg)
  else if o = 0xd08 then some (.glSupplyStatus)
  else if o = 0xd10 then some (.glThermStatus)
  else if o = 0xd18 then some (.glMgmtStatus)
  else none

/-- The register of block TG at offset `o` of control space, if one stands there. -/
def Reg.locateTG (o : Nat) : Option Reg :=
  if o = 0x10000 then some (.tgCtl)
  else if o = 0x10008 then some (.tgSrcCfg)
  else if o = 0x10010 then some (.tgSrcRate)
  else if o = 0x10018 then some (.tgLoss)
  else if o = 0x10020 then some (.tgCmd)
  else if o = 0x10028 then some (.tgStatus)
  else if o = 0x10030 then some (.tgCount)
  else if o = 0x10038 then some (.tgCycleNo)
  else if o = 0x10040 then some (.tgOffset)
  else if o = 0x10048 then some (.tgZlatch)
  else if o = 0x10050 then some (.tgRelay)
  else if o = 0x10060 then some (.tgPtime)
  else if o = 0x10068 then some (.tgPtimeStep)
  else if o = 0x10070 then some (.tgPtimeAdj)
  else if o = 0x10078 then some (.tgPtimeFine)
  else if 0x10100 ≤ o ∧ (o - 0x10100) / 8 < 8 ∧ ((o - 0x10100) % 8) = 0 then some (.tgPhase ((o - 0x10100) / 8))
  else if 0x10800 ≤ o ∧ (o - 0x10800) / 8 < 256 ∧ ((o - 0x10800) % 8) = 0 then some (.tgMark ((o - 0x10800) / 8))
  else if 0x11000 ≤ o ∧ (o - 0x11000) / 32 < 4 ∧ ((o - 0x11000) % 32) = 0 then some (.tgPmcSel ((o - 0x11000) / 32))
  else if 0x11008 ≤ o ∧ (o - 0x11008) / 32 < 4 ∧ ((o - 0x11008) % 32) = 0 then some (.tgPmcValue ((o - 0x11008) / 32))
  else if 0x11010 ≤ o ∧ (o - 0x11010) / 32 < 4 ∧ ((o - 0x11010) % 32) = 0 then some (.tgPmcShadow ((o - 0x11010) / 32))
  else none

/-- The register of block PP at offset `o` of control space, if one stands there. -/
def Reg.locatePP (o : Nat) : Option Reg :=
  if 0x20000 ≤ o ∧ (o - 0x20000) / 32768 < 2 ∧ ((o - 0x20000) % 32768) = 0 then some (.ppCfg ((o - 0x20000) / 32768))
  else if 0x20008 ≤ o ∧ (o - 0x20008) / 32768 < 2 ∧ ((o - 0x20008) % 32768) = 0 then some (.ppCtl ((o - 0x20008) / 32768))
  else if 0x20010 ≤ o ∧ (o - 0x20010) / 32768 < 2 ∧ ((o - 0x20010) % 32768) = 0 then some (.ppStatus ((o - 0x20010) / 32768))
  else if 0x20018 ≤ o ∧ (o - 0x20018) / 32768 < 2 ∧ ((o - 0x20018) % 32768) = 0 then some (.ppMissSlots ((o - 0x20018) / 32768))
  else if 0x20040 ≤ o ∧ (o - 0x20040) / 32768 < 2 ∧ ((o - 0x20040) % 32768) / 8 < 4 ∧ (((o - 0x20040) % 32768) % 8) = 0 then some (.ppRxRing ((o - 0x20040) / 32768) (((o - 0x20040) % 32768) / 8))
  else if 0x20100 ≤ o ∧ (o - 0x20100) / 32768 < 2 ∧ ((o - 0x20100) % 32768) / 8 < 16 ∧ (((o - 0x20100) % 32768) % 8) = 0 then some (.ppRxf ((o - 0x20100) / 32768) (((o - 0x20100) % 32768) / 8))
  else if 0x21000 ≤ o ∧ (o - 0x21000) / 32768 < 2 ∧ ((o - 0x21000) % 32768) / 32 < 64 ∧ (((o - 0x21000) % 32768) % 32) = 0 then some (.ppSlotTime ((o - 0x21000) / 32768) (((o - 0x21000) % 32768) / 32))
  else if 0x21008 ≤ o ∧ (o - 0x21008) / 32768 < 2 ∧ ((o - 0x21008) % 32768) / 32 < 64 ∧ (((o - 0x21008) % 32768) % 32) = 0 then some (.ppSlotBuf ((o - 0x21008) / 32768) (((o - 0x21008) % 32768) / 32))
  else if 0x21010 ≤ o ∧ (o - 0x21010) / 32768 < 2 ∧ ((o - 0x21010) % 32768) / 32 < 64 ∧ (((o - 0x21010) % 32768) % 32) = 0 then some (.ppSlotThr ((o - 0x21010) / 32768) (((o - 0x21010) % 32768) / 32))
  else none

/-- The register of block HL at offset `o` of control space, if one stands there. -/
def Reg.locateHL (o : Nat) : Option Reg :=
  if 0x30000 ≤ o ∧ (o - 0x30000) / 8 < 2 ∧ ((o - 0x30000) % 8) = 0 then some (.hlFeatOffer ((o - 0x30000) / 8))
  else if 0x30010 ≤ o ∧ (o - 0x30010) / 8 < 2 ∧ ((o - 0x30010) % 8) = 0 then some (.hlFeatAccept ((o - 0x30010) / 8))
  else if o = 0x30020 then some (.hlFeatCtl)
  else if o = 0x30100 then some (.hlBiasCtl)
  else if o = 0x30108 then some (.hlMboxCtl)
  else if o = 0x30110 then some (.hlEvent)
  else if o = 0x30118 then some (.hlHostDb)
  else if 0x32000 ≤ o ∧ (o - 0x32000) / 8 < 1024 ∧ ((o - 0x32000) % 8) = 0 then some (.hlMbox ((o - 0x32000) / 8))
  else none

/-- The register of block FT at offset `o` of control space, if one stands there. -/
def Reg.locateFT (o : Nat) : Option Reg :=
  if 0x40000 ≤ o ∧ (o - 0x40000) / 8 < 4 ∧ ((o - 0x40000) % 8) = 0 then some (.ftPort ((o - 0x40000) / 8))
  else if 0x40040 ≤ o ∧ (o - 0x40040) / 8 < 4 ∧ ((o - 0x40040) % 8) = 0 then some (.ftSet ((o - 0x40040) / 8))
  else none

/-- The register of block CN at offset `o` of control space, if one stands there. -/
def Reg.locateCN (o : Nat) : Option Reg :=
  if o = 0x50000 then some (.cnChoiceBit)
  else if o = 0x50008 then some (.cnChoiceTime)
  else if o = 0x50010 then some (.cnRdCtl)
  else if o = 0x50018 then some (.cnRdRing)
  else if o = 0x50020 then some (.cnRdStatus)
  else if 0x50100 ≤ o ∧ (o - 0x50100) / 32 < 16 ∧ ((o - 0x50100) % 32) = 0 then some (.cnPmcSel ((o - 0x50100) / 32))
  else if 0x50108 ≤ o ∧ (o - 0x50108) / 32 < 16 ∧ ((o - 0x50108) % 32) = 0 then some (.cnPmcValue ((o - 0x50108) / 32))
  else if 0x50110 ≤ o ∧ (o - 0x50110) / 32 < 16 ∧ ((o - 0x50110) % 32) = 0 then some (.cnPmcShadow ((o - 0x50110) / 32))
  else if o = 0x50400 then some (.cnRecCtl)
  else if o = 0x50408 then some (.cnRecRing)
  else if o = 0x50410 then some (.cnRecWptr)
  else if o = 0x50418 then some (.cnRecRdptr)
  else if o = 0x50440 then some (.cnRplCtl)
  else if o = 0x50448 then some (.cnRplRing)
  else if o = 0x50450 then some (.cnRplStatus)
  else none

/-- The register of block CL at offset `o` of control space, if one stands there. -/
def Reg.locateCL (o : Nat) : Option Reg :=
  if o = 0x60000 then some (.clStatus)
  else if 0x80000 ≤ o ∧ (o - 0x80000) / 32 < 16384 ∧ ((o - 0x80000) % 32) / 8 < 4 ∧ (((o - 0x80000) % 32) % 8) = 0 then some (.clEntry ((o - 0x80000) / 32) (((o - 0x80000) % 32) / 8))
  else none

/-- The register of block FB at offset `o` of control space, if one stands there. -/
def Reg.locateFB (o : Nat) : Option Reg :=
  if o = 0x100000 then some (.fbTorusId)
  else if 0x100008 ≤ o ∧ (o - 0x100008) / 524288 < 2 ∧ ((o - 0x100008) % 524288) = 0 then some (.fbVcWeight ((o - 0x100008) / 524288))
  else if 0x100010 ≤ o ∧ (o - 0x100010) / 524288 < 2 ∧ ((o - 0x100010) % 524288) = 0 then some (.fbMpStatus ((o - 0x100010) / 524288))
  else if o = 0x100018 then some (.fbPeerDead)
  else if 0x100020 ≤ o ∧ (o - 0x100020) / 524288 < 2 ∧ ((o - 0x100020) % 524288) = 0 then some (.fbCollStatus ((o - 0x100020) / 524288))
  else if 0x100100 ≤ o ∧ (o - 0x100100) / 524288 < 2 ∧ ((o - 0x100100) % 524288) / 8 < 10 ∧ (((o - 0x100100) % 524288) % 8) = 0 then some (.fbPort ((o - 0x100100) / 524288) (((o - 0x100100) % 524288) / 8))
  else if 0x100400 ≤ o ∧ (o - 0x100400) / 8 < 64 ∧ ((o - 0x100400) % 8) = 0 then some (.fbGroup ((o - 0x100400) / 8))
  else if 0x100600 ≤ o ∧ (o - 0x100600) / 8 < 64 ∧ ((o - 0x100600) % 8) = 0 then some (.fbGstat ((o - 0x100600) / 8))
  else if 0x100800 ≤ o ∧ (o - 0x100800) / 524288 < 2 ∧ ((o - 0x100800) % 524288) / 32 < 32 ∧ (((o - 0x100800) % 524288) % 32) = 0 then some (.fbPmcSel ((o - 0x100800) / 524288) (((o - 0x100800) % 524288) / 32))
  else if 0x100808 ≤ o ∧ (o - 0x100808) / 524288 < 2 ∧ ((o - 0x100808) % 524288) / 32 < 32 ∧ (((o - 0x100808) % 524288) % 32) = 0 then some (.fbPmcValue ((o - 0x100808) / 524288) (((o - 0x100808) % 524288) / 32))
  else if 0x100810 ≤ o ∧ (o - 0x100810) / 524288 < 2 ∧ ((o - 0x100810) % 524288) / 32 < 32 ∧ (((o - 0x100810) % 524288) % 32) = 0 then some (.fbPmcShadow ((o - 0x100810) / 524288) (((o - 0x100810) % 524288) / 32))
  else if 0x110000 ≤ o ∧ (o - 0x110000) / 32 < 4096 ∧ ((o - 0x110000) % 32) = 0 then some (.fbExpRange ((o - 0x110000) / 32))
  else if 0x110008 ≤ o ∧ (o - 0x110008) / 32 < 4096 ∧ ((o - 0x110008) % 32) = 0 then some (.fbExpKey ((o - 0x110008) / 32))
  else if 0x130000 ≤ o ∧ (o - 0x130000) / 32 < 4096 ∧ ((o - 0x130000) % 32) = 0 then some (.fbImpRange ((o - 0x130000) / 32))
  else if 0x130008 ≤ o ∧ (o - 0x130008) / 32 < 4096 ∧ ((o - 0x130008) % 32) = 0 then some (.fbImpKey ((o - 0x130008) / 32))
  else if 0x130010 ≤ o ∧ (o - 0x130010) / 32 < 4096 ∧ ((o - 0x130010) % 32) = 0 then some (.fbImpCtl ((o - 0x130010) / 32))
  else none

/-- The register of block CV at offset `o` of control space, if one stands there. -/
def Reg.locateCV (o : Nat) : Option Reg :=
  if 0x1000000 ≤ o ∧ (o - 0x1000000) / 65536 < 32 ∧ ((o - 0x1000000) % 65536) = 0 then some (.cvHintQuota ((o - 0x1000000) / 65536))
  else if 0x1000008 ≤ o ∧ (o - 0x1000008) / 65536 < 32 ∧ ((o - 0x1000008) % 65536) = 0 then some (.cvPrio ((o - 0x1000008) / 65536))
  else if 0x1000010 ≤ o ∧ (o - 0x1000010) / 65536 < 32 ∧ ((o - 0x1000010) % 65536) = 0 then some (.cvScrub ((o - 0x1000010) / 65536))
  else if 0x1000018 ≤ o ∧ (o - 0x1000018) / 65536 < 32 ∧ ((o - 0x1000018) % 65536) = 0 then some (.cvEcc ((o - 0x1000018) / 65536))
  else if 0x1000020 ≤ o ∧ (o - 0x1000020) / 65536 < 32 ∧ ((o - 0x1000020) % 65536) = 0 then some (.cvEccAddr ((o - 0x1000020) / 65536))
  else if 0x1000028 ≤ o ∧ (o - 0x1000028) / 65536 < 32 ∧ ((o - 0x1000028) % 65536) = 0 then some (.cvTherm ((o - 0x1000028) / 65536))
  else if 0x1000030 ≤ o ∧ (o - 0x1000030) / 65536 < 32 ∧ ((o - 0x1000030) % 65536) = 0 then some (.cvBmeStatus ((o - 0x1000030) / 65536))
  else if 0x1000100 ≤ o ∧ (o - 0x1000100) / 65536 < 32 ∧ ((o - 0x1000100) % 65536) / 32 < 8 ∧ (((o - 0x1000100) % 65536) % 32) = 0 then some (.cvPmcSel ((o - 0x1000100) / 65536) (((o - 0x1000100) % 65536) / 32))
  else if 0x1000108 ≤ o ∧ (o - 0x1000108) / 65536 < 32 ∧ ((o - 0x1000108) % 65536) / 32 < 8 ∧ (((o - 0x1000108) % 65536) % 32) = 0 then some (.cvPmcValue ((o - 0x1000108) / 65536) (((o - 0x1000108) % 65536) / 32))
  else if 0x1000110 ≤ o ∧ (o - 0x1000110) / 65536 < 32 ∧ ((o - 0x1000110) % 65536) / 32 < 8 ∧ (((o - 0x1000110) % 65536) % 32) = 0 then some (.cvPmcShadow ((o - 0x1000110) / 65536) (((o - 0x1000110) % 65536) / 32))
  else none

/-- The register of block CQ at offset `o` of control space, if one stands there. -/
def Reg.locateCQ (o : Nat) : Option Reg :=
  if 0x2000000 ≤ o ∧ (o - 0x2000000) / 64 < 4096 ∧ ((o - 0x2000000) % 64) = 0 then some (.cqDoorbell ((o - 0x2000000) / 64))
  else if 0x2000008 ≤ o ∧ (o - 0x2000008) / 64 < 4096 ∧ ((o - 0x2000008) % 64) = 0 then some (.cqCtl ((o - 0x2000008) / 64))
  else if 0x2000010 ≤ o ∧ (o - 0x2000010) / 64 < 4096 ∧ ((o - 0x2000010) % 64) = 0 then some (.cqStatus ((o - 0x2000010) / 64))
  else if 0x2000018 ≤ o ∧ (o - 0x2000018) / 64 < 4096 ∧ ((o - 0x2000018) % 64) = 0 then some (.cqSerial ((o - 0x2000018) / 64))
  else if 0x2000020 ≤ o ∧ (o - 0x2000020) / 64 < 4096 ∧ ((o - 0x2000020) % 64) = 0 then some (.cqBind ((o - 0x2000020) / 64))
  else if 0x2000028 ≤ o ∧ (o - 0x2000028) / 64 < 4096 ∧ ((o - 0x2000028) % 64) = 0 then some (.cqRing ((o - 0x2000028) / 64))
  else if 0x2000030 ≤ o ∧ (o - 0x2000030) / 64 < 4096 ∧ ((o - 0x2000030) % 64) = 0 then some (.cqCring ((o - 0x2000030) / 64))
  else if 0x2000038 ≤ o ∧ (o - 0x2000038) / 64 < 4096 ∧ ((o - 0x2000038) % 64) = 0 then some (.cqCread ((o - 0x2000038) / 64))
  else if 0x2100000 ≤ o ∧ (o - 0x2100000) / 8 < 65536 ∧ ((o - 0x2100000) % 8) = 0 then some (.cqSig ((o - 0x2100000) / 8))
  else none

/-- The register of block CORE at offset `o` of control space, if one stands there. -/
def Reg.locateCORE (o : Nat) : Option Reg :=
  if 0x10000000 ≤ o ∧ (o - 0x10000000) / 1048576 < 192 ∧ ((o - 0x10000000) % 1048576) = 0 then some (.coreBind ((o - 0x10000000) / 1048576))
  else if 0x10000200 ≤ o ∧ (o - 0x10000200) / 1048576 < 192 ∧ ((o - 0x10000200) % 1048576) / 8 < 2 ∧ (((o - 0x10000200) % 1048576) % 8) = 0 then some (.coreRngKey ((o - 0x10000200) / 1048576) (((o - 0x10000200) % 1048576) / 8))
  else if 0x10000210 ≤ o ∧ (o - 0x10000210) / 1048576 < 192 ∧ ((o - 0x10000210) % 1048576) / 8 < 2 ∧ (((o - 0x10000210) % 1048576) % 8) = 0 then some (.coreRngCtr ((o - 0x10000210) / 1048576) (((o - 0x10000210) % 1048576) / 8))
  else if 0x10000300 ≤ o ∧ (o - 0x10000300) / 1048576 < 192 ∧ ((o - 0x10000300) % 1048576) = 0 then some (.coreSgStatus ((o - 0x10000300) / 1048576))
  else if 0x10000310 ≤ o ∧ (o - 0x10000310) / 1048576 < 192 ∧ ((o - 0x10000310) % 1048576) = 0 then some (.coreSvStatus ((o - 0x10000310) / 1048576))
  else if 0x10000320 ≤ o ∧ (o - 0x10000320) / 1048576 < 192 ∧ ((o - 0x10000320) % 1048576) = 0 then some (.coreVxStatus ((o - 0x10000320) / 1048576))
  else if 0x10000328 ≤ o ∧ (o - 0x10000328) / 1048576 < 192 ∧ ((o - 0x10000328) % 1048576) = 0 then some (.coreVxFlags ((o - 0x10000328) / 1048576))
  else if 0x10000400 ≤ o ∧ (o - 0x10000400) / 1048576 < 192 ∧ ((o - 0x10000400) % 1048576) / 8 < 16 ∧ (((o - 0x10000400) % 1048576) % 8) = 0 then some (.coreSig ((o - 0x10000400) / 1048576) (((o - 0x10000400) % 1048576) / 8))
  else if 0x10000500 ≤ o ∧ (o - 0x10000500) / 1048576 < 192 ∧ ((o - 0x10000500) % 1048576) = 0 then some (.coreRbank ((o - 0x10000500) / 1048576))
  else if 0x10000600 ≤ o ∧ (o - 0x10000600) / 1048576 < 192 ∧ ((o - 0x10000600) % 1048576) = 0 then some (.coreXlatRoot ((o - 0x10000600) / 1048576))
  else if 0x10000608 ≤ o ∧ (o - 0x10000608) / 1048576 < 192 ∧ ((o - 0x10000608) % 1048576) = 0 then some (.coreXlatInv ((o - 0x10000608) / 1048576))
  else if 0x10000610 ≤ o ∧ (o - 0x10000610) / 1048576 < 192 ∧ ((o - 0x10000610) % 1048576) / 16 < 2 ∧ (((o - 0x10000610) % 1048576) % 16) = 0 then some (.coreDmFaddr ((o - 0x10000610) / 1048576) (((o - 0x10000610) % 1048576) / 16))
  else if 0x10000618 ≤ o ∧ (o - 0x10000618) / 1048576 < 192 ∧ ((o - 0x10000618) % 1048576) / 16 < 2 ∧ (((o - 0x10000618) % 1048576) % 16) = 0 then some (.coreDmFser ((o - 0x10000618) / 1048576) (((o - 0x10000618) % 1048576) / 16))
  else if 0x10000700 ≤ o ∧ (o - 0x10000700) / 1048576 < 192 ∧ ((o - 0x10000700) % 1048576) = 0 then some (.coreChkStatus ((o - 0x10000700) / 1048576))
  else if 0x10000708 ≤ o ∧ (o - 0x10000708) / 1048576 < 192 ∧ ((o - 0x10000708) % 1048576) = 0 then some (.coreSound ((o - 0x10000708) / 1048576))
  else if 0x10000800 ≤ o ∧ (o - 0x10000800) / 1048576 < 192 ∧ ((o - 0x10000800) % 1048576) / 32 < 8 ∧ (((o - 0x10000800) % 1048576) % 32) = 0 then some (.corePmcSel ((o - 0x10000800) / 1048576) (((o - 0x10000800) % 1048576) / 32))
  else if 0x10000808 ≤ o ∧ (o - 0x10000808) / 1048576 < 192 ∧ ((o - 0x10000808) % 1048576) / 32 < 8 ∧ (((o - 0x10000808) % 1048576) % 32) = 0 then some (.corePmcValue ((o - 0x10000808) / 1048576) (((o - 0x10000808) % 1048576) / 32))
  else if 0x10000810 ≤ o ∧ (o - 0x10000810) / 1048576 < 192 ∧ ((o - 0x10000810) % 1048576) / 32 < 8 ∧ (((o - 0x10000810) % 1048576) % 32) = 0 then some (.corePmcShadow ((o - 0x10000810) / 1048576) (((o - 0x10000810) % 1048576) / 32))
  else if 0x10010000 ≤ o ∧ (o - 0x10010000) / 1048576 < 192 ∧ ((o - 0x10010000) % 1048576) / 128 < 512 ∧ (((o - 0x10010000) % 1048576) % 128) / 8 < 16 ∧ ((((o - 0x10010000) % 1048576) % 128) % 8) = 0 then some (.coreParam ((o - 0x10010000) / 1048576) (((o - 0x10010000) % 1048576) / 128) ((((o - 0x10010000) % 1048576) % 128) / 8))
  else if 0x10020000 ≤ o ∧ (o - 0x10020000) / 1048576 < 192 ∧ ((o - 0x10020000) % 1048576) / 128 < 512 ∧ (((o - 0x10020000) % 1048576) % 128) / 8 < 16 ∧ ((((o - 0x10020000) % 1048576) % 128) % 8) = 0 then some (.corePstage ((o - 0x10020000) / 1048576) (((o - 0x10020000) % 1048576) / 128) ((((o - 0x10020000) % 1048576) % 128) / 8))
  else if 0x10040000 ≤ o ∧ (o - 0x10040000) / 1048576 < 192 ∧ ((o - 0x10040000) % 1048576) / 262144 < 2 ∧ (((o - 0x10040000) % 1048576) % 262144) / 8 < 32768 ∧ ((((o - 0x10040000) % 1048576) % 262144) % 8) = 0 then some (.coreBank ((o - 0x10040000) / 1048576) (((o - 0x10040000) % 1048576) / 262144) ((((o - 0x10040000) % 1048576) % 262144) / 8))
  else none

/-- The register of block CC at offset `o` of control space, if one stands there. -/
def Reg.locateCC (o : Nat) : Option Reg :=
  if 0x30000000 ≤ o ∧ (o - 0x30000000) / 65536 < 48 ∧ ((o - 0x30000000) % 65536) = 0 then some (.ccStatus ((o - 0x30000000) / 65536))
  else if 0x30000008 ≤ o ∧ (o - 0x30000008) / 65536 < 48 ∧ ((o - 0x30000008) % 65536) = 0 then some (.ccTvec ((o - 0x30000008) / 65536))
  else if 0x30000010 ≤ o ∧ (o - 0x30000010) / 65536 < 48 ∧ ((o - 0x30000010) % 65536) = 0 then some (.ccTrapCause ((o - 0x30000010) / 65536))
  else if 0x30000018 ≤ o ∧ (o - 0x30000018) / 65536 < 48 ∧ ((o - 0x30000018) % 65536) = 0 then some (.ccTrapPc ((o - 0x30000018) / 65536))
  else if 0x30000020 ≤ o ∧ (o - 0x30000020) / 65536 < 48 ∧ ((o - 0x30000020) % 65536) = 0 then some (.ccTrapAddr ((o - 0x30000020) / 65536))
  else if 0x30000028 ≤ o ∧ (o - 0x30000028) / 65536 < 48 ∧ ((o - 0x30000028) % 65536) = 0 then some (.ccFlags ((o - 0x30000028) / 65536))
  else if 0x30000030 ≤ o ∧ (o - 0x30000030) / 65536 < 48 ∧ ((o - 0x30000030) % 65536) = 0 then some (.ccVstate ((o - 0x30000030) / 65536))
  else if 0x30000038 ≤ o ∧ (o - 0x30000038) / 65536 < 48 ∧ ((o - 0x30000038) % 65536) = 0 then some (.ccCycle ((o - 0x30000038) / 65536))
  else if 0x30000040 ≤ o ∧ (o - 0x30000040) / 65536 < 48 ∧ ((o - 0x30000040) % 65536) = 0 then some (.ccMboxIe ((o - 0x30000040) / 65536))
  else if 0x30000048 ≤ o ∧ (o - 0x30000048) / 65536 < 48 ∧ ((o - 0x30000048) % 65536) = 0 then some (.ccXlatRoot ((o - 0x30000048) / 65536))
  else if 0x30000050 ≤ o ∧ (o - 0x30000050) / 65536 < 48 ∧ ((o - 0x30000050) % 65536) = 0 then some (.ccXlatInv ((o - 0x30000050) / 65536))
  else if 0x30000058 ≤ o ∧ (o - 0x30000058) / 65536 < 48 ∧ ((o - 0x30000058) % 65536) = 0 then some (.ccJobPerm ((o - 0x30000058) / 65536))
  else if 0x30000060 ≤ o ∧ (o - 0x30000060) / 65536 < 48 ∧ ((o - 0x30000060) % 65536) = 0 then some (.ccCtl ((o - 0x30000060) / 65536))
  else if 0x30000068 ≤ o ∧ (o - 0x30000068) / 65536 < 48 ∧ ((o - 0x30000068) % 65536) = 0 then some (.ccCallStatus ((o - 0x30000068) / 65536))
  else if 0x30002000 ≤ o ∧ (o - 0x30002000) / 65536 < 48 ∧ ((o - 0x30002000) % 65536) / 16 < 64 ∧ (((o - 0x30002000) % 65536) % 16) = 0 then some (.ccMboxTag ((o - 0x30002000) / 65536) (((o - 0x30002000) % 65536) / 16))
  else if 0x30002008 ≤ o ∧ (o - 0x30002008) / 65536 < 48 ∧ ((o - 0x30002008) % 65536) / 16 < 64 ∧ (((o - 0x30002008) % 65536) % 16) = 0 then some (.ccMboxVal ((o - 0x30002008) / 65536) (((o - 0x30002008) % 65536) / 16))
  else none

/-- The register at offset `o` of control space (16 R442: anything else is a register that does not exist). -/
def Reg.locate (o : Nat) : Option Reg :=
  if o < 0x10000 then (if 0x0 ≤ o then Reg.locateGL o else none)
  else if o < 0x20000 then (if 0x10000 ≤ o then Reg.locateTG o else none)
  else if o < 0x30000 then (if 0x20000 ≤ o then Reg.locatePP o else none)
  else if o < 0x40000 then (if 0x30000 ≤ o then Reg.locateHL o else none)
  else if o < 0x50000 then (if 0x40000 ≤ o then Reg.locateFT o else none)
  else if o < 0x60000 then (if 0x50000 ≤ o then Reg.locateCN o else none)
  else if o < 0x100000 then (if 0x60000 ≤ o then Reg.locateCL o else none)
  else if o < 0x200000 then (if 0x100000 ≤ o then Reg.locateFB o else none)
  else if o < 0x1200000 then (if 0x1000000 ≤ o then Reg.locateCV o else none)
  else if o < 0x2180000 then (if 0x2000000 ≤ o then Reg.locateCQ o else none)
  else if o < 0x1c000000 then (if 0x10000000 ≤ o then Reg.locateCORE o else none)
  else if o < 0x30300000 then (if 0x30000000 ≤ o then Reg.locateCC o else none)
  else none

/-! Field bounds, by register and field name. -/

abbrev F.glUnitEnable_EN : Fld := ⟨63, 0⟩
abbrev F.glUnitFenced_FN : Fld := ⟨63, 0⟩
abbrev F.glCoreCount_ENABLED : Fld := ⟨7, 0⟩
abbrev F.glCoreCount_LOGICAL : Fld := ⟨15, 8⟩
abbrev F.glCoreCount_FENCED : Fld := ⟨23, 16⟩
abbrev F.glPwrCap_CAP : Fld := ⟨12, 0⟩
abbrev F.glPwrCap_FLOOR : Fld := ⟨44, 32⟩
abbrev F.glMemMap_HSET : Fld := ⟨0, 0⟩
abbrev F.glMemMap_LOCAL : Fld := ⟨27, 16⟩
abbrev F.glLog2phys_PHYS : Fld := ⟨7, 0⟩
abbrev F.glLog2phys_VALID : Fld := ⟨31, 31⟩
abbrev F.glImgAddr_ADDR : Fld := ⟨40, 12⟩
abbrev F.glImgCtl_LOAD : Fld := ⟨0, 0⟩
abbrev F.glImgCtl_UNLOAD : Fld := ⟨1, 1⟩
abbrev F.glImgStatus_STATE : Fld := ⟨2, 0⟩
abbrev F.glImgStatus_CODE : Fld := ⟨7, 4⟩
abbrev F.glImgStatus_SECT : Fld := ⟨26, 16⟩
abbrev F.glImgStatus_DETAIL : Fld := ⟨63, 32⟩
abbrev F.glImgInfo_CLASS : Fld := ⟨1, 0⟩
abbrev F.glImgInfo_RESHAPE : Fld := ⟨2, 2⟩
abbrev F.glImgInfo_SUPPLY_CAP : Fld := ⟨3, 3⟩
abbrev F.glImgInfo_SUPPLY_FB : Fld := ⟨4, 4⟩
abbrev F.glImgInfo_MINCORES : Fld := ⟨15, 8⟩
abbrev F.glImgInfo_LOADS : Fld := ⟨63, 32⟩
abbrev F.glImgDigest_DIGEST : Fld := ⟨63, 0⟩
abbrev F.glBootStatus_STAGE : Fld := ⟨3, 0⟩
abbrev F.glBootStatus_FCAUSE : Fld := ⟨7, 4⟩
abbrev F.glBootStatus_ATTEST : Fld := ⟨8, 8⟩
abbrev F.glBootStatus_OWNED : Fld := ⟨9, 9⟩
abbrev F.glBootStatus_OWNERKEY : Fld := ⟨10, 10⟩
abbrev F.glBootStatus_FWVER : Fld := ⟨63, 32⟩
abbrev F.glBcastCtl_SEND : Fld := ⟨0, 0⟩
abbrev F.glBcastCtl_TIMEOUT : Fld := ⟨15, 8⟩
abbrev F.glBcastStatus_STATE : Fld := ⟨3, 0⟩
abbrev F.glBcastStatus_ROOT : Fld := ⟨4, 4⟩
abbrev F.glBcastStatus_PARENT : Fld := ⟨29, 16⟩
abbrev F.glBcastStatus_PVALID : Fld := ⟨30, 30⟩
abbrev F.glBcastStatus_COUNT : Fld := ⟨62, 48⟩
abbrev F.glErrStatus_FENCE_EV : Fld := ⟨0, 0⟩
abbrev F.glErrStatus_RETRY_EV : Fld := ⟨1, 1⟩
abbrev F.glErrStatus_UNCORR_EV : Fld := ⟨2, 2⟩
abbrev F.glErrStatus_SUPPLY_EV : Fld := ⟨3, 3⟩
abbrev F.glErrStatus_SUPPLY_WARN : Fld := ⟨4, 4⟩
abbrev F.glErrStatus_FATAL_PREV : Fld := ⟨5, 5⟩
abbrev F.glErrStatus_PENDING : Fld := ⟨22, 16⟩
abbrev F.glErrStatus_OVF : Fld := ⟨47, 32⟩
abbrev F.glFenceCtl_CORE : Fld := ⟨7, 0⟩
abbrev F.glFenceCtl_PERSIST : Fld := ⟨8, 8⟩
abbrev F.glFenceCtl_GO : Fld := ⟨9, 9⟩
abbrev F.glFenceCtl_BUSY : Fld := ⟨10, 10⟩
abbrev F.glFenceCtl_RESULT : Fld := ⟨12, 11⟩
abbrev F.glChkCtl_INJ_CORE : Fld := ⟨7, 0⟩
abbrev F.glChkCtl_INJ_UNIT : Fld := ⟨10, 8⟩
abbrev F.glChkCtl_INJ_COUNT : Fld := ⟨12, 11⟩
abbrev F.glChkCtl_INJ : Fld := ⟨13, 13⟩
abbrev F.glChkCtl_INJ_PEND : Fld := ⟨14, 14⟩
abbrev F.glChkCtl_MASK : Fld := ⟨16, 16⟩
abbrev F.glFolioMembers_MASK : Fld := ⟨63, 0⟩
abbrev F.glFolioCfg_TIER : Fld := ⟨0, 0⟩
abbrev F.glFolioCfg_RBASE : Fld := ⟨51, 16⟩
abbrev F.glFolioTrig_STEPS : Fld := ⟨31, 0⟩
abbrev F.glFolioTrig_MS : Fld := ⟨63, 32⟩
abbrev F.glFolioCtl_GO : Fld := ⟨0, 0⟩
abbrev F.glFolioCtl_ABORT : Fld := ⟨1, 1⟩
abbrev F.glFolioCtl_RESTORE : Fld := ⟨2, 2⟩
abbrev F.glFolioStatus_STATE : Fld := ⟨2, 0⟩
abbrev F.glFolioStatus_LAST : Fld := ⟨5, 4⟩
abbrev F.glFolioStatus_CAUSE : Fld := ⟨7, 6⟩
abbrev F.glFolioStatus_RCODE : Fld := ⟨11, 8⟩
abbrev F.glFolioStatus_SKIPPED : Fld := ⟨31, 16⟩
abbrev F.glFolioStatus_VGEN : Fld := ⟨63, 32⟩
abbrev F.glFolioProg_COPIED : Fld := ⟨31, 0⟩
abbrev F.glFolioProg_HELD : Fld := ⟨47, 32⟩
abbrev F.glFolioReg_BASE : Fld := ⟨40, 16⟩
abbrev F.glFolioReg_LEAVES : Fld := ⟨63, 41⟩
abbrev F.glSupplyCfg_WARN : Fld := ⟨7, 0⟩
abbrev F.glSupplyCfg_RESET : Fld := ⟨15, 8⟩
abbrev F.glSupplyStatus_VIN : Fld := ⟨15, 0⟩
abbrev F.glSupplyStatus_PIN : Fld := ⟨31, 16⟩
abbrev F.glSupplyStatus_VIN_MIN : Fld := ⟨47, 32⟩
abbrev F.glSupplyStatus_MIN_CLR : Fld := ⟨48, 48⟩
abbrev F.glThermStatus_TJ_MAX : Fld := ⟨7, 0⟩
abbrev F.glThermStatus_TS_MAX : Fld := ⟨15, 8⟩
abbrev F.glThermStatus_TPROC : Fld := ⟨23, 16⟩
abbrev F.glThermStatus_TFAB : Fld := ⟨31, 24⟩
abbrev F.glThermStatus_LID_IN : Fld := ⟨39, 32⟩
abbrev F.glThermStatus_LID_OUT : Fld := ⟨47, 40⟩
abbrev F.glThermStatus_JT_EV : Fld := ⟨48, 48⟩
abbrev F.glMgmtStatus_DADDR : Fld := ⟨6, 0⟩
abbrev F.glMgmtStatus_DVALID : Fld := ⟨7, 7⟩
abbrev F.glMgmtStatus_EID : Fld := ⟨15, 8⟩
abbrev F.glMgmtStatus_SUMMARIES : Fld := ⟨31, 16⟩
abbrev F.glMgmtStatus_COMMANDS : Fld := ⟨47, 32⟩
abbrev F.tgCtl_LEN : Fld := ⟨15, 0⟩
abbrev F.tgCtl_NPHASE : Fld := ⟨19, 16⟩
abbrev F.tgSrcCfg_SRC : Fld := ⟨2, 0⟩
abbrev F.tgSrcCfg_DECODE : Fld := ⟨5, 4⟩
abbrev F.tgSrcCfg_DIR : Fld := ⟨6, 6⟩
abbrev F.tgSrcCfg_TERM : Fld := ⟨7, 7⟩
abbrev F.tgSrcCfg_FILT : Fld := ⟨11, 8⟩
abbrev F.tgSrcCfg_ZCHECK : Fld := ⟨12, 12⟩
abbrev F.tgSrcCfg_REV_LIMIT : Fld := ⟨31, 16⟩
abbrev F.tgSrcCfg_ZCOUNT : Fld := ⟨63, 32⟩
abbrev F.tgSrcRate_RATE : Fld := ⟨47, 0⟩
abbrev F.tgLoss_MIN_RATE : Fld := ⟨25, 0⟩
abbrev F.tgLoss_FACTOR : Fld := ⟨29, 26⟩
abbrev F.tgLoss_COAST : Fld := ⟨41, 32⟩
abbrev F.tgLoss_LOCK_TO : Fld := ⟨55, 48⟩
abbrev F.tgLoss_KAP : Fld := ⟨63, 56⟩
abbrev F.tgCmd_RESUME : Fld := ⟨0, 0⟩
abbrev F.tgCmd_STEP : Fld := ⟨1, 1⟩
abbrev F.tgCmd_REMEASURE : Fld := ⟨2, 2⟩
abbrev F.tgCmd_FORCE_STOP : Fld := ⟨3, 3⟩
abbrev F.tgCmd_LOSS : Fld := ⟨4, 4⟩
abbrev F.tgStatus_STATE : Fld := ⟨2, 0⟩
abbrev F.tgStatus_MASTER : Fld := ⟨3, 3⟩
abbrev F.tgStatus_PHASE : Fld := ⟨6, 4⟩
abbrev F.tgStatus_KIND : Fld := ⟨9, 8⟩
abbrev F.tgStatus_CAUSE : Fld := ⟨13, 12⟩
abbrev F.tgStatus_COAST_EV : Fld := ⟨16, 16⟩
abbrev F.tgStatus_STOP_EV : Fld := ⟨17, 17⟩
abbrev F.tgStatus_OVERRUN : Fld := ⟨18, 18⟩
abbrev F.tgStatus_SHORT : Fld := ⟨19, 19⟩
abbrev F.tgStatus_ZERR : Fld := ⟨20, 20⟩
abbrev F.tgCount_FRAC : Fld := ⟨15, 0⟩
abbrev F.tgCount_WHOLE : Fld := ⟨63, 16⟩
abbrev F.tgCycleNo_NO : Fld := ⟨47, 0⟩
abbrev F.tgCycleNo_POS : Fld := ⟨63, 48⟩
abbrev F.tgOffset_OFFSET : Fld := ⟨63, 0⟩
abbrev F.tgZlatch_COUNT : Fld := ⟨63, 0⟩
abbrev F.tgRelay_HOP : Fld := ⟨15, 0⟩
abbrev F.tgRelay_RESID : Fld := ⟨31, 16⟩
abbrev F.tgRelay_MASTER_ID : Fld := ⟨45, 32⟩
abbrev F.tgPtime_NS : Fld := ⟨63, 0⟩
abbrev F.tgPtimeStep_STEP : Fld := ⟨63, 0⟩
abbrev F.tgPtimeAdj_ADJ : Fld := ⟨39, 0⟩
abbrev F.tgPtimeAdj_SYNC : Fld := ⟨63, 63⟩
abbrev F.tgPtimeFine_FRAC : Fld := ⟨15, 0⟩
abbrev F.tgPtimeFine_NS48 : Fld := ⟨63, 16⟩
abbrev F.tgPhase_MARK : Fld := ⟨7, 0⟩
abbrev F.tgPhase_KIND : Fld := ⟨9, 8⟩
abbrev F.tgPhase_CLOCK : Fld := ⟨14, 10⟩
abbrev F.tgPhase_DONE_CTR : Fld := ⟨31, 16⟩
abbrev F.tgPhase_DONE_INC : Fld := ⟨47, 32⟩
abbrev F.tgPhase_DONE_EN : Fld := ⟨48, 48⟩
abbrev F.tgMark_FRAC : Fld := ⟨15, 0⟩
abbrev F.tgMark_WHOLE : Fld := ⟨31, 16⟩
abbrev F.tgMark_RELEASE : Fld := ⟨32, 32⟩
abbrev F.tgMark_FRAME : Fld := ⟨33, 33⟩
abbrev F.tgMark_SNAP : Fld := ⟨34, 34⟩
abbrev F.tgMark_FOLIO : Fld := ⟨35, 35⟩
abbrev F.tgMark_EN : Fld := ⟨36, 36⟩
abbrev F.tgPmcSel_EVENT : Fld := ⟨7, 0⟩
abbrev F.tgPmcValue_COUNT : Fld := ⟨47, 0⟩
abbrev F.tgPmcShadow_COUNT : Fld := ⟨47, 0⟩
abbrev F.ppCfg_MAC : Fld := ⟨47, 0⟩
abbrev F.ppCfg_FEC : Fld := ⟨48, 48⟩
abbrev F.ppCfg_DUP : Fld := ⟨49, 49⟩
abbrev F.ppCfg_TXLAT : Fld := ⟨63, 56⟩
abbrev F.ppCtl_FORCE_FB : Fld := ⟨0, 0⟩
abbrev F.ppStatus_LINK : Fld := ⟨0, 0⟩
abbrev F.ppStatus_KA : Fld := ⟨1, 1⟩
abbrev F.ppStatus_MISS_EV : Fld := ⟨2, 2⟩
abbrev F.ppStatus_LCAUSE : Fld := ⟨6, 4⟩
abbrev F.ppStatus_MISSES : Fld := ⟨31, 16⟩
abbrev F.ppStatus_RX_DROP : Fld := ⟨47, 32⟩
abbrev F.ppStatus_TX_DOWN : Fld := ⟨63, 48⟩
abbrev F.ppMissSlots_SLOTS : Fld := ⟨63, 0⟩
abbrev F.ppRxRing_LOG2SIZE : Fld := ⟨3, 0⟩
abbrev F.ppRxRing_BASE : Fld := ⟨40, 11⟩
abbrev F.ppRxRing_SIG : Fld := ⟨63, 48⟩
abbrev F.ppRxf_ETYPE : Fld := ⟨15, 0⟩
abbrev F.ppRxf_VID : Fld := ⟨27, 16⟩
abbrev F.ppRxf_VMODE : Fld := ⟨29, 28⟩
abbrev F.ppRxf_RING : Fld := ⟨31, 30⟩
abbrev F.ppRxf_UDP : Fld := ⟨47, 32⟩
abbrev F.ppRxf_EN : Fld := ⟨48, 48⟩
abbrev F.ppSlotTime_MARK : Fld := ⟨7, 0⟩
abbrev F.ppSlotTime_EN : Fld := ⟨8, 8⟩
abbrev F.ppSlotTime_DBL : Fld := ⟨9, 9⟩
abbrev F.ppSlotTime_LEAD : Fld := ⟨47, 16⟩
abbrev F.ppSlotTime_CTR : Fld := ⟨63, 48⟩
abbrev F.ppSlotBuf_PADDR : Fld := ⟨40, 6⟩
abbrev F.ppSlotBuf_INC : Fld := ⟨63, 52⟩
abbrev F.ppSlotThr_THR : Fld := ⟨31, 0⟩
abbrev F.hlFeatOffer_OFFER : Fld := ⟨63, 0⟩
abbrev F.hlFeatAccept_ACCEPT : Fld := ⟨63, 0⟩
abbrev F.hlFeatCtl_LOCK : Fld := ⟨0, 0⟩
abbrev F.hlFeatCtl_LOCKED : Fld := ⟨1, 1⟩
abbrev F.hlFeatCtl_LERR : Fld := ⟨2, 2⟩
abbrev F.hlFeatCtl_HOSTLESS : Fld := ⟨3, 3⟩
abbrev F.hlBiasCtl_PAGE : Fld := ⟨18, 0⟩
abbrev F.hlBiasCtl_TO : Fld := ⟨19, 19⟩
abbrev F.hlBiasCtl_GO : Fld := ⟨20, 20⟩
abbrev F.hlBiasCtl_BUSY : Fld := ⟨21, 21⟩
abbrev F.hlMboxCtl_CMD : Fld := ⟨7, 0⟩
abbrev F.hlMboxCtl_GO : Fld := ⟨8, 8⟩
abbrev F.hlMboxCtl_BUSY : Fld := ⟨9, 9⟩
abbrev F.hlMboxCtl_DONE : Fld := ⟨10, 10⟩
abbrev F.hlMboxCtl_LEN : Fld := ⟨31, 16⟩
abbrev F.hlMboxCtl_STATUS : Fld := ⟨47, 32⟩
abbrev F.hlEvent_MBOX : Fld := ⟨0, 0⟩
abbrev F.hlEvent_IMAGE : Fld := ⟨1, 1⟩
abbrev F.hlEvent_BCAST : Fld := ⟨2, 2⟩
abbrev F.hlEvent_SUPPLY : Fld := ⟨3, 3⟩
abbrev F.hlEvent_HALT : Fld := ⟨4, 4⟩
abbrev F.hlEvent_BOOT : Fld := ⟨5, 5⟩
abbrev F.hlHostDb_RING : Fld := ⟨47, 0⟩
abbrev F.hlMbox_DATA : Fld := ⟨63, 0⟩
abbrev F.ftPort_UP : Fld := ⟨0, 0⟩
abbrev F.ftPort_WIDTH : Fld := ⟨3, 1⟩
abbrev F.ftPort_SPEED : Fld := ⟨5, 4⟩
abbrev F.ftPort_CAP : Fld := ⟨26, 16⟩
abbrev F.ftPort_DOWN_EV : Fld := ⟨32, 32⟩
abbrev F.ftPort_POISON_EV : Fld := ⟨33, 33⟩
abbrev F.ftSet_BASE : Fld := ⟨11, 0⟩
abbrev F.ftSet_SIZE : Fld := ⟨24, 12⟩
abbrev F.ftSet_WAYS : Fld := ⟨26, 25⟩
abbrev F.ftSet_ORDER : Fld := ⟨39, 32⟩
abbrev F.cnChoiceBit_COUNT : Fld := ⟨47, 0⟩
abbrev F.cnChoiceBit_LAST : Fld := ⟨51, 48⟩
abbrev F.cnChoiceTime_COUNT : Fld := ⟨47, 0⟩
abbrev F.cnChoiceTime_LAST : Fld := ⟨51, 48⟩
abbrev F.cnRdCtl_EN : Fld := ⟨0, 0⟩
abbrev F.cnRdCtl_SNAP : Fld := ⟨1, 1⟩
abbrev F.cnRdRing_LOG2SLOTS : Fld := ⟨3, 0⟩
abbrev F.cnRdRing_BASE : Fld := ⟨40, 14⟩
abbrev F.cnRdStatus_BUSY : Fld := ⟨0, 0⟩
abbrev F.cnRdStatus_SKIPPED : Fld := ⟨31, 16⟩
abbrev F.cnRdStatus_SEQ : Fld := ⟨63, 32⟩
abbrev F.cnPmcSel_EVENT : Fld := ⟨7, 0⟩
abbrev F.cnPmcValue_COUNT : Fld := ⟨47, 0⟩
abbrev F.cnPmcShadow_COUNT : Fld := ⟨47, 0⟩
abbrev F.cnRecCtl_EN : Fld := ⟨0, 0⟩
abbrev F.cnRecCtl_WRAP : Fld := ⟨1, 1⟩
abbrev F.cnRecCtl_FULL : Fld := ⟨2, 2⟩
abbrev F.cnRecCtl_KINDS : Fld := ⟨13, 8⟩
abbrev F.cnRecRing_LOG2SIZE : Fld := ⟨5, 0⟩
abbrev F.cnRecRing_BASE : Fld := ⟨51, 6⟩
abbrev F.cnRecWptr_PTR : Fld := ⟨63, 0⟩
abbrev F.cnRecRdptr_PTR : Fld := ⟨63, 0⟩
abbrev F.cnRplCtl_GO : Fld := ⟨0, 0⟩
abbrev F.cnRplCtl_ARM_OFF : Fld := ⟨1, 1⟩
abbrev F.cnRplCtl_KINDS : Fld := ⟨13, 8⟩
abbrev F.cnRplRing_LOG2SIZE : Fld := ⟨5, 0⟩
abbrev F.cnRplRing_BASE : Fld := ⟨51, 6⟩
abbrev F.cnRplStatus_STATE : Fld := ⟨2, 0⟩
abbrev F.cnRplStatus_LIVE_DROP : Fld := ⟨31, 16⟩
abbrev F.cnRplStatus_SEQ : Fld := ⟨63, 32⟩
abbrev F.clStatus_NEXT : Fld := ⟨13, 0⟩
abbrev F.clStatus_WRAPPED : Fld := ⟨14, 14⟩
abbrev F.clStatus_SEQ : Fld := ⟨47, 16⟩
abbrev F.clEntry_WORD : Fld := ⟨63, 0⟩
abbrev F.fbTorusId_X : Fld := ⟨4, 0⟩
abbrev F.fbTorusId_Y : Fld := ⟨9, 5⟩
abbrev F.fbTorusId_Z : Fld := ⟨13, 10⟩
abbrev F.fbTorusId_SLOT : Fld := ⟨21, 16⟩
abbrev F.fbTorusId_DX : Fld := ⟨29, 24⟩
abbrev F.fbTorusId_DY : Fld := ⟨35, 30⟩
abbrev F.fbTorusId_DZ : Fld := ⟨40, 36⟩
abbrev F.fbVcWeight_W0 : Fld := ⟨7, 0⟩
abbrev F.fbVcWeight_W1 : Fld := ⟨15, 8⟩
abbrev F.fbVcWeight_W2 : Fld := ⟨23, 16⟩
abbrev F.fbVcWeight_W3 : Fld := ⟨31, 24⟩
abbrev F.fbMpStatus_KEY_REJ : Fld := ⟨15, 0⟩
abbrev F.fbMpStatus_IMP_MISS : Fld := ⟨31, 16⟩
abbrev F.fbMpStatus_DROPPED : Fld := ⟨47, 32⟩
abbrev F.fbMpStatus_REJ_EV : Fld := ⟨48, 48⟩
abbrev F.fbPeerDead_DEAD : Fld := ⟨63, 0⟩
abbrev F.fbCollStatus_RB_SEGS : Fld := ⟨4, 0⟩
abbrev F.fbCollStatus_TC_FREE : Fld := ⟨27, 16⟩
abbrev F.fbCollStatus_ADMIT_WAIT : Fld := ⟨47, 32⟩
abbrev F.fbPort_UP : Fld := ⟨0, 0⟩
abbrev F.fbPort_LANES : Fld := ⟨4, 1⟩
abbrev F.fbPort_RETRY : Fld := ⟨31, 16⟩
abbrev F.fbPort_DOWN_EV : Fld := ⟨32, 32⟩
abbrev F.fbGroup_OX : Fld := ⟨4, 0⟩
abbrev F.fbGroup_OY : Fld := ⟨9, 5⟩
abbrev F.fbGroup_OZ : Fld := ⟨13, 10⟩
abbrev F.fbGroup_EX : Fld := ⟨21, 16⟩
abbrev F.fbGroup_EY : Fld := ⟨29, 24⟩
abbrev F.fbGroup_EZ : Fld := ⟨36, 32⟩
abbrev F.fbGroup_AXES : Fld := ⟨42, 40⟩
abbrev F.fbGroup_VALID : Fld := ⟨43, 43⟩
abbrev F.fbGstat_SEQ : Fld := ⟨31, 0⟩
abbrev F.fbGstat_STATE : Fld := ⟨34, 32⟩
abbrev F.fbGstat_CAUSE : Fld := ⟨39, 36⟩
abbrev F.fbGstat_ABORT : Fld := ⟨40, 40⟩
abbrev F.fbGstat_RESET : Fld := ⟨41, 41⟩
abbrev F.fbPmcSel_EVENT : Fld := ⟨7, 0⟩
abbrev F.fbPmcValue_COUNT : Fld := ⟨47, 0⟩
abbrev F.fbPmcShadow_COUNT : Fld := ⟨47, 0⟩
abbrev F.fbExpRange_BASE : Fld := ⟨29, 0⟩
abbrev F.fbExpRange_SIZE : Fld := ⟨59, 30⟩
abbrev F.fbExpKey_KEY : Fld := ⟨47, 0⟩
abbrev F.fbExpKey_GEN : Fld := ⟨51, 48⟩
abbrev F.fbExpKey_R : Fld := ⟨52, 52⟩
abbrev F.fbExpKey_W : Fld := ⟨53, 53⟩
abbrev F.fbExpKey_A : Fld := ⟨54, 54⟩
abbrev F.fbExpKey_EN : Fld := ⟨55, 55⟩
abbrev F.fbImpRange_BASE : Fld := ⟨29, 0⟩
abbrev F.fbImpRange_SIZE : Fld := ⟨59, 30⟩
abbrev F.fbImpKey_KEY : Fld := ⟨47, 0⟩
abbrev F.fbImpKey_REGION : Fld := ⟨63, 48⟩
abbrev F.fbImpCtl_SLOT : Fld := ⟨5, 0⟩
abbrev F.fbImpCtl_EN : Fld := ⟨6, 6⟩
abbrev F.cvHintQuota_KEEP_WAYS : Fld := ⟨3, 0⟩
abbrev F.cvHintQuota_UNKEEP : Fld := ⟨4, 4⟩
abbrev F.cvPrio_BULK_AGE : Fld := ⟨7, 0⟩
abbrev F.cvScrub_PERIOD : Fld := ⟨5, 0⟩
abbrev F.cvScrub_PASSES : Fld := ⟨63, 32⟩
abbrev F.cvEcc_CORR : Fld := ⟨15, 0⟩
abbrev F.cvEcc_UNCORR : Fld := ⟨31, 16⟩
abbrev F.cvEcc_RETRY : Fld := ⟨47, 32⟩
abbrev F.cvEcc_ESCAL : Fld := ⟨55, 48⟩
abbrev F.cvEccAddr_ADDR : Fld := ⟨51, 0⟩
abbrev F.cvEccAddr_SRC : Fld := ⟨54, 52⟩
abbrev F.cvTherm_TEMP : Fld := ⟨7, 0⟩
abbrev F.cvTherm_STEP : Fld := ⟨10, 8⟩
abbrev F.cvTherm_STEP_EV : Fld := ⟨16, 16⟩
abbrev F.cvBmeStatus_BUSY : Fld := ⟨0, 0⟩
abbrev F.cvBmeStatus_CMD : Fld := ⟨2, 1⟩
abbrev F.cvBmeStatus_RETRY : Fld := ⟨3, 3⟩
abbrev F.cvBmeStatus_DONE : Fld := ⟨47, 16⟩
abbrev F.cvPmcSel_EVENT : Fld := ⟨7, 0⟩
abbrev F.cvPmcValue_COUNT : Fld := ⟨47, 0⟩
abbrev F.cvPmcShadow_COUNT : Fld := ⟨47, 0⟩
abbrev F.cqDoorbell_TAIL : Fld := ⟨31, 0⟩
abbrev F.cqCtl_RESUME : Fld := ⟨0, 0⟩
abbrev F.cqCtl_STOP : Fld := ⟨1, 1⟩
abbrev F.cqStatus_STATE : Fld := ⟨2, 0⟩
abbrev F.cqStatus_DEPTH : Fld := ⟨6, 4⟩
abbrev F.cqStatus_REPLAY : Fld := ⟨7, 7⟩
abbrev F.cqStatus_RECORD : Fld := ⟨8, 8⟩
abbrev F.cqStatus_DBERR : Fld := ⟨9, 9⟩
abbrev F.cqStatus_CLOST : Fld := ⟨10, 10⟩
abbrev F.cqStatus_HEAD : Fld := ⟨63, 32⟩
abbrev F.cqSerial_SERIAL : Fld := ⟨47, 0⟩
abbrev F.cqBind_KIND : Fld := ⟨3, 0⟩
abbrev F.cqBind_TARGET : Fld := ⟨15, 8⟩
abbrev F.cqBind_HOME : Fld := ⟨23, 16⟩
abbrev F.cqBind_PRIO : Fld := ⟨27, 24⟩
abbrev F.cqBind_CCORE : Fld := ⟨37, 32⟩
abbrev F.cqRing_LOG2SIZE : Fld := ⟨3, 0⟩
abbrev F.cqRing_BASE : Fld := ⟨51, 6⟩
abbrev F.cqCring_LOG2SIZE : Fld := ⟨3, 0⟩
abbrev F.cqCring_BASE : Fld := ⟨51, 6⟩
abbrev F.cqCread_READ : Fld := ⟨31, 0⟩
abbrev F.cqCread_WRITTEN : Fld := ⟨63, 32⟩
abbrev F.cqSig_VALUE : Fld := ⟨31, 0⟩
abbrev F.cqSig_ADD : Fld := ⟨63, 63⟩
abbrev F.coreBind_CCORE : Fld := ⟨5, 0⟩
abbrev F.coreBind_LOCAL : Fld := ⟨10, 8⟩
abbrev F.coreRngKey_KEY : Fld := ⟨63, 0⟩
abbrev F.coreRngCtr_CTR : Fld := ⟨63, 0⟩
abbrev F.coreSgStatus_BUSY : Fld := ⟨0, 0⟩
abbrev F.coreSgStatus_FROZEN : Fld := ⟨1, 1⟩
abbrev F.coreSgStatus_ITEM : Fld := ⟨31, 16⟩
abbrev F.coreSgStatus_BLOCK : Fld := ⟨63, 32⟩
abbrev F.coreSvStatus_BUSY : Fld := ⟨0, 0⟩
abbrev F.coreSvStatus_FROZEN : Fld := ⟨1, 1⟩
abbrev F.coreSvStatus_GROUP : Fld := ⟨31, 16⟩
abbrev F.coreSvStatus_STAGE : Fld := ⟨34, 32⟩
abbrev F.coreVxStatus_BUSY : Fld := ⟨0, 0⟩
abbrev F.coreVxStatus_LOOPS : Fld := ⟨3, 1⟩
abbrev F.coreVxStatus_PC : Fld := ⟨31, 16⟩
abbrev F.coreVxFlags_IEEE : Fld := ⟨4, 0⟩
abbrev F.coreVxFlags_SAT : Fld := ⟨8, 8⟩
abbrev F.coreSig_ID : Fld := ⟨31, 0⟩
abbrev F.coreSig_VALID : Fld := ⟨32, 32⟩
abbrev F.coreSig_OP : Fld := ⟨35, 33⟩
abbrev F.coreSig_POLICY : Fld := ⟨36, 36⟩
abbrev F.coreSig_N : Fld := ⟨47, 40⟩
abbrev F.coreSig_MROWS : Fld := ⟨55, 48⟩
abbrev F.coreSig_LOADING : Fld := ⟨56, 56⟩
abbrev F.coreRbank_ACTIVE : Fld := ⟨0, 0⟩
abbrev F.coreRbank_VERIFIED : Fld := ⟨1, 1⟩
abbrev F.coreRbank_VERIFY : Fld := ⟨2, 2⟩
abbrev F.coreRbank_VFAIL : Fld := ⟨3, 3⟩
abbrev F.coreRbank_BUSY : Fld := ⟨4, 4⟩
abbrev F.coreRbank_SWAPS : Fld := ⟨31, 16⟩
abbrev F.coreXlatRoot_PA : Fld := ⟨51, 12⟩
abbrev F.coreXlatInv_INV : Fld := ⟨0, 0⟩
abbrev F.coreXlatInv_BUSY : Fld := ⟨1, 1⟩
abbrev F.coreDmFaddr_ADDR : Fld := ⟨63, 0⟩
abbrev F.coreDmFser_SERIAL : Fld := ⟨47, 0⟩
abbrev F.coreDmFser_CAUSE : Fld := ⟨51, 48⟩
abbrev F.coreChkStatus_RETRIES : Fld := ⟨15, 0⟩
abbrev F.coreChkStatus_LAST : Fld := ⟨19, 16⟩
abbrev F.coreChkStatus_RETRYING : Fld := ⟨20, 20⟩
abbrev F.coreSound_GO : Fld := ⟨0, 0⟩
abbrev F.coreSound_LEVEL : Fld := ⟨1, 1⟩
abbrev F.coreSound_BUSY : Fld := ⟨2, 2⟩
abbrev F.coreSound_STATUS : Fld := ⟨31, 16⟩
abbrev F.coreSound_UNIT : Fld := ⟨35, 32⟩
abbrev F.corePmcSel_EVENT : Fld := ⟨7, 0⟩
abbrev F.corePmcValue_COUNT : Fld := ⟨47, 0⟩
abbrev F.corePmcShadow_COUNT : Fld := ⟨47, 0⟩
abbrev F.coreParam_VALUE : Fld := ⟨63, 0⟩
abbrev F.corePstage_VALUE : Fld := ⟨63, 0⟩
abbrev F.coreBank_DATA : Fld := ⟨63, 0⟩
abbrev F.ccStatus_PRIV : Fld := ⟨0, 0⟩
abbrev F.ccStatus_IE : Fld := ⟨1, 1⟩
abbrev F.ccStatus_SPRIV : Fld := ⟨2, 2⟩
abbrev F.ccStatus_SIE : Fld := ⟨3, 3⟩
abbrev F.ccStatus_TRAP : Fld := ⟨4, 4⟩
abbrev F.ccStatus_HALT : Fld := ⟨5, 5⟩
abbrev F.ccTvec_VEC : Fld := ⟨63, 2⟩
abbrev F.ccTrapCause_CAUSE : Fld := ⟨7, 0⟩
abbrev F.ccTrapCause_INT : Fld := ⟨8, 8⟩
abbrev F.ccTrapCause_ELEMV : Fld := ⟨15, 15⟩
abbrev F.ccTrapCause_ELEM : Fld := ⟨22, 16⟩
abbrev F.ccTrapPc_PC : Fld := ⟨63, 0⟩
abbrev F.ccTrapAddr_ADDR : Fld := ⟨63, 0⟩
abbrev F.ccFlags_IEEE : Fld := ⟨4, 0⟩
abbrev F.ccFlags_VSAT : Fld := ⟨8, 8⟩
abbrev F.ccVstate_VL : Fld := ⟨7, 0⟩
abbrev F.ccVstate_EW : Fld := ⟨9, 8⟩
abbrev F.ccVstate_QRND : Fld := ⟨11, 10⟩
abbrev F.ccVstate_ILL : Fld := ⟨12, 12⟩
abbrev F.ccCycle_COUNT : Fld := ⟨63, 0⟩
abbrev F.ccMboxIe_EN : Fld := ⟨63, 0⟩
abbrev F.ccXlatRoot_PA : Fld := ⟨51, 12⟩
abbrev F.ccXlatInv_INV : Fld := ⟨0, 0⟩
abbrev F.ccXlatInv_BUSY : Fld := ⟨1, 1⟩
abbrev F.ccJobPerm_CTR_BASE : Fld := ⟨15, 0⟩
abbrev F.ccJobPerm_CTR_LAST : Fld := ⟨31, 16⟩
abbrev F.ccJobPerm_CTR_EN : Fld := ⟨32, 32⟩
abbrev F.ccJobPerm_PERF : Fld := ⟨33, 33⟩
abbrev F.ccJobPerm_PTIME : Fld := ⟨34, 34⟩
abbrev F.ccJobPerm_TIDE : Fld := ⟨35, 35⟩
abbrev F.ccCtl_RESTART : Fld := ⟨0, 0⟩
abbrev F.ccCtl_DB_SET : Fld := ⟨1, 1⟩
abbrev F.ccCtl_DB : Fld := ⟨2, 2⟩
abbrev F.ccCallStatus_PENDING : Fld := ⟨15, 0⟩
abbrev F.ccCallStatus_TAKEN : Fld := ⟨31, 16⟩
abbrev F.ccCallStatus_IE : Fld := ⟨32, 32⟩
abbrev F.ccMboxTag_SEQ : Fld := ⟨15, 0⟩
abbrev F.ccMboxTag_KIND : Fld := ⟨19, 16⟩
abbrev F.ccMboxTag_FULL : Fld := ⟨24, 24⟩
abbrev F.ccMboxTag_OVW : Fld := ⟨25, 25⟩
abbrev F.ccMboxTag_CMD : Fld := ⟨63, 32⟩
abbrev F.ccMboxVal_VALUE : Fld := ⟨63, 0⟩

end Sys2Proof.Machine
end

