-- ==== Sys2Proof/Machine/State.lean ====
section
/-! DEFINITION. The state of the package: plain data, every register, store, queue, counter, mode and pin that the spec
names (INVENTORY.md, ## State), and the queue of waiting commands. -/

namespace Sys2Proof.Machine

/-- Who raises it: COVE_ACCESS for an address outside every range that a cove serves (16 R441). Safe: the model stops. -/
inductive Fault where
  /-- An access command names an address that the spec's address map does not contain. Safe. -/
  | noSuchAddress
  deriving DecidableEq, Repr

/-- The only refusal: an arm of `exec` that has no meaning yet. Safe. -/
inductive Refusal where
  /-- Raised by `exec` for a command without a meaning. Safe: the model stops. -/
  | notModelled (mnemonic : String)
  deriving DecidableEq, Repr

/-- The tide gate beside its registers (02). Counts are 48.16; times are processor-die cycles or units of package time. -/
structure Tide where
  count : Word := 0
  src : Word := 0
  offset : Word := 0
  zlatch : Word := 0
  cycStart : Word := 0
  len : Nat := 0
  no : Nat := 0
  cycAt : Nat := 0
  lastLen : Option Nat := none
  hold : Bool := false
  debt : Nat := 0
  ivals : List Nat := []
  lastAt : Nat := 0
  fracAt : Nat := 0
  lastAny : Nat := 0
  anySeen : Bool := false
  arrived : Nat := 0
  encA : Bool := false
  encB : Bool := false
  levelA : Bool := true
  levelB : Bool := true
  levelZ : Bool := true
  okSince : Nat := 0
  zCounts : Nat := 0
  zSeen : Bool := false
  pllGood : Nat := 0
  mainsAt : Nat := 0
  mainsSeen : Bool := false
  mainsPeriod : Nat := 0
  ppsSeen : Bool := false
  ppsAt : Nat := 0
  epoch : Option Nat := none
  ptpBase : Word := 0
  synth : Nat := 0
  fired : List Nat := []
  phase : Option Nat := none
  overrunLogged : Bool := false
  cut : Nat := 0
  openClk : Nat := 16
  coastNum : Nat := 0
  coastDen : Nat := 1
  coastAt : Nat := 0
  coastBase : Word := 0
  coastLeft : Nat := 0
  targets : List (Nat × Nat) := []
  acqAt : Nat := 0
  noPos : Bool := false
  relayMsgs : Nat := 0
  ownLoss : Bool := false
  relayAt : Nat := 0
  relayPt : Nat := 0
  relayState : Nat := 0
  relayRate : Nat := 0
  relayBase : Word := 0
  hop : Option Nat := none
  hopNew : Option Nat := none
  phaseDone : List (Nat × Nat) := []
  sentAt : Nat := 0
  deriving DecidableEq, Repr

/-- Where a write of a command lands: the core store of a logical core, or a physical address. -/
inductive Space where
  | core (c : Nat)
  | phys
  deriving DecidableEq, Repr

/-- One write of a command: space, address and bytes. -/
structure Wr where
  sp : Space
  addr : Nat
  data : List Byte
  deriving DecidableEq, Repr

/-- A command that its queue has started and not completed (09 R248 to R254). `desc` holds the descriptor's 8 words,
`params` the 16 words of its parameter block, latched at the start (R257); `slot` is HEAD until it completes (R243). `todo` holds the units of re-execution that
a failed check holds back (17 R484); `retrying` says that one failed and has not passed; `icount` counts vector
instructions; `failAt` is the instruction whose check fails; `places` are the positions that DETAIL names for the units of `todo`; `stale` are the problems whose values changed while a solver command covered them (05 R136); `await` are remote reads not yet answered (identifier, physical address) and `rdata` the bytes
read so far (12 R352); `dsts` the last sequence number sent to each rack slot (R351); `post` are register writes made when the last unit is written;
`root` is the root of translation at the start (10 R303) and `head` the quire header that a delta command read then (05 R132). -/
structure Run where
  serial : Nat
  slot : Nat
  desc : List Word
  params : List Word
  status : Nat := 0
  detail : Nat := 0
  done : Bool := true
  retrying : Bool := false
  retried : Bool := false
  injected : Bool := false
  unit : Nat := 0
  todo : List (List Wr) := []
  post : List (Reg × Word) := []
  await : List (Nat × Nat) := []
  rdata : List (Nat × List Byte) := []
  dsts : List (Nat × Nat) := []
  frozen : Bool := false
  icount : Nat := 0
  failAt : Option Nat := none
  places : List Nat := []
  stale : List Nat := []
  root : Nat := 0
  head : Option (List Byte) := none
  deriving DecidableEq, Repr

/-- Where the queue reads its next descriptor: the ring, or a descriptor of the open replay (09 R263). -/
structure Replay where
  addr : Nat
  count : Nat
  idx : Nat
  deriving DecidableEq, Repr

/-- An open hardware loop (09 R259): the place after its `cq.loop` in the ring or in the replay, and the passes left. -/
structure Loop where
  pos : Nat
  replay : Option Replay
  left : Nat
  deriving DecidableEq, Repr

/-- An open recording (09 R261): segment address, EXEC, descriptors copied, next ring descriptor to copy, loops that the copied
descriptors leave open. -/
structure Rec where
  addr : Nat
  exec : Bool
  count : Nat
  next : Nat
  depth : Nat
  deriving DecidableEq, Repr

/-- What a bound queue does (09, CQ_STATUS.STATE; IDLE, WAIT and RUN follow from `run` and the ring). -/
inductive QMode where
  | unbound | on | error | stopped | drain
  deriving DecidableEq, Repr

/-- A command queue beside its registers (09): `pos` is the ring position of the first descriptor not started, `runs` the commands
started and not completed, in their order (R250); `skip` counts the loops of a zero-count skip (R259) and `skipAt` is the ring slot of its
`cq.loop`. -/
structure Queue where
  mode : QMode := .unbound
  pos : Nat := 0
  loops : List Loop := []
  replay : Option Replay := none
  rcd : Option Rec := none
  skip : Nat := 0
  skipAt : Option Nat := none
  runs : List Run := []
  markOk : Bool := false
  seen : Bool := false
  deriving DecidableEq, Repr

/-- A summary accumulator of the vector engine (07 R196): the kind of its last accumulation and its value. -/
structure Smry where
  kind : Nat
  val : Word
  deriving DecidableEq, Repr

/-- An open vector loop (07 R182): first instruction of the body and passes left. -/
structure VLoop where
  start : Nat
  left : Nat
  deriving DecidableEq, Repr

/-- A post that has left the vector engine and not reached its mailbox entry (07 R197): slot, kind, value, low serial bits. -/
structure Post where
  slot : Nat
  kind : Nat
  val : Word
  cmd : Nat
  deriving DecidableEq, Repr

/-- A sounding test that has been started (17 R503 to R506): level, the queue whose `core.sound` started it, whether the
management port waits for its result, and its tag. -/
structure Sound where
  full : Bool
  queue : Option Nat
  mgmt : Option Nat
  deriving DecidableEq, Repr

/-- A fence whose result has not been reported (17 R493). -/
structure FenceRun where
  cause : Nat
  go : Bool
  mgmt : Option Nat
  record : Bool
  lost : Bool
  tide : Word
  time : Nat
  deriving DecidableEq, Repr

/-- A waiting injection (17, GL_CHK_CTL). -/
structure Inj where
  unit : Nat
  count : Nat
  deriving DecidableEq, Repr

/-- A logical core beside its registers (01, 04, 06, 07, 09, 17). -/
structure Core where
  store : List Host.Cell := []
  vregs : List (Nat × BitVec 2048) := []
  preds : List (Nat × BitVec 256) := []
  scal : List (Nat × Word) := []
  smry : List (Nat × Smry) := []
  vpc : Nat := 0
  vloops : List VLoop := []
  vskip : Nat := 0
  rngRun : Option Nat := none
  posts : List Post := []
  sigs : List (Nat × List Byte) := []
  dirs : List (Nat × List (Nat × Nat × Nat)) := []
  bankDirty : Bool := false
  rngHeld : List (Reg × Word) := []
  inj : Option Inj := none
  sound : Option Sound := none
  fence : Option FenceRun := none
  deriving DecidableEq, Repr

/-- A part of a control core's load: its bytes, or `len` bytes at `off` of the answer that an identifier names (12 R352). -/
structure LoadPart where
  id : Option Nat
  off : Nat
  len : Nat
  data : List Byte
  deriving DecidableEq, Repr

/-- What a control core waits for (08): nothing, an interrupt, a mailbox entry, a call, or the answers to a load. -/
inductive CcWait where
  | run
  | wfi
  | mbwait (rd ra deadline : Nat)
  | cctake (rd deadline : Nat)
  | load (rd : Nat) (sgn : Bool) (parts : List LoadPart)
  | vload (vd pg : Nat) (parts : List LoadPart)
  deriving DecidableEq, Repr

/-- A control-core call slot (08 R230): the queue that called, its serial, its latched block, and whether code took it. -/
structure Call where
  queue : Nat
  serial : Nat
  params : List Word
  taken : Bool
  deriving DecidableEq, Repr

/-- A control core beside its registers (08); `dcache` are the 64-byte lines of its data cache by physical address. -/
structure CtlCore where
  g : List (Nat × Word) := []
  pc : Word := 0
  v : List (Nat × BitVec 1024) := []
  p : List (Nat × BitVec 128) := []
  calls : List (Nat × Call) := []
  dcache : List (Nat × List Byte) := []
  wait : CcWait := .run
  supply : Bool := false
  tide : Bool := false
  deriving DecidableEq, Repr

/-- A remote request that holds a tracker (12): identifier, destination slot, sequence number if it is a write or atomic not yet
acknowledged, the queue or control core that issued it, whether an answer is awaited, its core, its packet and the path that carries
it (8: none), and whether it still waits for a tracker of its die. -/
structure Tracker where
  id : Nat
  dst : Nat
  seq : Option Nat
  queue : Option Nat
  cc : Option Nat
  fetch : Bool
  core : Option Nat
  pkt : MpPacket
  path : Nat
  stalled : Bool := false
  deriving DecidableEq, Repr

/-- An atomic that waits in its line (12 R347). -/
structure AtomReq where
  src : Nat
  addr : Nat
  op : Nat
  opa : Word
  opb : Word
  reply : Bool
  seq : Option Nat
  deriving DecidableEq, Repr

/-- A posted receive (12 R364). -/
structure Recv where
  queue : Nat
  serial : Nat
  die : Nat
  src : Nat
  anysrc : Bool
  tag : BitVec 32
  mask : BitVec 32
  addr : Nat
  len : Nat
  rep : Option Nat
  rsig : Nat
  rinc : Nat
  root : Nat
  deriving DecidableEq, Repr

/-- A message header (12 R365): receiving die, sender, tag, length, and the sender's message identifier. -/
structure Hdr where
  die : Nat
  src : Nat
  tag : BitVec 32
  len : Nat
  id : Nat
  deriving DecidableEq, Repr

/-- A matched message whose payload is awaited. -/
structure Match where
  recv : Recv
  hdr : Hdr
  deriving DecidableEq, Repr

/-- A sent message whose payload has not been read (12 R363): where it goes and where its bytes stand. -/
structure SendRun where
  id : Nat
  queue : Nat
  dst : Nat
  root : Nat
  addr : Nat
  len : Nat
  ssig : Nat
  sinc : Nat
  deriving DecidableEq, Repr

/-- The chain of one stream of an admitted segment (13 R384): the phase it is in, operations done in it, arrivals per phase (the
arrival counter A), parts that have landed by phase and chunk, and the reduce buffer's result of the last axis. -/
structure Chain where
  seg : Nat
  stream : Nat
  phase : Nat
  step : Nat
  arr : List (Nat × Nat)
  staged : List ((Nat × Nat) × List Byte)
  buf : List Byte
  deriving DecidableEq, Repr

/-- A collective that has started and not ended (13): its command, the group's sequence number, its parameters, the next segment to
admit, how many of its segments have been counted as waiting (R395), the chains of its admitted segments, and the IEEE flags of its combines. -/
structure Coll where
  queue : Nat
  serial : Nat
  group : Nat
  seq : Nat
  routine : Nat
  rtype : Nat
  root : Nat
  bytes : Nat
  src : Nat
  dst : Nat
  next : Nat
  waited : Nat
  chains : List Chain
  flags : Nat
  deriving DecidableEq, Repr

/-- Packets, messages and tables of the fabric dies (12, 13); `waiting` and `collWait` are packets whose direction has no port up here
(12 R359, 13 R392), the second with their destinations. -/
structure Fabric where
  seqTx : List (Nat × Nat) := []
  ackTx : List (Nat × Nat) := []
  ackRx : List (Nat × Nat) := []
  applied : List (Nat × Nat) := []
  trackers : List Tracker := []
  nextId : Nat := 0
  atoms : List AtomReq := []
  lineAtoms : List (Nat × Nat) := []
  recvs : List Recv := []
  unexp : List Hdr := []
  matched : List Match := []
  sends : List SendRun := []
  waiting : List TorusPacket := []
  collWait : List (Nat × CollPacket) := []
  colls : List Coll := []
  arrivals : List CollPacket := []
  deriving DecidableEq, Repr

/-- What a slot's commit point chose (14 R398, R400): the miss cause (0 none), whether the frame is the primary, its buffer. -/
structure Chosen where
  cause : Nat
  prim : Bool
  buf : List Byte
  deriving DecidableEq, Repr

/-- A plant port beside its registers (14): fallback buffers in force and loaded since, slots past their commit point in this
cycle, what they chose, the package time of each slot's last transmission since lock, keep-alive and the last time of each slot's keep-alive
schedule, entries written to each ring. -/
structure Plant where
  fallback : List (Nat × List Byte) := []
  loaded : List (Nat × List Byte) := []
  committed : List Nat := []
  chosen : List (Nat × Chosen) := []
  lastTx : List (Nat × Nat) := []
  kaOn : Bool := false
  kaPeriod : Nat := 0
  kaSlots : List Nat := []
  kaAt : List (Nat × Nat) := []
  rxW : List (Nat × Nat) := []
  deriving DecidableEq, Repr

/-- A broadcast as this package sees it (16 R471 to R479); `dirs` are the directories of the routine bundles in its image. -/
structure Bcast where
  chunks : Nat := 0
  size : Nat := 0
  root : Nat := 0
  extra : List Nat := []
  dropped : List Nat := []
  acks : List (Nat × Nat) := []
  resent : Bool := false
  verified : Bool := false
  failedSelf : Bool := false
  startHeld : Bool := false
  dirs : List (Nat × List (Nat × Nat × Nat)) := []
  reparent : Option Nat := none
  deriving DecidableEq, Repr

/-- An event in the custodian's pending queue (17 R496, R507): its colophon fields, whether it raises vector 0, and the
physical core whose fence record it asks for. -/
structure CustEv where
  tide : Word
  time : Nat
  source : Nat
  code : Nat
  data : Word
  irq : Bool
  record : Option Nat
  deriving DecidableEq, Repr

/-- A colophon entry (17 R507). -/
structure LogEntry where
  tide : Word
  time : Nat
  source : Nat
  code : Nat
  seq : Nat
  data : Word
  deriving DecidableEq, Repr

/-- The management port (20 R563, R565): summaries sent, the cycle of the last one, whether one is due, the part of a firmware image
received, and whether copy B of the firmware runs. -/
structure Mgmt where
  seq : Nat := 0
  sentAt : Nat := 0
  due : Bool := false
  fw : List Byte := []
  runsB : Bool := false
  deriving DecidableEq, Repr

/-- The latched snapshot (18 R525, R526): tide count, time, cycle, trigger, mark, choice-counter shadows. -/
structure Snap where
  tide : Word
  time : Nat
  no : Nat
  trigger : Nat
  mark : Nat
  bit : Nat
  tim : Nat
  deriving DecidableEq, Repr

/-- The recorder and the replay (18 R516 to R522). -/
structure Recorder where
  on : Bool := false
  items : List Nat := []
  openAt : Nat := 0
  openTide : Word := 0
  lastItem : Nat := 0
  seq : Nat := 0
  lost : Nat := 0
  rplPos : Nat := 0
  rplItem : Nat := 0
  rplFirst : Nat := 0
  rplSeq : Nat := 0
  rplOn : Bool := false
  rplAt : Nat := 0
  deriving DecidableEq, Repr

/-- A folio or a restore under way (19): `sent` is the last sequence number to each member, `oldMask` and `oldL` describe the group
that took the generation to be restored, `rcode` is the outcome of a restore that has not ended. -/
structure Folio where
  requested : Option Nat := none
  gen : Nat := 0
  half : Nat := 0
  steps : Nat := 0
  lastAt : Nat := 0
  tideAt : Word := 0
  header : List Host.Cell := []
  genWait : List Nat := []
  copied : List Nat := []
  par : List (Nat × (List Host.Cell × List Host.Cell × Nat)) := []
  sent : List (Nat × Nat) := []
  choices : List (Nat × Nat) := []
  chosen : Option Nat := none
  oldMask : Word := 0
  oldL : Nat := 0
  rcode : Option Nat := none
  deriving DecidableEq, Repr

/-- What has left the package: vectors, pins, packets, frames, flash writes and replies, in order. -/
inductive Out where
  | msix (vector : Nat)
  | frame (port : Nat) (bytes : List Byte)
  | relay (m : RelayMsg)
  | phaseReport (entry : Nat)
  | packet (dst : Nat) (m : MpPacket)
  | response (dst id : Nat) (data : List Byte)
  | nak (dst id : Nat)
  | accepted (dst id : Nat)
  | ack (dst n : Nat)
  | torus (die port : Nat) (m : TorusPacket)
  | retransmit (die port : Nat)
  | header (dst die : Nat) (tag : BitVec 32) (len id : Nat)
  | pull (src id : Nat)
  | payload (dst id : Nat) (data : List Byte)
  | coll (die port dst : Nat) (m : CollPacket)
  | abort (group : Nat)
  | ownership (page : Nat)
  | resolve (line : Nat)
  | chunk (child root size n : Nat)
  | bcastAck (parent count : Nat)
  | bcastResend (parent : Nat)
  | bcastDiscard (child : Nat)
  | bcastStart (child : Nat)
  | flashFence (core : Nat)
  | flashOwner (key : List Byte)
  | flashFuse
  | flashLeaf (hwm : Nat)
  | flashFirmware (bytes : List Byte)
  | mgmtReply (code tag status : Nat) (data : List Byte)
  | health (data : List Byte)
  | mctp (data : List Byte)
  | pldm (data : List Byte)
  | folioReq (x : Nat)
  | folioLeaf (slot off : Nat) (cells : List Host.Cell)
  | folioCommit (rank : Nat) (data : List Byte)
  | folioAbandon (gen cause : Nat)
  | folioChoice (rank gen : Nat)
  | folioAnnounce (gen : Nat)
  | faultN (asserted : Bool)
  | hostData (addr : Nat) (data : List Byte) (poison : Bool)
  deriving DecidableEq, Repr

/-- An uncorrectable word (10 R285): storage kind (0 stack, 1 cove cache, 2 core store, 3 far tier, 4 stack interface after retries,
while the command runs, 5 routine store, 6 signature store), unit (core, or 0), address of the 8-byte word. -/
structure BadWord where
  kind : Nat
  unit : Nat
  addr : Nat
  deriving DecidableEq, Repr

/-- A line that a cove cache holds (10 R274): its physical address, whether it is protected (R276), and, where it is dirty, the 64 bytes
that were last written back below it. -/
structure Line where
  addr : Nat
  keep : Bool
  old : Option (List Byte)
  deriving DecidableEq, Repr

/-- The package: everything but the queue of waiting commands; `cache` lists the lines of all cove caches, the most recently used first. -/
structure Dev where
  regs : List (Reg × Word) := []
  held : List (Reg × Word) := []
  cycle : Nat := 0
  ptime : Nat := 0
  tide : Tide := {}
  capInForce : Nat := 3400
  mem : List Host.Cell := []
  far : List Host.Cell := []
  badWords : List BadWord := []
  cache : List Line := []
  cores : List (Nat × Core) := []
  ccs : List (Nat × CtlCore) := []
  queues : List (Nat × Queue) := []
  fabric : Fabric := {}
  plants : List (Nat × Plant) := []
  hostLink : Bool := false
  perst : Bool := false
  bias : List Nat := []
  bcast : Bcast := {}
  board : Option Board := none
  boot : Option Boot := none
  ownerKey : Option (List Byte) := none
  topq : Option Nat := none
  leaf : Nat := 0
  custQ : List CustEv := []
  custLost : Nat := 0
  log : List (Nat × LogEntry) := []
  cmpRun : List (Nat × Nat) := []
  escal : List (Nat × Nat) := []
  resetCause : Nat := 0
  corr : List (Nat × (Nat × Nat)) := []
  jhold : List Nat := []
  faultN : Bool := false
  pwrGood : Bool := false
  supplyWarnN : Bool := false
  stackT : List (Nat × Nat) := []
  junction : List (Nat × Nat) := []
  recd : Recorder := {}
  snap : Option Snap := none
  folio : Folio := {}
  mgmt : Mgmt := {}
  out : List Out := []
  free : Nat := 0
  deriving DecidableEq, Repr

/-- The state: the package and the commands that wait, first in, first out. -/
structure State where
  dev : Dev := {}
  pending : List Instr := []
  deriving DecidableEq, Repr

/-- The package before power good: every register at the reset value of its table, nothing stored, no command waiting. -/
def State.reset : State := {}

end Sys2Proof.Machine
end

