-- ==== Sys2Proof/Machine/Ops.lean ====
section
/-! DEFINITION. The named operations over registers, events and counters that every command uses: reading and writing a
register and its fields, the value in force, colophon events and the custodian's queue, choice counters, performance
counters, the parts of the package by number. -/

namespace Sys2Proof.Machine

/-! ## Registers -/

/-- The value of field bounds `f` in a word. -/
def Fld.get (f : Fld) (w : Word) : Nat := bits w.toNat f.hi f.lo

/-- The word with field `f` at `n`, the other bits kept. -/
def Fld.put (f : Fld) (n : Nat) (w : Word) : Word :=
  BitVec.ofNat 64 (w.toNat - bits w.toNat f.hi f.lo * 2 ^ f.lo + n % 2 ^ (f.hi + 1 - f.lo) * 2 ^ f.lo)

/-- The reset value that a register's table gives (00 R10): an IMG field holds zero; TG_PMC_3_SEL is fixed at 3 (18 R523);
only bits 0 to 11 of the feature vector are offered (16 R453). -/
def Reg.rst (r : Reg) : Word :=
  match r with
  | .tgPmcSel 3 => 3
  | .hlFeatOffer 0 => 0xFFF
  | .hlFeatOffer _ => 0
  | r => BitVec.ofNat 64 (r.info.fields.foldl (fun a f => a + f.rst * 2 ^ f.lo) 0)

/-- The last value written to a register, or its reset value. -/
def Dev.rd (d : Dev) (r : Reg) : Word := tget r.rst r d.regs

/-- The register set to a value. -/
def Dev.wr (r : Reg) (w : Word) (d : Dev) : Dev := { d with regs := tset r w d.regs }

/-- A field of a register. -/
def Dev.fld (d : Dev) (r : Reg) (f : Fld) : Nat := f.get (d.rd r)

/-- A one-bit field as a Boolean. -/
def Dev.flag (d : Dev) (r : Reg) (f : Fld) : Bool := d.fld r f != 0

/-- A field of a register set, the register's other bits kept. -/
def Dev.setFld (r : Reg) (f : Fld) (n : Nat) (d : Dev) : Dev := d.wr r (f.put n (d.rd r))

/-- The value of a register in force: the one held back by an effect point not yet reached, else the last written (00 R11,
15 R432). -/
def Dev.live (d : Dev) (r : Reg) : Word := tget (d.rd r) r d.held

/-- A field of the value in force. -/
def Dev.lfld (d : Dev) (r : Reg) (f : Fld) : Nat := f.get (d.live r)

/-- A field that counts and stops at its largest value. -/
def Dev.bump (r : Reg) (f : Fld) (n : Nat) (d : Dev) : Dev :=
  d.setFld r f (satAdd (f.hi + 1 - f.lo) (d.fld r f) n)

/-- A field that counts and wraps. -/
def Dev.bumpWrap (r : Reg) (f : Fld) (n : Nat) (d : Dev) : Dev := d.setFld r f (d.fld r f + n)

/-- The written values of every register with effect point `e` come into force. -/
def Dev.reach (e : Effect) (d : Dev) : Dev := { d with held := d.held.filter (fun p => p.1.info.eff != e) }

/-- The written value of one register comes into force. -/
def Dev.reachReg (r : Reg) (d : Dev) : Dev := { d with held := d.held.filter (fun p => p.1 != r) }

/-- Something leaves the package. -/
def Dev.emit (o : Out) (d : Dev) : Dev := { d with out := d.out ++ [o] }

/-! ## Counting -/

/-- Adds `n` to every counter of a block whose selected event is `ev` (18 R523). -/
def countAt (sel val : Nat → Reg) (ev n : Nat) (k : Nat) (d : Dev) : Dev :=
  (List.range k).foldl (fun d j =>
    if d.lfld (sel j) ⟨7, 0⟩ = ev then d.setFld (val j) ⟨47, 0⟩ (d.fld (val j) ⟨47, 0⟩ + n) else d) d

/-- An event of a fabric die. -/
def Dev.countFb (die ev n : Nat) (d : Dev) : Dev := countAt (.fbPmcSel die) (.fbPmcValue die) ev n 32 d

/-- An event of a cove. -/
def Dev.countCv (v ev n : Nat) (d : Dev) : Dev := countAt (.cvPmcSel v) (.cvPmcValue v) ev n 8 d

/-- An event of the processor die. -/
def Dev.countCn (ev n : Nat) (d : Dev) : Dev := countAt .cnPmcSel .cnPmcValue ev n 16 d

/-- An event of the tide gate. -/
def Dev.countTg (ev n : Nat) (d : Dev) : Dev := countAt .tgPmcSel .tgPmcValue ev n 4 d

/-! ## Cores and their numbers (01) -/

/-- The physical core of a logical core (01 R15). -/
def Dev.phys (d : Dev) (c : Nat) : Nat := d.fld (.glLog2phys c) F.glLog2phys_PHYS

/-- N, the number of logical cores (01 R15). -/
def Dev.nCores (d : Dev) : Nat := d.fld .glCoreCount F.glCoreCount_LOGICAL

/-- Whether a physical core is fenced. -/
def Dev.physFenced (d : Dev) (p : Nat) : Bool := bit (d.rd (.glUnitFenced (p / 64))).toNat (p % 64)

/-- Whether a physical core is enabled by the unit map. -/
def Dev.physEnabled (d : Dev) (p : Nat) : Bool := bit (d.rd (.glUnitEnable (p / 64))).toNat (p % 64)

/-- Whether logical core `c` is fenced. -/
def Dev.coreFenced (d : Dev) (c : Nat) : Bool := d.physFenced (d.phys c)

/-- The cove under which logical core `c` lies (01 R14). -/
def Dev.coveOf (d : Dev) (c : Nat) : Nat := d.phys c / 6

/-- The quarter of logical core `c` (01 R14). -/
def Dev.quarterOf (d : Dev) (c : Nat) : Nat := d.phys c / 48

/-- The quarter of cove `v` (01 R14). -/
def coveQuarter (v : Nat) : Nat := v / 8

/-- A logical core's stores and vector state. -/
def Dev.core (d : Dev) (c : Nat) : Core := tget {} c d.cores

/-- The logical core changed. -/
def Dev.setCore (c : Nat) (x : Core) (d : Dev) : Dev := { d with cores := tset c x d.cores }

/-- A control core's registers. -/
def Dev.cc (d : Dev) (k : Nat) : CtlCore := tget {} k d.ccs

/-- The control core changed. -/
def Dev.setCc (k : Nat) (x : CtlCore) (d : Dev) : Dev := { d with ccs := tset k x d.ccs }

/-- A queue. -/
def Dev.queue (d : Dev) (q : Nat) : Queue := tget {} q d.queues

/-- The queue changed. -/
def Dev.setQueue (q : Nat) (x : Queue) (d : Dev) : Dev := { d with queues := tset q x d.queues }

/-- A plant port's frames and positions. -/
def Dev.plant (d : Dev) (p : Nat) : Plant := tget {} p d.plants

/-- The plant port changed. -/
def Dev.setPlant (p : Nat) (x : Plant) (d : Dev) : Dev := { d with plants := tset p x d.plants }

/-- An event of a core; the counters of a fenced core stand still (18 R524). -/
def Dev.countCore (c ev n : Nat) (d : Dev) : Dev :=
  if d.coreFenced c then d else countAt (.corePmcSel c) (.corePmcValue c) ev n 8 d

/-- Feature `b` is in force: in the locked vector, or bit 0 before there is one (16 R453). -/
def Dev.feat (d : Dev) (b : Nat) : Bool :=
  if d.flag .hlFeatCtl F.hlFeatCtl_LOCKED then bit (d.rd (.hlFeatAccept (b / 64))).toNat (b % 64) else b == 0

/-! ## Package time (02 R40) -/

/-- Whole nanoseconds of package time, 64 bits. -/
def Dev.ns (d : Dev) : Nat := d.ptime / 2 ^ 49 % 2 ^ 64

/-- The 16-bit fraction of a nanosecond. -/
def Dev.nsFrac (d : Dev) : Nat := d.ptime / 2 ^ 33 % 2 ^ 16

/-- One nanosecond in the units of `ptime`. -/
def nsUnit : Nat := 2 ^ 49

/-! ## Events and choices (17 R496, 18 R513, R514) -/

/-- SOURCE of a colophon entry: unit kind and index (17, table of SOURCE unit kinds). -/
def source (kind index : Nat) : Nat := kind * 4096 + index

/-- The tide count an entry records: zero before lock (17 R507). -/
def Dev.logTide (d : Dev) : Word := if d.fld .tgStatus F.tgStatus_STATE < 2 then 0 else d.tide.count

/-- An event passes into the custodian's pending queue of 64; one that finds it full is counted (17 R496). -/
def Dev.pushCust (e : CustEv) (d : Dev) : Dev :=
  if d.custQ.length < 64 then
    { d with custQ := d.custQ ++ [e] }.setFld .glErrStatus F.glErrStatus_PENDING (d.custQ.length + 1)
  else { d with custLost := d.custLost + 1 }.bump .glErrStatus F.glErrStatus_OVF 1

/-- An event with its colophon code, source and data, and whether the custodian raises vector 0 for it. -/
def Dev.event (src code : Nat) (data : Nat) (irq : Bool) (d : Dev) : Dev :=
  d.pushCust ⟨d.logTide, d.ns, src, code, BitVec.ofNat 64 data, irq, none⟩

/-- A bit choice with its cause (18 R513). -/
def Dev.choiceBit (cause : Nat) (d : Dev) : Dev :=
  (d.bumpWrap .cnChoiceBit F.cnChoiceBit_COUNT 1).setFld .cnChoiceBit F.cnChoiceBit_LAST cause

/-- A time choice with its cause (18 R514). -/
def Dev.choiceTime (cause : Nat) (d : Dev) : Dev :=
  (d.bumpWrap .cnChoiceTime F.cnChoiceTime_COUNT 1).setFld .cnChoiceTime F.cnChoiceTime_LAST cause

/-- MSI-X vector 0 (16 R450). -/
def Dev.irq (d : Dev) : Dev := d.emit (.msix 0)

/-- A health summary is due within 10 ms (20 R565). -/
def Dev.healthDue (d : Dev) : Dev := { d with mgmt := { d.mgmt with due := true } }

/-! ## Signal counters (09 R246, R249) -/

/-- The value of a signal counter. -/
def Dev.sig (d : Dev) (n : Nat) : Nat := d.fld (.cqSig n) F.cqSig_VALUE

/-- Adds to a signal counter, modulo 2³². -/
def Dev.sigAdd (n k : Nat) (d : Dev) : Dev := d.setFld (.cqSig n) F.cqSig_VALUE (d.sig n + k)

/-- The GE test of R246: the difference, read as a signed 32-bit number, is zero or positive. -/
def geTest (value thr : Nat) : Bool := (value + 2 ^ 32 - thr % 2 ^ 32) % 2 ^ 32 < 2 ^ 31

/-- A control core's pending interrupt of the tide gate (08, cause 19) is set on every control core. -/
def Dev.allTideIrq (d : Dev) : Dev :=
  (List.range 48).foldl (fun d k => d.setCc k { d.cc k with tide := true }) d

/-- The pending supply interrupt (08, cause 17) is set on every control core. -/
def Dev.allSupplyIrq (d : Dev) : Dev :=
  (List.range 48).foldl (fun d k => d.setCc k { d.cc k with supply := true }) d

/-! ## Core store -/

/-- The size of a core store in bytes (01, contents of one core). -/
def coreStoreSize : Nat := 6291456

/-- Bytes of a core store. -/
def Dev.csRead (d : Dev) (c a n : Nat) : List Byte := Mem.read (d.core c).store a n

/-- A little-endian number of a core store. -/
def Dev.csNum (d : Dev) (c a n : Nat) : Nat := ofBytes (d.csRead c a n)

/-- Bytes written to a core store; a whole aligned word clears an uncorrectable mark (10 R285). -/
def Dev.csWrite (c a : Nat) (bs : List Byte) (d : Dev) : Dev :=
  { d.setCore c { d.core c with store := Mem.write a bs (d.core c).store } with
    badWords := d.badWords.filter
      (fun w => !(w.kind == 2 && w.unit == c && decide (a ≤ w.addr) && decide (w.addr + 8 ≤ a + bs.length))) }

/-! ## Commands -/

/-- The answer of a command: the package changed, the queue of waiting commands as it was. -/
def State.upd (s : State) (f : Dev → Dev) : Host.Outcome State Fault Refusal := .next { s with dev := f s.dev }

end Sys2Proof.Machine
end

