-- ==== Sys2Proof/Machine/Store.lean ====
section
/-! DEFINITION. Memory: the physical address map (16 R439 to R441), placement in coves (10 R270, R272), the far tier (10 R306),
translation (10 R301, R302), the rack windows (12 R335 to R354), uncorrectable words (10 R285), copy-on-write for folios
(19 R531, R537, R540). Every store of the package goes through `Dev.store`. -/

namespace Sys2Proof.Machine

/-! ## The address map -/

/-- What a physical address names (16 R439). -/
inductive Place where
  | stack (a : Nat)
  | far (off : Nat)
  | rack (slot off : Nat)
  | ctl (off : Nat)
  | nowhere
  deriving DecidableEq, Repr

/-- The size of stacked memory, 1,152 GiB. -/
def stackSize : Nat := 0x12000000000
/-- The base and size of the far-tier window. -/
def farBase : Nat := 0x100000000000
/-- 4 TiB. -/
def winSize : Nat := 0x40000000000
/-- The base of the remote windows. -/
def rackBase : Nat := 0x10000000000000
/-- The base of control space. -/
def ctlBase : Nat := 0xF0000000000000
/-- The size of control space. -/
def ctlSize : Nat := 0x40000000

/-- 16 R440: the address whose bits 55:52 a compact field holds in bits 51:48. -/
def expandPa (p : Nat) : Nat := p / 2 ^ 48 % 16 * 2 ^ 52 + p % 2 ^ 48

/-- The far-tier set that covers a window offset (10 R306). -/
def Dev.farSet (d : Dev) (off : Nat) : Option Nat :=
  (List.range 4).find? (fun n =>
    let b := d.fld (.ftSet n) F.ftSet_BASE * 2 ^ 30
    let z := d.fld (.ftSet n) F.ftSet_SIZE * 2 ^ 30
    decide (0 < z) && decide (b ≤ off) && decide (off < b + z))

/-- The ports of a far-tier set. -/
def Dev.farPorts (d : Dev) (n : Nat) : List Nat :=
  (List.range (2 ^ d.fld (.ftSet n) F.ftSet_WAYS)).map (fun w => bits (d.fld (.ftSet n) F.ftSet_ORDER) (2 * w + 1) (2 * w))

/-- The 4 KiB granule of set `n` that a window offset lies in (10 R306, j). -/
def Dev.farGranule (d : Dev) (n off : Nat) : Nat := (off - d.fld (.ftSet n) F.ftSet_BASE * 2 ^ 30) / 4096

/-- The port that serves a window offset of set `n`. -/
def Dev.farPort (d : Dev) (n off : Nat) : Nat := (d.farPorts n).getD (d.farGranule n off % (d.farPorts n).length) 0

/-- The address on that port's device (10 R306). -/
def Dev.farDevice (d : Dev) (n off : Nat) : Nat := d.farGranule n off / (d.farPorts n).length * 4096 + off % 4096

/-- Where a physical address lies; a range whose feature is not in force is unmapped (16 R453), as is a far-tier offset outside
every set (10 R307). -/
def Dev.locate (d : Dev) (a : Nat) : Place :=
  if a < stackSize then .stack a
  else if farBase ≤ a ∧ a < farBase + winSize then
    (if d.feat 3 && (d.farSet (a - farBase)).isSome then .far (a - farBase) else .nowhere)
  else if rackBase ≤ a ∧ a < rackBase + 64 * winSize then
    (if d.feat 4 then .rack ((a - rackBase) / winSize) ((a - rackBase) % winSize) else .nowhere)
  else if ctlBase ≤ a ∧ a < ctlBase + ctlSize then .ctl (a - ctlBase)
  else .nowhere

/-- S of 10 R272, in force since the image load (R271). -/
def Dev.localSize (d : Dev) : Nat := d.lfld .glMemMap F.glMemMap_LOCAL * 0x200000

/-- LBASE of 10 R272. -/
def Dev.lbase (d : Dev) : Nat := stackSize - 32 * d.localSize

/-- The nine hash bits of 10 R270: cove in bits 4:0, channel in bits 8:5. -/
def hashSel (hset pa : Nat) : Nat :=
  if hset = 0 then (bits pa 16 8 ^^^ bits pa 25 17 ^^^ bits pa 34 26) ^^^ bits pa 35 35 else bits pa 16 8

/-- The cove that owns a stacked address (10 R270, R272). -/
def Dev.cove (d : Dev) (pa : Nat) : Nat :=
  if pa < d.lbase then hashSel (d.lfld .glMemMap F.glMemMap_HSET) pa % 32
  else (pa - d.lbase) / d.localSize

/-- The channel of a stacked address within its cove. -/
def Dev.chan (d : Dev) (pa : Nat) : Nat :=
  if pa < d.lbase then hashSel (d.lfld .glMemMap F.glMemMap_HSET) pa / 32
  else bits ((pa - d.lbase) % d.localSize) 11 8

/-- The byte address within the channel that 10 R270 gives a hashed address. -/
def hashCaddr (pa : Nat) : Nat := bits pa 40 17 * 256 + pa % 256

/-- The byte address of a stacked address within its channel (10 R270, R272). -/
def Dev.caddr (d : Dev) (pa : Nat) : Nat :=
  if pa < d.lbase then hashCaddr pa
  else
    let r := (pa - d.lbase) % d.localSize
    d.lbase / 512 + (r / 4096 * 256 + r % 256)

/-- The cove that caches a far-tier line (10 R274). -/
def farCove (a : Nat) : Nat := hashSel 0 a % 32

/-- The cove whose cache may hold the line of an address (10 R274). -/
def Dev.lineCove (d : Dev) (a : Nat) : Nat := if a < stackSize then d.cove a else farCove a

/-- The set of that cache in which the line lies (log entry 34). -/
def Dev.lineSet (d : Dev) (a : Nat) : Nat :=
  if a < stackSize then (d.caddr a / 64 * 16 + d.chan a) % 32768 else (hashCaddr a / 64 * 16 + hashSel 0 a / 32) % 32768

/-! ## Reading -/

/-- A byte of stacked memory as its cove serves it: `mem` holds that value, and a dirty line of `cache` what stands below it. -/
def Dev.memByte (d : Dev) (a : Nat) : Byte := Mem.get d.mem a

/-- Bytes of stacked memory. -/
def Dev.memRead (d : Dev) (a n : Nat) : List Byte := (addrs a n).map d.memByte

/-- A byte of the far tier, by window offset, as its cove serves it. -/
def Dev.farByte (d : Dev) (o : Nat) : Byte := Mem.get d.far o

/-- Bytes at a physical address of stacked memory or the far tier; zeros elsewhere. -/
def Dev.physRead (d : Dev) (a n : Nat) : List Byte :=
  match d.locate a with
  | .stack _ => d.memRead a n
  | .far o => (addrs o n).map d.farByte
  | _ => zeros n

/-- A little-endian number at a physical address. -/
def Dev.physNum (d : Dev) (a n : Nat) : Nat := ofBytes (d.physRead a n)

/-- The uncorrectable words that `n` bytes at physical address `a` touch. -/
def Dev.badIn (d : Dev) (a n : Nat) : List BadWord :=
  d.badWords.filter (fun w => (w.kind == 0 || w.kind == 1 || w.kind == 3 || w.kind == 4) && decide (w.addr < a + n) &&
    decide (a < w.addr + 8))

/-- The uncorrectable words that `n` bytes at offset `a` of core `c`'s store touch. -/
def Dev.badCs (d : Dev) (c a n : Nat) : List BadWord :=
  d.badWords.filter (fun w => w.kind == 2 && w.unit == c && decide (w.addr < a + n) && decide (a < w.addr + 8))

/-- 10 R285: an uncorrectable word found by a read: counted in its cove, recorded and logged. `kind` is the storage it is
reported under (4: stack interface after retries). -/
def Dev.uncorr (w : BadWord) (d : Dev) : Dev :=
  let d := d.setFld .glErrStatus F.glErrStatus_UNCORR_EV 1
  match w.kind with
  | 2 => d.event (source 1 (d.phys w.unit)) 0x41 (w.addr + 2 * 2 ^ 52) true
  | 3 => d.event (source 7 (match d.farSet (w.addr - farBase) with
      | some n => d.farPort n (w.addr - farBase)
      | none => 0)) 0x41 (w.addr + 3 * 2 ^ 52) true
  | 5 => d.event (source 1 (d.phys w.unit)) 0x41 (w.addr + 5 * 2 ^ 52) true
  | 6 => d.event (source 1 (d.phys w.unit)) 0x41 (w.addr + 6 * 2 ^ 52) true
  | k =>
    let v := d.lineCove w.addr
    (((d.bump (.cvEcc v) F.cvEcc_UNCORR 1).setFld (.cvEccAddr v) F.cvEccAddr_ADDR w.addr).setFld
      (.cvEccAddr v) F.cvEccAddr_SRC k).event (source 2 v) 0x41 (w.addr + k * 2 ^ 52) true

/-- Every uncorrectable word of a list is reported once. -/
def Dev.uncorrAll (ws : List BadWord) (d : Dev) : Dev := ws.foldl (fun d w => d.uncorr w) d

/-! ## The cove caches (10 R274 to R279) -/

/-- The class (0 urgent, 1 normal, 2 bulk) and the hint of an access, as its source gives them (10 R279). -/
structure Access where
  cls : Nat
  hint : Nat
  deriving DecidableEq, Repr

/-- The 64-byte lines that `n` bytes at `a` touch. -/
def linesOf (a n : Nat) : List Nat := (List.range ((a + n + 63) / 64 - a / 64)).map (fun j => (a / 64 + j) * 64)

/-- The bytes below a line: those of the stack or the far tier are put back as last written (10 R278). -/
def Dev.putBack (l : Nat) (bs : List Byte) (d : Dev) : Dev :=
  match d.locate l with
  | .stack a => { d with mem := Mem.write a bs d.mem }
  | .far o => { d with far := Mem.write o bs d.far }
  | _ => d

/-- Two lines lie in one set of one cache. -/
def Dev.sameSet (d : Dev) (l m : Nat) : Bool := d.lineCove l == d.lineCove m && d.lineSet l == d.lineSet m

/-- The cached lines of a line's set. -/
def Dev.setLines (d : Dev) (l : Nat) : List Line := d.cache.filter (fun y => d.sameSet l y.addr)

/-- R276: the set of a line has room for one more protected line. -/
def Dev.keepRoom (d : Dev) (l : Nat) : Bool :=
  decide (((d.setLines l).filter (fun y => y.keep && y.addr != l)).length < d.fld (.cvHintQuota (d.lineCove l)) F.cvHintQuota_KEEP_WAYS)

/-- A line is dirty from now on: what stands below it is what stood in it, if it was clean. -/
def Dev.below (d : Dev) (l : Nat) (write : Bool) (old : Option (List Byte)) : Option (List Byte) :=
  match old, write with
  | some bs, _ => some bs
  | none, true => some (d.physRead l 64)
  | none, false => none

/-- R276: a set of 16 lines gives one up that is not protected; which one is a free choice (log entry 34). -/
def Dev.evict (l : Nat) (d : Dev) : Dev :=
  if (d.setLines l).length < 16 then d
  else
    let ys := (d.setLines l).filter (fun y => !y.keep)
    let y := ys.getD (Config.freeIndex d.free l % ys.length) ⟨l, false, none⟩
    { d with cache := d.cache.filter (fun z => z.addr != y.addr), free := d.free + 1 }

/-- A line becomes the most recently used, protected if it was or if a KEEP access finds room (R276). -/
def Dev.useLine (x : Access) (write : Bool) (l : Nat) (keep : Bool) (old : Option (List Byte)) (d : Dev) : Dev :=
  let k := keep || (x.hint == 2 && d.keepRoom l)
  let y : Line := ⟨l, k, d.below l write old⟩
  let d := { d with cache := y :: d.cache.filter (fun z => z.addr != l) }
  if x.hint = 2 ∧ !k then d.countCv (d.lineCove l) 7 1 else d

/-- R275, R277: one line of an access; `whole` says that the access covers it. A write comes before its bytes are stored, a read after
they have been returned. -/
def Dev.touchLine (x : Access) (write whole : Bool) (l : Nat) (d : Dev) : Dev :=
  let v := d.lineCove l
  let d := d.countCv v (if write then 2 else 1) 1
  match d.cache.find? (fun y => y.addr == l) with
  | some y =>
    let d := d.countCv v 3 1
    if x.hint = 3 ∧ !write then
      if whole then
        let d : Dev := match y.old with
          | some bs => d.putBack l bs
          | none => d
        { d with cache := d.cache.filter (fun z => z.addr != l) }.countCv v 8 1
      else d
    else if x.hint = 1 then
      { d with cache := d.cache.map (fun z => if z.addr = l then { z with old := d.below l write z.old } else z) }
    else d.useLine x write l y.keep y.old
  | none =>
    let d := d.countCv v 4 1
    if x.hint = 1 ∨ (x.hint = 3 ∧ !write) then d else (d.evict l).useLine x write l false none

/-- R274 to R279: an access of `n` bytes at a physical address goes through the caches of the coves that own its lines. -/
def Dev.touch (x : Access) (write : Bool) (a n : Nat) (d : Dev) : Dev :=
  match d.locate a with
  | .stack _ | .far _ =>
    if n = 0 then d
    else
      let d := if x.cls = 0 then d.countCv (d.lineCove a) 5 1 else d
      (linesOf a n).foldl (fun d l => d.touchLine x write (decide (a ≤ l) && decide (l + 64 ≤ a + n)) l) d
  | _ => d

/-- R276: a lower quota of cove `v` takes the protection of the least recently used lines of each set; `seen` are the lines before, the
last one first. -/
def Dev.trimFrom (d : Dev) (v : Nat) : List Line → List Line → List Line
  | _, [] => []
  | seen, y :: t =>
    let n := (seen.filter (fun z => z.keep && d.sameSet y.addr z.addr)).length
    let k := y.keep && (d.lineCove y.addr != v || decide (n < d.fld (.cvHintQuota v) F.cvHintQuota_KEEP_WAYS))
    let y := { y with keep := k }
    y :: d.trimFrom v (y :: seen) t

/-- R276: the protected lines of cove `v` after a change of its quota. -/
def Dev.trimKeep (v : Nat) (d : Dev) : Dev := { d with cache := d.trimFrom v [] d.cache }

/-! ## Folio geometry (19 R528 to R532) -/

/-- The rack slots of the folio group in rank order. -/
def Dev.folioSlots (d : Dev) : List Nat :=
  (List.range 64).filter (fun s => bit (d.rd .glFolioMembers).toNat s)

/-- G, the number of members. -/
def Dev.folioG (d : Dev) : Nat := d.folioSlots.length

/-- This package's rack slot. -/
def Dev.slot (d : Dev) : Nat := d.fld .fbTorusId F.fbTorusId_SLOT

/-- This package's rank. -/
def Dev.rank (d : Dev) : Nat := d.folioSlots.idxOf d.slot

/-- Leaves of region `n`. -/
def Dev.regLeaves (d : Dev) (n : Nat) : Nat := d.fld (.glFolioReg n) F.glFolioReg_LEAVES

/-- Base address of region `n`. -/
def Dev.regBase (d : Dev) (n : Nat) : Nat := d.fld (.glFolioReg n) F.glFolioReg_BASE * 65536

/-- L, the leaves of this member's folio data (R530). -/
def Dev.folioL (d : Dev) : Nat := (List.range 16).foldl (fun a n => a + d.regLeaves n) 11

/-- T, its stripe rows (R531). -/
def Dev.folioT (d : Dev) : Nat := (d.folioL + (d.folioG - 2) - 1) / (d.folioG - 2)

/-- HS, the bytes of one half of the reserve (R532). -/
def Dev.folioHS (d : Dev) : Nat := 65536 * (d.folioG * d.folioT + 1)

/-- The leaf that holds a stacked address in a folio region, from region `n` on with `j` leaves before it. -/
def Dev.leafFrom (d : Dev) (a : Nat) : List Nat → Nat → Option Nat
  | [], _ => none
  | n :: t, j =>
    if d.regBase n ≤ a ∧ a < d.regBase n + d.regLeaves n * 65536 then some (j + (a - d.regBase n) / 65536)
    else d.leafFrom a t (j + d.regLeaves n)

/-- The leaf of a stacked address, if a folio region holds it. -/
def Dev.leafOf (d : Dev) (a : Nat) : Option Nat := d.leafFrom a (List.range 16) 11

/-- The address of leaf `j`, from region `n` on. -/
def Dev.leafAddrFrom (d : Dev) : List Nat → Nat → Option Nat
  | [], _ => none
  | n :: t, j => if j < d.regLeaves n then some (d.regBase n + j * 65536) else d.leafAddrFrom t (j - d.regLeaves n)

/-- The address of leaf `j`, 11 or more. -/
def Dev.leafAddr (d : Dev) (j : Nat) : Option Nat := if j < 11 then none else d.leafAddrFrom (List.range 16) (j - 11)

/-- The content of leaf `j`: of the captured header or of memory. -/
def Dev.leafCells (d : Dev) (j : Nat) : List Host.Cell :=
  match d.leafAddr j with
  | some a => Mem.cut d.mem a 65536
  | none => Mem.cut d.folio.header (j * 65536) 65536

/-- Multiplication by 2 in GF(2⁸) with polynomial 0x11D (R531). -/
def gfDouble (b : Byte) : Byte := (b <<< 1) ^^^ (if b.getLsbD 7 then 0x1D else 0)

/-- Multiplication by 2^k. -/
def gfPow : Nat → Byte → Byte
  | 0, b => b
  | k + 1, b => gfPow k (gfDouble b)

/-- The base of half `h` of this member's reserve. -/
def Dev.reserveAt (d : Dev) (h : Nat) : Nat := expandPa (d.fld .glFolioCfg F.glFolioCfg_RBASE * 65536) + h * d.folioHS

/-- Sparse bytes over a range of stacked memory or the far tier, as the address says. -/
def Dev.pastePhys (a n : Nat) (cells : List Host.Cell) (d : Dev) : Dev :=
  match d.locate a with
  | .stack a => { d with mem := Mem.paste d.mem a n cells }
  | .far o => { d with far := Mem.paste d.far o n cells }
  | _ => d

/-- A leaf of row (own rank, t) goes to the member of rank `k` in half `h`: own reserve, or over VC1 with 256 sequence numbers
(R532, R533). -/
def Dev.putLeaf (k t : Nat) (cells : List Host.Cell) (d : Dev) : Dev :=
  let off := (d.rank * d.folioT + t) * 65536
  let slot := d.folioSlots.getD k 0
  if k = d.rank then d.pastePhys (d.reserveAt d.folio.half + off) 65536 cells
  else
    let n := (tget 0 slot d.fabric.seqTx + 256) % 2 ^ 32
    { d with
      fabric := { d.fabric with seqTx := tset slot n d.fabric.seqTx }
      folio := { d.folio with sent := tset slot n d.folio.sent } }.emit (.folioLeaf slot (d.folio.half * d.folioHS + off) cells)

/-- R540: leaf `j` is read and written into the reserve half; when it is the last of its row, the zeros of the positions beyond
leaf L − 1, P and Q follow (R531). -/
def Dev.copyLeaf (x : Access) (j : Nat) (d : Dev) : Dev :=
  let d := match d.leafAddr j with
    | some a => d.touch x false a 65536
    | none => d
  let G := d.folioG
  let t := j / (G - 2)
  let k := j % (G - 2)
  let cells := d.leafCells j
  let r := d.rank
  let d := d.putLeaf ((r + 1 + k) % G) t cells
  let (p, q, n) := tget ([], [], 0) t d.folio.par
  let p := Mem.xor p cells
  let q := Mem.xor q (cells.map (fun c => (c.1, gfPow k c.2)))
  let rowLen := min (G - 2) (d.folioL - t * (G - 2))
  let d := { d with folio := { d.folio with copied := j :: d.folio.copied } }.bumpWrap .glFolioProg F.glFolioProg_COPIED 1
  if n + 1 < rowLen then { d with folio := { d.folio with par := tset t (p, q, n + 1) d.folio.par } }
  else
    let d := { d with folio := { d.folio with par := tdel t d.folio.par } }
    let d := ((List.range (G - 2)).drop rowLen).foldl (fun d k => d.putLeaf ((r + 1 + k) % G) t []) d
    (d.putLeaf ((r + G - 1) % G) t p).putLeaf r t q

/-- R537: a store that would change an uncopied leaf of a folio under way. -/
def Dev.cowLeaf (d : Dev) (a : Nat) : Option Nat :=
  if d.fld .glFolioStatus F.glFolioStatus_STATE = 2 then
    match d.leafOf a with
    | some j => if d.folio.copied.contains j then none else some j
    | none => none
  else none

/-- R542: the folio under way is abandoned: copying stops, no store stays held, the half stays invalid; the other members are told
where this member abandons of itself. One that has not reached its folio point still takes its GEN. -/
def Dev.folioAbandon (cause : Nat) (tell : Bool) (d : Dev) : Dev :=
  if d.fld .glFolioStatus F.glFolioStatus_STATE = 0 ∨ d.fld .glFolioStatus F.glFolioStatus_STATE = 4 then d
  else
    let n := if d.fld .glFolioStatus F.glFolioStatus_STATE = 1 then 1 else 0
    let d := { d with folio := { d.folio with gen := d.folio.gen + n } }
    let d := { d with folio := { d.folio with requested := none, copied := [], par := [], sent := [], genWait := [] } }
    let d := ((d.setFld .glFolioStatus F.glFolioStatus_STATE 0).setFld .glFolioStatus F.glFolioStatus_LAST 2).setFld
      .glFolioStatus F.glFolioStatus_CAUSE cause
    if tell then d.emit (.folioAbandon d.folio.gen cause) else d

/-- R540, R542: leaf `j` is copied, unless it holds an uncorrectable word, which abandons the folio. The class
and hint are those of 10 R279: bulk for the background copy, urgent for a store that waits. -/
def Dev.takeLeaf (x : Access) (j : Nat) (d : Dev) : Dev :=
  match d.leafAddr j with
  | some b => if (d.badIn b 65536).isEmpty then d.copyLeaf x j else (d.uncorrAll (d.badIn b 65536)).folioAbandon 3 true
  | none => d.copyLeaf x j

/-- R538: a store to an uncopied leaf waits while its leaf is copied at urgent priority: in one step, the leaf first. -/
def Dev.holdFor (a : Nat) (d : Dev) : Dev :=
  match d.cowLeaf a with
  | none => d
  | some j => (d.bump .glFolioProg F.glFolioProg_HELD 1).takeLeaf ⟨0, 1⟩ j

/-! ## Writing -/

/-- Bytes written to stacked memory, after the hold of R537: a whole aligned word clears an uncorrectable mark (10
R285). -/
def Dev.storeStack (a : Nat) (bs : List Byte) (d : Dev) : Dev :=
  let d := d.holdFor a
  let d := if a / 65536 = (a + bs.length - 1) / 65536 then d else d.holdFor (a + bs.length - 1)
  { d with
    mem := Mem.write a bs d.mem
    badWords := d.badWords.filter (fun w => !((w.kind == 0 || w.kind == 1 || w.kind == 4) && decide (a ≤ w.addr) && decide (w.addr + 8 ≤ a + bs.length))) }

/-- Bytes written to the far tier. -/
def Dev.storeFar (o : Nat) (bs : List Byte) (d : Dev) : Dev :=
  { d with
    far := Mem.write o bs d.far
    badWords := d.badWords.filter (fun w => !((w.kind == 1 || w.kind == 3 || w.kind == 4) && decide (farBase + o ≤ w.addr) && decide (w.addr + 8 ≤ farBase + o + bs.length))) }

/-- Uncorrectable words that a write of `n` bytes covers only in part (10 R285, partial write). -/
def Dev.badPart (d : Dev) (a n : Nat) : List BadWord :=
  (d.badIn a n).filter (fun w => !(decide (a ≤ w.addr) && decide (w.addr + 8 ≤ a + n)))

/-! ## The rack windows (12) -/

/-- The physical address that a window offset reaches at its target (12 R336). -/
def windowAddr (o : Nat) : Option Nat :=
  if o < stackSize then some o
  else if 0x20000000000 ≤ o ∧ o < 0x40000000000 then some (farBase + (o - 0x20000000000))
  else none

/-- 12 R335: rack slot `s` holds a package of the machine. -/
def Dev.slotPresent (d : Dev) (s : Nat) : Bool :=
  let x := d.fld .fbTorusId F.fbTorusId_X / 4 * 4 + s % 4
  let y := d.fld .fbTorusId F.fbTorusId_Y / 4 * 4 + s / 4 % 4
  let z := d.fld .fbTorusId F.fbTorusId_Z / 4 * 4 + s / 16
  decide (x < d.fld .fbTorusId F.fbTorusId_DX) && decide (y < d.fld .fbTorusId F.fbTorusId_DY) &&
    decide (z < d.fld .fbTorusId F.fbTorusId_DZ)

/-- 12 R354: slot `s` is declared dead. -/
def Dev.slotDead (d : Dev) (s : Nat) : Bool := bit (d.rd .fbPeerDead).toNat s

/-- 12 R348: the rack-plane path of an access before any failure. -/
def pathOf (q o : Nat) : Nat := bits o 10 8 ^^^ bits o 13 11 ^^^ bits o 16 14 ^^^ bits o 19 17 ^^^ q % 8

/-- Whether rack-plane path `p` is up: port 6 + p mod 4 of the west die for paths 0 to 3, of the east die for 4 to 7. -/
def Dev.pathUp (d : Dev) (p : Nat) : Bool := d.flag (.fbPort (p / 4) (6 + p % 4)) F.fbPort_UP

/-- 12 R349: the path a packet takes: the formula's, or the next path up in ascending order modulo 8. -/
def Dev.pathFor (d : Dev) (o : Nat) : Option Nat :=
  let p := pathOf d.slot o
  ((List.range 8).map (fun j => (p + j) % 8)).find? d.pathUp

/-- The die that counts an access to offset `o`. -/
def Dev.dieFor (d : Dev) (o : Nat) : Nat := ((d.pathFor o).getD (pathOf d.slot o)) / 4

/-- 12 R340: the import entry for `n` bytes at offset `o` of slot `s`: the lowest index in use whose range holds them all. -/
def Dev.importFor (d : Dev) (s o n : Nat) : Option Nat :=
  d.regs.foldl (fun (a : Option Nat) p => match p.1 with
    | .fbImpCtl k =>
      let ctl := p.2
      let base := d.fld (.fbImpRange k) F.fbImpRange_BASE * 4096
      let size := d.fld (.fbImpRange k) F.fbImpRange_SIZE * 4096
      if F.fbImpCtl_EN.get ctl = 1 ∧ F.fbImpCtl_SLOT.get ctl = s ∧ base ≤ o ∧ o + n ≤ base + size then
        (match a with
         | some j => some (min j k)
         | none => some k)
      else a
    | _ => a) none

/-- 12 R341: this package accepts an access of `n` bytes at window offset `o` (`need`: 0 load, 1 store, 2 atomic). -/
def Dev.exportOk (d : Dev) (region key o n need : Nat) : Bool :=
  let k := region % 4096
  let e := d.rd (.fbExpKey k)
  let base := d.fld (.fbExpRange k) F.fbExpRange_BASE * 4096
  let size := d.fld (.fbExpRange k) F.fbExpRange_SIZE * 4096
  decide (F.fbExpKey_EN.get e = 1) && decide (F.fbExpKey_GEN.get e = region / 4096 % 16) &&
    decide (F.fbExpKey_KEY.get e = key) && decide (base ≤ o) && decide (o + n ≤ base + size) &&
    decide ((match need with
      | 0 => F.fbExpKey_R.get e
      | 1 => F.fbExpKey_W.get e
      | _ => F.fbExpKey_A.get e) = 1)

/-- A rejected access is counted (12 R341). -/
def Dev.keyRej (die : Nat) (d : Dev) : Dev :=
  ((d.bump (.fbMpStatus die) F.fbMpStatus_KEY_REJ 1).setFld (.fbMpStatus die) F.fbMpStatus_REJ_EV 1).countFb die 0x54 1

/-- The next sequence number to a destination (12 R350). -/
def Dev.nextSeq (d : Dev) (s : Nat) : Nat := (tget 0 s d.fabric.seqTx + 1) % 2 ^ 32

/-- Who issues an access: the owner of its tracker where it is remote, and its class and hint where 10 R279 gives it any. -/
structure Issuer where
  queue : Option Nat := none
  cc : Option Nat := none
  core : Option Nat := none
  acc : Option Access := none
  deriving DecidableEq, Repr

/-- The die of a tracker: that of its path, or of the path its packet would take. -/
def Tracker.die (t : Tracker) (slot : Nat) : Nat := (if t.path < 8 then t.path else pathOf slot t.pkt.off) / 4

/-- R352: a die's 8,192 trackers are all held. -/
def Dev.trackersFull (d : Dev) (die : Nat) : Bool :=
  decide (8192 ≤ (d.fabric.trackers.filter (fun t => !t.stalled && t.die d.slot == die)).length)

/-- R352: the oldest access of a die that stalls gets the tracker that has been freed, and leaves. -/
def Dev.unstall (die : Nat) (d : Dev) : Dev :=
  match d.fabric.trackers.find? (fun t => t.stalled && t.die d.slot == die) with
  | none => d
  | some t =>
    if d.trackersFull die then d
    else
      let ts := d.fabric.trackers.map (fun (x : Tracker) => if x.id = t.id then { x with stalled := false } else x)
      let d := { d with fabric := { d.fabric with trackers := ts } }
      if t.path < 8 then d.emit (.packet t.dst t.pkt) else d

/-- R352: `n` trackers of each die have been freed. -/
def Dev.unstalls (n : Nat) (d : Dev) : Dev := (List.range n).foldl (fun d _ => (d.unstall 0).unstall 1) d

/-- A packet leaves on the rack plane with a tracker, or stalls while its die has none free; writes and atomics take a sequence number
(12 R348, R350, R352). -/
def Dev.sendMp (s o region key : Nat) (kind : MpKind) (seq : Bool) (fetch : Bool) (who : Issuer) (d : Dev) : Dev :=
  let n := d.nextSeq s
  let pkt : MpPacket := ⟨d.slot, if seq then n else d.fabric.nextId, region, key, o, kind, false⟩
  let path := d.pathFor o
  let full := d.trackersFull (d.dieFor o) || d.fabric.trackers.any (fun t => t.stalled && t.die d.slot == d.dieFor o)
  let t : Tracker :=
    ⟨d.fabric.nextId, s, if seq then some n else none, who.queue, who.cc, fetch, who.core, pkt, path.getD 8, full⟩
  let d := { d with fabric := { d.fabric with
    seqTx := if seq then tset s n d.fabric.seqTx else d.fabric.seqTx
    trackers := d.fabric.trackers ++ [t]
    nextId := d.fabric.nextId + 1 } }
  let d := d.countFb (d.dieFor o) (match kind with
    | .read _ => 0x50
    | .write _ => 0x51
    | .atomic _ _ _ => 0x52) 1
  if path.isSome && !full then d.emit (.packet s pkt) else d

/-- A store to this package's own memory at a physical address, through the cove's cache. -/
def Dev.storeHere (x : Option Access) (a : Nat) (bs : List Byte) (d : Dev) : Dev :=
  let d := match x with
    | some x => d.touch x true a bs.length
    | none => d
  match d.locate a with
  | .stack a => d.storeStack a bs
  | .far f => d.storeFar f bs
  | _ => d

/-- The bytes that a mask lets through, as runs from address `a` on (12 R337). -/
def runsOf (a : Nat) : List (Option Byte) → List (Nat × List Byte)
  | [] => []
  | none :: t => runsOf (a + 1) t
  | some b :: t =>
    match t, runsOf (a + 1) t with
    | some _ :: _, (_, bs) :: r => (a, b :: bs) :: r
    | _, r => (a, [b]) :: r

/-- R337, R339: a masked store at a target's own memory, by window offset; a remote access is of the normal class with hint NORMAL. -/
def Dev.storeWindow (o : Nat) (bs : List (Option Byte)) (d : Dev) : Dev :=
  match windowAddr o with
  | some a => (runsOf a bs).foldl (fun d r => d.storeHere (some ⟨1, 0⟩) r.1 r.2) d
  | none => d

/-- The whole words that masked bytes at offset `o` touch: first offset and bytes (12 R337). -/
def wordPad (o : Nat) (bs : List (Option Byte)) : Nat × List (Option Byte) :=
  let n := o % 8 + bs.length
  (o / 8 * 8, List.replicate (o % 8) none ++ bs ++ List.replicate ((n + 7) / 8 * 8 - n) none)

/-- 12 R336, R337, R340, R354: one masked store within one 256-byte unit of a rack window, carried over whole words. -/
def Dev.rackStore (s o' : Nat) (bs' : List (Option Byte)) (who : Issuer) (d : Dev) : Dev :=
  let (o, bs) := wordPad o' bs'
  let die := d.dieFor o
  match d.importFor s o bs.length with
  | none => d.bump (.fbMpStatus die) F.fbMpStatus_IMP_MISS 1
  | some k =>
    let key := d.fld (.fbImpKey k) F.fbImpKey_KEY
    let region := d.fld (.fbImpKey k) F.fbImpKey_REGION
    if d.slotDead s then d.bump (.fbMpStatus die) F.fbMpStatus_DROPPED 1
    else if s = d.slot then
      (if d.exportOk region key o bs.length 1 then d.storeWindow o bs else d.keyRej die)
    else d.sendMp s o region key (.write bs) true false who

/-- Bytes cut at 256-byte unit boundaries, with fuel for the number of units. -/
def unitsOf : Nat → Nat → List Byte → List (Nat × List Byte)
  | 0, _, _ => []
  | n + 1, a, bs =>
    if bs.isEmpty then []
    else
      let k := 256 - a % 256
      (a, bs.take k) :: unitsOf n (a + k) (bs.drop k)

/-- A store at a physical address, whoever issues it: stacked memory, far tier or a rack window. Elsewhere nothing is stored. -/
def Dev.store (a : Nat) (bs : List Byte) (who : Issuer) (d : Dev) : Dev :=
  match d.locate a with
  | .stack _ | .far _ => d.storeHere who.acc a bs
  | .rack s o => (unitsOf (bs.length / 256 + 2) o bs).foldl (fun d u => d.rackStore s u.1 (u.2.map some) who) d
  | _ => d

/-- One write of a command. -/
def Dev.applyWr (who : Issuer) (d : Dev) (w : Wr) : Dev :=
  match w.sp with
  | .core c => d.csWrite c w.addr w.data
  | .phys => d.store w.addr w.data who

/-- The writes of one unit of re-execution, in order. -/
def Dev.applyUnit (who : Issuer) (u : List Wr) (d : Dev) : Dev := u.foldl (Dev.applyWr who) d

/-- Several units. -/
def Dev.applyUnits (who : Issuer) (us : List (List Wr)) (d : Dev) : Dev := us.foldl (fun d u => d.applyUnit who u) d

/-! ## Atomics (12 R344 to R346) -/

/-- The word an atomic leaves, by its operation code. -/
def atomicNew (op old opa opb : Nat) : Nat :=
  match op % 8, op with
  | _, 0xC => opa
  | _, 0xD => if old = opa then opb else old
  | 0, _ => (old + opa) % 2 ^ 64
  | 1, _ => (f64.add 0 old opa).code
  | 2, _ => if sval 64 opa < sval 64 old then opa else old
  | 3, _ => if sval 64 old < sval 64 opa then opa else old
  | _, _ => old

/-- R344: the operation codes in use. -/
def atomicOk (op : Nat) : Bool := decide (op ≤ 3) || (decide (8 ≤ op) && decide (op ≤ 0xD))

/-- R344: the operation returns the old word. -/
def atomicFetches (op : Nat) : Bool := decide (8 ≤ op)

/-- An atomic on the aligned word at a physical address of this package; the new memory and the old word. -/
def Dev.atomicAt (a op opa opb : Nat) (d : Dev) : Dev × Nat :=
  let old := d.physNum a 8
  (d.store a (bytesOf 8 (atomicNew op old opa opb)) {}, old)

/-- 18 R513 cause 1, 12 R347: an atomic on a line that an atomic of another issuer reached in this tide cycle is a bit choice.
Issuers: 0 to 63 rack slots, 64 + k control cores. -/
def Dev.lineChoice (a issuer : Nat) (d : Dev) : Dev :=
  let line := a / 64
  let other := d.fabric.lineAtoms.any (fun p => p.1 == line && p.2 != issuer)
  let known := d.fabric.lineAtoms.contains (line, issuer)
  let d := { d with fabric := { d.fabric with
    lineAtoms := if known then d.fabric.lineAtoms else d.fabric.lineAtoms ++ [(line, issuer)] } }
  if other then d.choiceBit 1 else d

/-! ## Translation (10 R301, R302) -/

/-- A leaf entry: physical address of the byte, W, X, U, HINT. -/
structure Leaf where
  pa : Nat
  w : Bool
  x : Bool
  u : Bool
  hint : Nat
  deriving DecidableEq, Repr

/-- The walk from level `4 − n` with table address `tbl`; the error is the cause of 10 R298. -/
def Dev.walkFrom (d : Dev) (va : Nat) : Nat → Nat → Except Nat Leaf
  | 0, _ => .error 1
  | n + 1, tbl =>
    let shift := 12 + 9 * n
    let ea := tbl + 8 * (va / 2 ^ shift % 512)
    match d.locate ea with
    | .stack _ | .far _ =>
      let e := d.physNum ea 8
      let pa := expandPa (bits e 51 12 * 4096)
      let t := bit e 1
      if !bit e 0 then .error 0
      else if bits e 11 8 != 0 || bits e 63 52 != 0 then .error 1
      else if t then
        (if n = 0 || (n = 1 && !bit e 5) then .error 1 else d.walkFrom va n pa)
      else if n = 3 || pa % 2 ^ shift != 0 then .error 1
      else .ok ⟨pa + va % 2 ^ shift, bit e 2, bit e 3, bit e 4, bits e 7 6⟩
    | _ => .error 4

/-- The translation of a virtual address from a root register's value. -/
def Dev.walk (d : Dev) (root va : Nat) : Except Nat Leaf :=
  if 2 ^ 48 ≤ va then .error 4 else d.walkFrom va 4 (expandPa root)

/-- The physical addresses of the entries that the walk of `walkFrom` reads. -/
def Dev.entriesFrom (d : Dev) (va : Nat) : Nat → Nat → List Nat
  | 0, _ => []
  | n + 1, tbl =>
    let ea := tbl + 8 * (va / 2 ^ (12 + 9 * n) % 512)
    match d.locate ea with
    | .stack _ | .far _ =>
      let e := d.physNum ea 8
      ea :: (if bit e 0 && bit e 1 && bits e 11 8 == 0 && bits e 63 52 == 0 && (n == 2 || n == 3 || (n == 1 && bit e 5))
        then d.entriesFrom va n (expandPa (bits e 51 12 * 4096)) else [])
    | _ => []

/-- The physical addresses of the entries that a translation reads (10 R301). -/
def Dev.entries (d : Dev) (root va : Nat) : List Nat := if 2 ^ 48 ≤ va then [] else d.entriesFrom va 4 (expandPa root)

/-- 10 R303: the root in a core's register, which a command keeps from its start. -/
def Dev.rootOf (d : Dev) (c : Nat) : Nat := bits (d.rd (.coreXlatRoot c)).toNat 51 12 * 4096

/-- A mover, fabric or plant-port access with the root of its command: translated as a job-mode access (10 R302, R303, R361). The error
is the cause of R298; `write` asks for W. -/
def Dev.xlate (d : Dev) (root va : Nat) (write : Bool) : Except Nat Nat :=
  match d.walk root va with
  | .error e => .error e
  | .ok l =>
    if !l.u then .error 3
    else if write && !l.w then .error 2
    else match d.locate l.pa with
      | .stack _ | .far _ => .ok l.pa
      | .rack s o => if d.slotPresent s && (windowAddr o).isSome then .ok l.pa else .error 4
      | _ => .error 4

/-- Whether a physical address lies in a far-tier set one of whose ports is down (10 R308): the first such port. -/
def Dev.farDown (d : Dev) (a : Nat) : Option Nat :=
  match d.locate a with
  | .far o => match d.farSet o with
    | some n => (d.farPorts n).find? (fun p => !d.flag (.ftPort p) F.ftPort_UP)
    | none => none
  | _ => none

/-- 10 R308: an access to a set with a port down is logged and recorded. -/
def Dev.farDownEvent (p : Nat) (d : Dev) : Dev :=
  (d.setFld (.ftPort p) F.ftPort_DOWN_EV 1).event (source 7 p) 0x70 0 false

end Sys2Proof.Machine
end

