-- ==== Sys2Proof/Machine/Time.lean ====
section
/-! DEFINITION. The passing of time: the processor-die clock, package time (02 R40, R41), the tide count between events
(02 R43 to R47, R61), and the small facts of the tide gate that every chapter asks for. -/

namespace Sys2Proof.Machine

/-- TG_STATUS.STATE: 0 UNLOCKED, 1 ACQUIRE, 2 LOCKED, 3 COAST, 4 STOP. -/
def Dev.tideState (d : Dev) : Nat := d.fld .tgStatus F.tgStatus_STATE

/-- TG_SRC_CFG.SRC: 0 ENCODER, 1 MAINS, 2 PTP, 3 SYNTH, 4 FREE, 5 RELAY. -/
def Dev.tideSrc (d : Dev) : Nat := d.fld .tgSrcCfg F.tgSrcCfg_SRC

/-- The position within the cycle, 48.16 (02, pseudocode of the tide cycle). -/
def Dev.tidePos (d : Dev) : Nat := (d.tide.count - d.tide.cycStart).toNat

/-- The length of the cycle, 48.16. -/
def Dev.tideLen (d : Dev) : Nat := d.tide.len * 65536

/-- The tide gate changed. -/
def Dev.setTide (t : Tide) (d : Dev) : Dev := { d with tide := t }

/-- Units of package time in 20 µs, the floor of R47. -/
def floor20 : Nat := 20000 * 2 ^ 49

/-- R43, R568: the measured rate as counts (units of 2⁻¹⁶) per processor-die cycle, a fraction: the mean of the last 8 intervals. Of
fewer than 8 the mean of those there are; before the first interval the programmed rate of PTP and SYNTH, and 0 of the other sources
(DESIGN CHOICE, log entry 56). The PLL of MAINS runs at M counts per mains cycle. -/
def Dev.tideRate (d : Dev) : Nat × Nat :=
  let t := d.tide
  let rate := d.lfld .tgSrcRate F.tgSrcRate_RATE
  let mean : Nat × Nat := (65536 * t.ivals.length, max 1 (t.ivals.foldl (· + ·) 0))
  match d.tideSrc with
  | 0 => if t.ivals.isEmpty then (0, 1) else mean
  | 1 => if t.mainsPeriod = 0 then (0, 1) else (65536 * rate, t.mainsPeriod)
  | 2 => if t.ivals.isEmpty then (65536 * rate, 2000000000) else mean
  | 3 => if t.ivals.isEmpty then (rate, 65536) else mean
  | 5 => if t.relayRate = 0 then (0, 1) else (65536 * 8, t.relayRate)
  | _ => (0, 1)

/-- The tide count set to `c` if that is ahead of it (R36: it never decreases), but to no further than the cycle's end, where the next
cycle begins; an end reached within 20 µs of the cycle's start holds it there (R47). -/
def Dev.tideTo (c : Word) (d : Dev) : Dev :=
  let t := d.tide
  let p := (c - t.cycStart).toNat
  if t.hold || decide (p ≤ d.tidePos) || decide (2 ^ 63 ≤ p) then d
  else if d.tideLen ≤ p then
    d.setTide { t with count := t.cycStart + BitVec.ofNat 64 d.tideLen, hold := decide (d.ptime < t.cycAt + floor20) }
  else d.setTide { t with count := c }

/-- R39: the count of network time, 48.16, at package time `d.ptime`: zero before PTP_EPOCH. -/
def Dev.ptpCount (d : Dev) : Word :=
  match d.tide.epoch with
  | some e =>
    BitVec.ofInt 64
      (((d.ptime : Int) - e) * (d.lfld .tgSrcRate F.tgSrcRate_RATE * 65536 : Nat) / ((1000000000 * 2 ^ 49 : Nat) : Int))
  | none => 0

/-- The count to which the source has come at the present instant (R43; R39; R61 in coast). -/
def Dev.tideNow (d : Dev) : Word :=
  let t := d.tide
  let rate := d.tideRate
  if d.tideState = 3 then
    t.coastBase + BitVec.ofNat 64 ((d.cycle - t.coastAt) * t.coastNum / t.coastDen)
  else match d.tideSrc with
  | 0 =>
    if t.debt = 0 then
      t.src + t.offset + BitVec.ofNat 64 (min 0xFFFF ((d.cycle - t.fracAt) * rate.1 / rate.2))
    else t.count
  | 1 =>
    t.src + t.offset + BitVec.ofNat 64
      (min (65536 * d.lfld .tgSrcRate F.tgSrcRate_RATE - 1) ((d.cycle - t.mainsAt) * rate.1 / rate.2))
  | 2 => if t.epoch.isSome then t.offset + d.ptpCount else t.count
  | 3 => t.offset + BitVec.ofNat 64 (t.synth / 65536)
  | 5 => t.relayBase + t.offset + BitVec.ofNat 64 ((d.cycle - t.relayAt) * rate.1 / rate.2)
  | _ => t.count

/-- Units in which a source without edges of its own advances, per processor-die cycle, and how many make one count: the internal
rate (2⁻³² counts) and, for network time, package time. -/
def Dev.selfRate (d : Dev) : Nat :=
  match d.tideSrc with
  | 3 => d.lfld .tgSrcRate F.tgSrcRate_RATE
  | 2 => ((2 ^ 48 : Int) + sval 40 (d.fld .tgPtimeAdj F.tgPtimeAdj_ADJ)).toNat
  | _ => 0

/-- Where such a source stands, in those units. -/
def Dev.selfAt (d : Dev) : Nat :=
  match d.tideSrc with
  | 3 => d.tide.synth
  | _ => d.ptime

/-- Where such a source stands at its whole count `j`. -/
def Dev.selfMark (d : Dev) (j : Nat) : Nat :=
  match d.tideSrc with
  | 3 => j * 2 ^ 32
  | _ =>
    let r := max 1 (d.lfld .tgSrcRate F.tgSrcRate_RATE)
    d.tide.epoch.getD 0 + (j * 1000000000 * 2 ^ 49 + r - 1) / r

/-- Whole source counts that the internal or network-time source has produced. -/
def Dev.wholeCounts (d : Dev) : Nat :=
  match d.tideSrc with
  | 3 => d.tide.synth / 2 ^ 32
  | 2 =>
    (match d.tide.epoch with
     | some e => (d.ptime - e) * d.lfld .tgSrcRate F.tgSrcRate_RATE / (1000000000 * 2 ^ 49)
     | none => 0)
  | _ => 0

/-- R568: a source count arrived at processor-die cycle `at'`. -/
def Tide.arrive (at' : Nat) (t : Tide) : Tide :=
  { t with
    ivals := if t.anySeen then ((at' - t.lastAt) :: t.ivals).take 8 else t.ivals
    lastAt := at', lastAny := at', anySeen := true, arrived := t.arrived + 1 }

/-- R568: the source counts `n + 1` to `n + k` of a source without edges arrive during the cycles that follow `d`, each at the cycle
in which the source reaches it. Of more than 9 only the times of the last 9 are of use. -/
def Dev.arrivals (d : Dev) (n k : Nat) (t : Tide) : Tide :=
  let at' (j : Nat) : Nat := d.cycle + (d.selfMark j - d.selfAt + d.selfRate - 1) / max 1 d.selfRate
  let js := (List.range (min k 9)).map (fun i => n + k - min k 9 + 1 + i)
  let t := js.foldl (fun t j => t.arrive (at' j)) t
  { t with arrived := t.arrived + (k - min k 9) }

/-- `dt` processor-die cycles pass: the cycle count, package time at its corrected rate, the internal source and the source counts
that arrive, and the tide count where the tide is locked or coasts. In the last coast cycle it halts at the cycle end (R62). -/
def Dev.pass (dt : Nat) (d : Dev) : Dev :=
  let adj := sval 40 (d.fld .tgPtimeAdj F.tgPtimeAdj_ADJ)
  let e := { d with
    cycle := d.cycle + dt
    ptime := (d.ptime + (dt * ((2 ^ 48 : Int) + adj)).toNat) % 2 ^ 113
    tide := { d.tide with
      synth := if d.tideSrc = 3 ∧ d.tideState ≠ 0 then d.tide.synth + dt * d.lfld .tgSrcRate F.tgSrcRate_RATE
               else d.tide.synth } }
  let n := d.wholeCounts
  let e := if n < e.wholeCounts then (e.setTide (d.arrivals n (e.wholeCounts - n) e.tide)).countTg 4 (e.wholeCounts - n) else e
  if e.tideState = 2 then e.tideTo e.tideNow
  else if e.tideState = 3 then
    let c := e.tideNow
    if e.tide.coastLeft ≤ 1 ∧ e.tideLen ≤ (c - e.tide.cycStart).toNat then
      e.setTide { e.tide with count := e.tide.cycStart + BitVec.ofNat 64 e.tideLen }
    else e.tideTo c
  else e

/-- The processor-die cycles after which package time is 20 µs past the start of the cycle (R47). -/
def Dev.floorLeft (d : Dev) : Nat :=
  let r := ((2 ^ 48 : Int) + sval 40 (d.fld .tgPtimeAdj F.tgPtimeAdj_ADJ)).toNat
  (d.tide.cycAt + floor20 - d.ptime + r - 1) / max 1 r

/-- `dt` processor-die cycles pass. A cycle end that the tide reaches before the floor of R47 holds it even if the floor passes within
`dt`: the last instant before the floor is looked at. -/
def Dev.elapse (dt : Nat) (d : Dev) : Dev :=
  let k := d.floorLeft
  if 0 < k ∧ k ≤ dt then (d.pass (k - 1)).pass (dt - (k - 1)) else d.pass dt

/-- The offset of mark `n` within the cycle, 48.16. -/
def Dev.markOff (d : Dev) (n : Nat) : Nat :=
  d.lfld (.tgMark n) F.tgMark_WHOLE * 65536 + d.lfld (.tgMark n) F.tgMark_FRAC

/-- R54: the mark is one that fires: enabled, with an offset below L. -/
def Dev.markOn (d : Dev) (n : Nat) : Bool :=
  d.lfld (.tgMark n) F.tgMark_EN == 1 && decide (d.markOff n < d.tideLen)

/-- Phase entries in use (02, Phases). -/
def Dev.phasesInUse (d : Dev) : List Nat := List.range (d.lfld .tgCtl F.tgCtl_NPHASE)

/-- The starting mark of a phase entry. -/
def Dev.phaseMark (d : Dev) (e : Nat) : Nat := d.lfld (.tgPhase e) F.tgPhase_MARK

/-- R569: the entry qualifies at lock: its starting mark is enabled with an offset below L. -/
def Dev.phaseOk (d : Dev) (e : Nat) : Bool := d.markOn (d.phaseMark e)

/-- The kind of the phase in force: 0 FLOOD, 1 EBB, 2 SLACK, 3 OPEN; SLACK while none is (R569). -/
def Dev.phaseKind (d : Dev) : Nat := d.fld .tgStatus F.tgStatus_KIND

/-- R26, R49: the phase in force gates the engine of agent kind `k` (0 surrogate, 1 solver). -/
def Dev.gates (d : Dev) (k : Nat) : Bool :=
  match k with
  | 0 => d.phaseKind == 0 || d.phaseKind == 2
  | 1 => d.phaseKind == 1 || d.phaseKind == 2
  | _ => false

end Sys2Proof.Machine
end

