-- ==== Sys2Proof/Machine/QueueOps.lean ====
section
/-! DEFINITION. Command queues (09): reading descriptors, waits, the choice of the agent's next command, starting a command and
completing it, loops and replays, draining. The rows of each agent use these. -/

namespace Sys2Proof.Machine

/-! ## Descriptors (09 R245) -/

/-- Word `j` of a list of words, as a number. -/
def wd (ws : List Word) (j : Nat) : Nat := (ws.getD j 0).toNat

/-- ROUTINE. -/
def dRtn (ws : List Word) : Nat := bits (wd ws 0) 15 0
/-- PBLK. -/
def dPblk (ws : List Word) : Nat := bits (wd ws 0) 24 16
/-- CREC. -/
def dCrec (ws : List Word) : Nat := bits (wd ws 0) 29 28
/-- ERRCONT. -/
def dErrcont (ws : List Word) : Bool := bit (wd ws 0) 30
/-- SIGCTR. -/
def dSigctr (ws : List Word) : Nat := bits (wd ws 0) 47 32
/-- SIGINC. -/
def dSiginc (ws : List Word) : Nat := bits (wd ws 0) 63 48
/-- MARK. -/
def dMark (ws : List Word) : Nat := bits (wd ws 1) 7 0
/-- MWAIT. -/
def dMwait (ws : List Word) : Bool := bit (wd ws 1) 8
/-- WA_MODE. -/
def dWaMode (ws : List Word) : Nat := bits (wd ws 1) 17 16
/-- WB_MODE. -/
def dWbMode (ws : List Word) : Nat := bits (wd ws 1) 19 18
/-- WA_CTR. -/
def dWaCtr (ws : List Word) : Nat := bits (wd ws 1) 47 32
/-- WB_CTR. -/
def dWbCtr (ws : List Word) : Nat := bits (wd ws 1) 63 48
/-- WA_THR. -/
def dWaThr (ws : List Word) : Nat := bits (wd ws 2) 31 0
/-- WB_THR. -/
def dWbThr (ws : List Word) : Nat := bits (wd ws 2) 63 32
/-- ARGj. -/
def dArg (ws : List Word) (j : Nat) : Nat := wd ws (4 + j)

/-- R245, R570: a non-zero reserved field or an unused encoding of the descriptor's own fields. -/
def descBad (ws : List Word) : Bool :=
  bits (wd ws 0) 27 25 != 0 || bit (wd ws 0) 31 || dCrec ws == 3 || bits (wd ws 1) 15 9 != 0 || bits (wd ws 1) 31 20 != 0 ||
    dWaMode ws == 3 || dWbMode ws == 3 || wd ws 3 != 0

/-! ## Status codes used by several chapters (09 R269) -/

/-- OK. -/
def stOk : Nat := 0
/-- ABORTED. -/
def stAborted : Nat := 1
/-- FAILED. -/
def stFailed : Nat := 2
/-- ROUTINE_INVALID. -/
def stRoutineInvalid : Nat := 0x10
/-- ROUTINE_ABSENT. -/
def stRoutineAbsent : Nat := 0x11
/-- DESC_INVALID. -/
def stDescInvalid : Nat := 0x12
/-- DESC_ALIGN. -/
def stDescAlign : Nat := 0x100
/-- BOUNDS. -/
def stBounds : Nat := 0x101
/-- OVERLAP. -/
def stOverlap : Nat := 0x102
/-- ADDR_FAULT. -/
def stAddrFault : Nat := 0x103
/-- MEM_UNCORR. -/
def stMemUncorr : Nat := 0x501

/-! ## The queue and its ring -/

/-- CQ_BIND.KIND. -/
def Dev.qKind (d : Dev) (q : Nat) : Nat := d.fld (.cqBind q) F.cqBind_KIND
/-- CQ_BIND.TARGET. -/
def Dev.qTarget (d : Dev) (q : Nat) : Nat := d.fld (.cqBind q) F.cqBind_TARGET
/-- R256: the home core; for an engine or mover queue, its core. -/
def Dev.qHome (d : Dev) (q : Nat) : Nat := if d.qKind q ≤ 4 then d.qTarget q else d.fld (.cqBind q) F.cqBind_HOME
/-- CQ_BIND.PRIO. -/
def Dev.qPrio (d : Dev) (q : Nat) : Nat := d.fld (.cqBind q) F.cqBind_PRIO
/-- CQ_BIND.CCORE. -/
def Dev.qCcore (d : Dev) (q : Nat) : Nat := d.fld (.cqBind q) F.cqBind_CCORE
/-- The accepted TAIL. -/
def Dev.qTail (d : Dev) (q : Nat) : Nat := d.fld (.cqDoorbell q) F.cqDoorbell_TAIL
/-- Ring size in descriptors. -/
def Dev.ringSize (d : Dev) (q : Nat) : Nat := 2 ^ d.fld (.cqRing q) F.cqRing_LOG2SIZE
/-- Ring base address. -/
def Dev.ringBase (d : Dev) (q : Nat) : Nat := expandPa (d.fld (.cqRing q) F.cqRing_BASE * 64)

/-- The free-running difference of two 32-bit counts. -/
def diff32 (a b : Nat) : Nat := (a + 2 ^ 32 - b % 2 ^ 32) % 2 ^ 32

/-- The 8 words of the descriptor at a physical address. -/
def Dev.descAt (d : Dev) (a : Nat) : List Word := (List.range 8).map (fun j => BitVec.ofNat 64 (d.physNum (a + 8 * j) 8))

/-- The descriptor of ring position `p`. -/
def Dev.ringDesc (d : Dev) (q p : Nat) : List Word := d.descAt (d.ringBase q + 64 * (p % d.ringSize q))

/-- Descriptors of the ring from position `p` that a doorbell has made ready. -/
def Dev.avail (d : Dev) (q p : Nat) : Nat := diff32 (d.qTail q) p

/-- The descriptor the queue is at, whether or not it skips: of the open replay, or of the ring if one is ready. -/
def Dev.descHere (d : Dev) (q : Nat) : Option (List Word) :=
  let x := d.queue q
  match x.replay with
  | some r => some (d.descAt (r.addr + 64 + 64 * r.idx))
  | none => if d.avail q x.pos = 0 then none else some (d.ringDesc q x.pos)

/-- R264: a `cq.record`, `cq.endrec` or `cq.replay` that a skip reaches while its body is being recorded (R261) is refused there
(log entry 60). -/
def Queue.refuses (x : Queue) (rtn : Nat) : Bool :=
  match x.rcd with
  | some r => x.replay.isNone && decide (diff32 r.next x.pos = 0) && (rtn == 5 || rtn == 6 || rtn == 7)
  | none => false

/-- The head descriptor: while a zero-count loop is being skipped, only one that the open recording refuses. -/
def Dev.headDesc (d : Dev) (q : Nat) : Option (List Word) :=
  if (d.queue q).skip = 0 then d.descHere q
  else (d.descHere q).filter (fun ws => (d.queue q).refuses (dRtn ws))

/-- R243: the slot that a command started now holds until it completes: its own, or that of the outermost loop of the ring that is open
or is being skipped. -/
def Queue.slotNow (x : Queue) : Nat :=
  match (x.loops.reverse.find? (fun l => l.replay.isNone)) with
  | some l => diff32 l.pos 1
  | none => if x.skip = 0 then x.pos else x.skipAt.getD x.pos

/-- HEAD (R241, R243): slots released. -/
def Dev.qHead (d : Dev) (q : Nat) : Nat :=
  let x := d.queue q
  match x.runs with
  | r :: _ => r.slot
  | [] => x.slotNow

/-- CQ_STATUS.STATE as read. -/
def Dev.qState (d : Dev) (q : Nat) : Nat :=
  let x := d.queue q
  match x.mode with
  | .unbound => 0
  | .drain => 6
  | .error => 4
  | .stopped => if x.runs.isEmpty then 5 else 3
  | .on => if !x.runs.isEmpty then 3 else if (d.descHere q).isSome then 2 else 1

/-- Moves past the descriptor the queue is at. -/
def Queue.past (x : Queue) : Queue :=
  match x.replay with
  | some r => { x with replay := if r.idx + 1 < r.count then some { r with idx := r.idx + 1 } else none }
  | none => { x with pos := (x.pos + 1) % 2 ^ 32 }

/-- R243, R259, R260: passes over the body of a zero-count loop as far as descriptors are ready, and copied where a recording is
open (R261), with fuel. -/
def Dev.skipRun (q : Nat) : Nat → Dev → Dev
  | 0, d => d
  | n + 1, d =>
    let x := d.queue q
    if x.skip = 0 then d
    else match d.descHere q with
    | none => d
    | some ws =>
      let held := match x.rcd with
        | some r => decide (diff32 r.next x.pos = 0)
        | none => false
      if held then d
      else
        let x' := { x.past with skip := if dRtn ws = 3 then x.skip + 1 else if dRtn ws = 4 then x.skip - 1 else x.skip }
        Dev.skipRun q n (d.setQueue q x')

/-- Fuel for a skip: a ring and a segment. -/
def skipFuel : Nat := 12400

/-- R513 cause 3: a command with a mark wait becomes the head after its mark has fired in the current cycle. -/
def Dev.noteHead (q : Nat) (d : Dev) : Dev :=
  let x := d.queue q
  if x.seen then d
  else match d.headDesc q with
  | none => d
  | some ws =>
    let d := d.setQueue q { x with seen := true }
    if dMwait ws && !x.markOk && d.tide.fired.contains (dMark ws) then d.choiceBit 3 else d

/-- R247: a mark satisfies the mark wait of every queue whose head names it. -/
def Dev.releaseMark (m : Nat) (d : Dev) : Dev :=
  d.queues.foldl (fun d p =>
    match d.headDesc p.1 with
    | some ws =>
      if dMwait ws && dMark ws == m then
        d.setQueue p.1 { d.queue p.1 with markOk := true }
      else d
    | none => d) d

/-! ## Starting (09 R237, R246 to R248, R252, R257, R570) -/

/-- R246: a counter wait is satisfied. -/
def Dev.waitOk (d : Dev) (mode ctr thr : Nat) : Bool :=
  match mode with
  | 1 => geTest (d.sig ctr) thr
  | 2 => decide (thr ≤ d.sig ctr)
  | _ => true

/-- The mark wait and both counter waits of a head descriptor. -/
def Dev.waitsOk (d : Dev) (q : Nat) (ws : List Word) : Bool :=
  (!dMwait ws || (d.queue q).markOk) && d.waitOk (dWaMode ws) (dWaCtr ws) (dWaThr ws) &&
    d.waitOk (dWbMode ws) (dWbCtr ws) (dWbThr ws)

/-- R261, R264: an open recording lets the head start: copied and EXEC 1, or a record, endrec or replay. -/
def Queue.recLets (x : Queue) (rtn : Nat) : Bool :=
  match x.rcd with
  | none => true
  | some r => if rtn == 5 || rtn == 6 || rtn == 7 then true else r.exec && decide (diff32 r.next x.pos ≠ 0)

/-- A `cq.` command acts in the front end (R237). -/
def isCq (rtn : Nat) : Bool := decide (rtn ≤ 0xFF)

/-- 10 R290: at stack throttle step 4 the engines and the vector engine of the six cores are stopped, and their commands frozen. -/
def Dev.thermHeld (d : Dev) (q : Nat) : Bool :=
  decide (d.qKind q ≤ 2) && d.fld (.cvTherm (d.coveOf (d.qTarget q))) F.cvTherm_STEP == 4

/-- R52, 10 R290: a running command is frozen. -/
def Dev.frozenRun (d : Dev) (q : Nat) (r : Run) : Bool :=
  r.frozen || (d.thermHeld q && !isCq (dRtn r.desc) && dRtn r.desc != 0x900)

/-- R52, R488, 08 R230: a frozen or re-executing command, or a call whose `ccdone` has not come, holds everything behind it. -/
def Dev.holding (d : Dev) (q : Nat) : Bool :=
  (d.queue q).runs.any (fun r => d.frozenRun q r || r.retrying || (dRtn r.desc == 0x800 && !r.done))

/-- The head descriptor with its waits satisfied, in a queue that may start a command (R248: WAIT or RUN). -/
def Dev.readyDesc (d : Dev) (q : Nat) : Option (List Word) :=
  let x := d.queue q
  if x.mode = .on ∧ !d.holding q then
    match d.headDesc q with
    | some ws => if d.waitsOk q ws && x.recLets (dRtn ws) then some ws else none
    | none => none
  else none

/-- R235, R236: the routine names a command that agent kind `k` accepts; bank routines are resolved at the start. -/
def namesCommand (k rtn : Nat) : Bool :=
  (decide (1 ≤ rtn) && decide (rtn ≤ 7)) || (rtn == 8 && decide (k ≤ 4)) || (rtn == 0x900 && decide (k ≤ 4)) ||
  (match k with
   | 0 => rtn == 0x210 || rtn == 0x211
   | 1 => (decide (0x300 ≤ rtn) && decide (rtn ≤ 0x3FF)) || decide (0x8000 ≤ rtn)
   | 2 => (decide (0x400 ≤ rtn) && decide (rtn ≤ 0x4FF)) || decide (0x8000 ≤ rtn)
   | 3 | 4 => (decide (0x100 ≤ rtn) && decide (rtn ≤ 0x103)) || rtn == 0x140 || rtn == 0x141
   | 5 => decide (0x500 ≤ rtn) && decide (rtn ≤ 0x502)
   | 6 => (decide (0x600 ≤ rtn) && decide (rtn ≤ 0x603)) || (decide (0x610 ≤ rtn) && decide (rtn ≤ 0x614))
   | 7 => rtn == 0x700 || rtn == 0x701
   | 8 => rtn == 0x800 || rtn == 0xA00 || rtn == 0xA01
   | _ => false)

/-- R267: identifiers resolved against the active bank. -/
def bankRoutine (k rtn : Nat) : Bool :=
  (k == 1 && ((decide (0x305 ≤ rtn) && decide (rtn ≤ 0x3FF)) || decide (0x8000 ≤ rtn))) ||
    (k == 2 && ((decide (0x400 ≤ rtn) && decide (rtn ≤ 0x4FF)) || decide (0x8000 ≤ rtn)))

/-- The entry (routine, engine kind, offset) of a routine in the active bank's directory of core `c`. -/
def Dev.bankEntry (d : Dev) (c rtn : Nat) : Option Nat :=
  let dir := tget [] (d.fld (.coreRbank c) F.coreRbank_ACTIVE) (d.core c).dirs
  (dir.find? (fun e => e.1 == rtn)).map (fun e => e.2.2)

/-- The status of the checks that precede the command's own (R570, steps 1 to 3). -/
def Dev.preStatus (d : Dev) (q : Nat) (ws : List Word) : Nat :=
  let k := d.qKind q
  let rtn := dRtn ws
  if descBad ws then stDescInvalid
  else if !namesCommand k rtn then stRoutineInvalid
  else if bankRoutine k rtn && (d.bankEntry (d.qTarget q) rtn).isNone then stRoutineAbsent
  else stOk

/-- A command of the agent, as against one of the front end (R237). -/
def Run.agent (r : Run) : Bool := !isCq (dRtn r.desc)

/-- A running agent command on the agent (kind, target), in some queue. -/
def Dev.agentBusy (d : Dev) (k t : Nat) : Bool :=
  d.queues.any (fun p => d.qKind p.1 == k && d.qTarget p.1 == t && p.2.runs.any Run.agent)

/-- R237: another queue of the agent with a ready agent command goes first. -/
def Dev.outranked (d : Dev) (q : Nat) : Bool :=
  d.queues.any (fun p =>
    p.1 != q && d.qKind p.1 == d.qKind q && d.qTarget p.1 == d.qTarget q &&
    (match d.readyDesc p.1 with
     | some ws => !isCq (dRtn ws) &&
        (decide (d.qPrio p.1 < d.qPrio q) || (d.qPrio p.1 == d.qPrio q && decide (p.1 < q)))
     | none => false))

/-- R268: some queue of core `c` has a ready `cq.swapbank`, which holds every other start on the core. -/
def Dev.swapHeld (d : Dev) (q c : Nat) : Bool :=
  d.queues.any (fun p => p.1 != q && decide (d.qKind p.1 ≤ 4) && d.qTarget p.1 == c &&
    (match d.readyDesc p.1 with
     | some ws => dRtn ws == 8 && !descBad ws
     | none => false))

/-- R504: a sounding test of the core holds the start of every command on it. -/
def Dev.soundHeld (d : Dev) (c : Nat) : Bool := (d.core c).sound.isSome

/-- A command of the core (queues of kinds 0 to 4) is running; a `core.sound` does not count (17 R506). -/
def Dev.coreRuns (d : Dev) (c : Nat) : Bool :=
  d.queues.any (fun p => decide (d.qKind p.1 ≤ 4) && d.qTarget p.1 == c &&
    p.2.runs.any (fun r => r.agent && dRtn r.desc != 0x900))

/-- A running command of the core fetches from the active bank (R268). -/
def Dev.bankRuns (d : Dev) (c : Nat) : Bool :=
  d.queues.any (fun p => d.qTarget p.1 == c && p.2.runs.any (fun r => bankRoutine (d.qKind p.1) (dRtn r.desc)))

/-- The agent may start its next command: it runs one at a time unless its chapter lets commands overlap (kinds 6 and 8), the phase
does not gate it (02 R53), the stack throttle does not stop it (10 R290), its core holds no starts, and no queue outranks this one. -/
def Dev.agentFree (d : Dev) (q : Nat) : Bool :=
  let k := d.qKind q
  let t := d.qTarget q
  (k == 6 || k == 8 || !d.agentBusy k t) && !(d.gates k && decide (k ≤ 1)) && !d.thermHeld q &&
    !(decide (k ≤ 4) && (d.soundHeld t || d.swapHeld q t)) && !d.outranked q

/-- What the TAKE waits of a descriptor take from counter `n` (R246). -/
def takesOf (ws : List Word) (n : Nat) : Nat :=
  (if dWaMode ws = 2 ∧ dWaCtr ws = n then dWaThr ws else 0) + (if dWbMode ws = 2 ∧ dWbCtr ws = n then dWbThr ws else 0)

/-- The heads of queues below `q` that take from counter `n` and may start now, in ascending queue number: what each takes. -/
def Dev.takersBelow (d : Dev) (q n : Nat) : List Nat :=
  (sortBy (fun a b => decide (a ≤ b)) ((d.queues.map (·.1)).filter (fun p => decide (p < q)))).filterMap (fun p =>
    match d.readyDesc p with
    | some ws => if takesOf ws n ≠ 0 ∧ (isCq (dRtn ws) || d.agentFree p) then some (takesOf ws n) else none
    | none => none)

/-- R249: the counter still satisfies a TAKE wait after the heads of lower queues that start before it. -/
def Dev.takeLeft (d : Dev) (q n thr : Nat) : Bool :=
  decide (thr ≤ (d.takersBelow q n).foldl (fun v t => if t ≤ v then v - t else v) (d.sig n))

/-- R249: TAKE waits on one counter start in ascending queue number. -/
def Dev.takesOk (d : Dev) (q : Nat) (ws : List Word) : Bool :=
  (dWaMode ws != 2 || d.takeLeft q (dWaCtr ws) (dWaThr ws)) && (dWbMode ws != 2 || d.takeLeft q (dWbCtr ws) (dWbThr ws))

/-- The head descriptor of queue `q` if it is a ready command with routine `rtn` that its queue's agent may start now. -/
def Dev.startable (d : Dev) (q rtn : Nat) : Option (List Word) :=
  match d.readyDesc q with
  | some ws =>
    if dRtn ws == rtn && d.preStatus q ws == stOk && (isCq rtn || d.agentFree q) && d.takesOk q ws then some ws else none
  | none => none

/-- TAKE subtractions of a starting command (R246). -/
def Dev.takes (ws : List Word) (d : Dev) : Dev :=
  let d := if dWaMode ws = 2 then d.sigAdd (dWaCtr ws) (2 ^ 32 - dWaThr ws) else d
  if dWbMode ws = 2 then d.sigAdd (dWbCtr ws) (2 ^ 32 - dWbThr ws) else d

/-- The 16 words of a parameter block of core `h` (R257). -/
def Dev.paramBlock (d : Dev) (h b : Nat) : List Word := (List.range 16).map (fun w => d.rd (.coreParam h b w))

/-- A recording's next descriptor to copy is never one the queue has passed. -/
def Rec.upTo (pos : Nat) (c : Rec) : Rec := if diff32 c.next pos < 2 ^ 31 then c else { c with next := pos }

/-- The start of a command: its serial, its TAKE waits unless it is refused by SEG_FULL, its latched block; the queue moves past
its descriptor; the run begins with status OK. -/
def Dev.beginWith (q : Nat) (ws : List Word) (take : Bool) (d : Dev) : Dev :=
  let d := if take then d.takes ws else d
  let n := (d.fld (.cqSerial q) ⟨47, 0⟩ + 1) % 2 ^ 48
  let d := d.setFld (.cqSerial q) ⟨47, 0⟩ n
  let x := d.queue q
  let r : Run := { serial := n, slot := x.slotNow, desc := ws, params := d.paramBlock (d.qHome q) (dPblk ws), root := d.rootOf (d.qHome q) }
  let y := x.past
  let d := d.setQueue q { y with
    runs := x.runs ++ [r], markOk := false, seen := false, rcd := y.rcd.map (Rec.upTo y.pos) }
  if isCq (dRtn ws) then d
  else if d.qKind q ≤ 4 then d.countCore (d.qTarget q) 0x0A 1 else d

/-- The start of a command. -/
def Dev.begin (q : Nat) (ws : List Word) (d : Dev) : Dev := d.beginWith q ws true

/-- A list with its last element changed. -/
def mapLast {α : Type} (f : α → α) : List α → List α
  | [] => []
  | [x] => [f x]
  | x :: t => x :: mapLast f t

/-- The newest run of a queue changed. -/
def Dev.setRun (q : Nat) (f : Run → Run) (d : Dev) : Dev :=
  d.setQueue q { d.queue q with runs := mapLast f (d.queue q).runs }

/-- The run with serial `n` changed. -/
def Dev.setRunN (q n : Nat) (f : Run → Run) (d : Dev) : Dev :=
  d.setQueue q { d.queue q with runs := (d.queue q).runs.map (fun r => if r.serial = n then f r else r) }

/-- The newest run of a queue. -/
def Dev.run (d : Dev) (q : Nat) : Option Run := (d.queue q).runs.getLast?

/-- The agent command that runs in a queue, where its agent runs one at a time. -/
def Dev.agentRun (d : Dev) (q : Nat) : Option Run := (d.queue q).runs.find? Run.agent

/-- The run with serial `n`. -/
def Dev.runN (d : Dev) (q n : Nat) : Option Run := (d.queue q).runs.find? (fun r => r.serial == n)

/-- The newest run ends with a status and detail, and nothing else of it happens. -/
def Dev.finish (q status detail : Nat) (d : Dev) : Dev :=
  d.setRun q (fun r => { r with status := status, detail := detail, done := true })

/-- The run with serial `n` ends. -/
def Dev.finishN (q n status detail : Nat) (d : Dev) : Dev :=
  d.setRunN q n (fun r => { r with status := status, detail := detail, done := true })

/-- The parameter words of the newest run. -/
def Dev.runParams (d : Dev) (q : Nat) : List Word := ((d.run q).map Run.params).getD []

/-- A row that starts a command: if the head descriptor is a ready command of routine `rtn` that may start now, it starts, has its
effect, and the queue comes to its next head. -/
def Dev.startCmd (q rtn : Nat) (f : List Word → Dev → Dev) (d : Dev) : Dev :=
  match d.startable q rtn with
  | some ws => (Dev.skipRun q skipFuel (f ws (d.begin q ws))).noteHead q
  | none => d

/-- 10 R279: class and hint of the accesses of a queue's agent: PRIO and HINT of a mover's block, urgent STREAM for deltas and plant ports,
bulk STREAM for parameter updates; a fabric die's have none (log entry 34). -/
def Dev.accOf (d : Dev) (q : Nat) : Option Access :=
  match d.qKind q with
  | 3 | 4 => (d.agentRun q).map (fun r =>
      if dRtn r.desc ≤ 0x103 then ⟨bits (wd r.params 2) 5 4, bits (wd r.params 2) 3 2⟩ else ⟨0, 1⟩)
  | 5 => some ⟨2, 1⟩
  | 7 => some ⟨0, 1⟩
  | _ => none

/-- The issuer of a queue's accesses. -/
def Dev.who (d : Dev) (q : Nat) : Issuer :=
  { queue := some q, core := if d.qKind q ≤ 4 then some (d.qTarget q) else none, acc := d.accOf q }

/-! ## Completion (09 R250 to R254) -/

/-- R253: the completion record of a command. -/
def recordBytes (q serial status detail : Nat) (retried signalled : Bool) : List Byte :=
  bytesOf 8 (serial + status * 2 ^ 48) ++
    bytesOf 8 (detail % 2 ^ 32 + q * 2 ^ 32 + b2n retried * 2 ^ 62 + b2n signalled * 2 ^ 63)

/-- R253: a record is written to the completion ring; one that software has not read is overwritten and CLOST set. -/
def Dev.putRecord (q serial status detail : Nat) (retried signalled : Bool) (d : Dev) : Dev :=
  let size := 2 ^ d.fld (.cqCring q) F.cqCring_LOG2SIZE
  let base := expandPa (d.fld (.cqCring q) F.cqCring_BASE * 64)
  let w := d.fld (.cqCread q) F.cqCread_WRITTEN
  let d := if size ≤ diff32 w (d.fld (.cqCread q) F.cqCread_READ) then d.setFld (.cqStatus q) F.cqStatus_CLOST 1 else d
  let d := d.store (base + 16 * (w % size)) (recordBytes q serial status detail retried signalled) {}
  d.setFld (.cqCread q) F.cqCread_WRITTEN (w + 1)

/-- The completion of the oldest run of a queue: its record, its signal, the queue's state. -/
def Dev.completeRun (q : Nat) (r : Run) (d : Dev) : Dev :=
  let ws := r.desc
  let bad := r.status ≠ 0 ∧ r.status ≠ stAborted
  let signals := dSiginc ws != 0 && (r.status == 0 || (r.status != stAborted && dErrcont ws))
  let d := if dCrec ws = 0 ∨ dCrec ws = 3 ∨ (dCrec ws = 1 ∧ r.status ≠ 0)
    then d.putRecord q r.serial r.status r.detail r.retried signals else d
  let d := if signals then d.sigAdd (dSigctr ws) (dSiginc ws) else d
  let x := d.queue q
  let m := if x.mode = .on ∧ bad ∧ !dErrcont ws then .error else x.mode
  d.setQueue q { x with runs := x.runs.drop 1, mode := m }

/-- A run that has nothing left to do. -/
def Run.over (r : Run) : Bool := r.done && !r.retrying && !r.frozen && r.todo.isEmpty && r.await.isEmpty

/-- 12 R351: every destination that the run wrote has acknowledged its last write, or is declared dead. -/
def Dev.acked (d : Dev) (r : Run) : Bool :=
  r.dsts.all (fun p => d.slotDead p.1 ||
    !(d.fabric.trackers.any (fun t => t.dst == p.1 && (match t.seq with
      | some n => decide (diff32 p.2 n < 2 ^ 31)
      | none => false))))

/-! ## Draining (17 R491) -/

/-- One ABORTED completion, with serial `n`, of a descriptor that did not start. -/
def Dev.abortDesc (q n : Nat) (ws : List Word) (d : Dev) : Dev :=
  if dCrec ws ≠ 2 then d.putRecord q n stAborted 0 false false else d

/-- The matching `cq.endloop` of an open loop, from ring position `p` with `depth` loops open. -/
def Dev.endOf (d : Dev) (q : Nat) : Nat → Nat → Nat → Nat
  | 0, p, _ => p
  | n + 1, p, depth =>
    if d.avail q p = 0 then p
    else
      let rtn := dRtn (d.ringDesc q p)
      if rtn = 4 ∧ depth ≤ 1 then p
      else d.endOf q n ((p + 1) % 2 ^ 32) (if rtn = 3 then depth + 1 else if rtn = 4 then depth - 1 else depth)

/-- R491: the descriptors of the ring from position `p` up to the accepted TAIL complete ABORTED, with serials from `n`; a loop that
has not started completes as one descriptor, and its body does not run. -/
def Dev.drainRing (q : Nat) : Nat → Nat → Nat → Dev → Dev
  | 0, _, _, d => d
  | k + 1, p, n, d =>
    if d.avail q p = 0 then d
    else
      let ws := d.ringDesc q p
      let e := if dRtn ws = 3 then d.endOf q 4096 ((p + 1) % 2 ^ 32) 1 else p
      Dev.drainRing q k (if d.avail q e = 0 then e else (e + 1) % 2 ^ 32) ((n + 1) % 2 ^ 48) (d.abortDesc q n ws)

/-- Where the drain begins: after an open replay, at the `cq.endloop` of an open loop, after a zero-count loop being skipped. -/
def Dev.drainFrom (d : Dev) (q : Nat) : Nat :=
  let x := d.queue q
  let n := (x.loops.filter (fun l => l.replay.isNone)).length
  if n ≠ 0 then d.endOf q 4096 x.pos (n + x.skip)
  else if x.skip ≠ 0 then
    let e := d.endOf q 4096 x.pos x.skip
    if d.avail q e = 0 then e else (e + 1) % 2 ^ 32
  else x.pos

/-- A run of its agent's own commands: not a `core.sound`, and not refused before its own checks (R570). -/
def Run.own (r : Run) : Bool :=
  dRtn r.desc != 0x900 && r.status != stRoutineInvalid && r.status != stRoutineAbsent && r.status != stDescInvalid

/-- 06 R163: an `sv.sigload` that has passed its alignment check. -/
def Run.loadsSig (r : Run) : Bool := dRtn r.desc == 0x304 && r.own && r.status != stDescAlign

/-- 06 R163: an `sv.sigload` past its alignment check that ends before its completion leaves its slot without a valid signature. -/
def Dev.dropLoad (q : Nat) (r : Run) (d : Dev) : Dev :=
  if d.qKind q = 1 ∧ r.loadsSig then
    let c := d.qTarget q
    let n := bits (wd r.params 0) 3 0
    (d.setCore c { d.core c with sigs := tdel n (d.core c).sigs }).wr (.coreSig c n) 0
  else d

/-- R353, R491: the queue enters DRAIN and the trackers of its loads and fetching atomics are freed: its running agent commands end ABORTED, commands of the front end and a `core.sound` whose test has ended with
their own results, the ring drains. -/
def Dev.drainQueue (q : Nat) (d : Dev) : Dev :=
  let p := d.drainFrom q
  let d := (d.queue q).runs.foldl (fun d r =>
    (d.dropLoad q r).completeRun q (if r.agent && !(dRtn r.desc == 0x900 && r.status != 0) then { r with status := stAborted, detail := 0, dsts := [] }
      else r)) d
  let gone (t : Tracker) : Bool := t.queue == some q && (t.seq.isNone || t.fetch)
  let d := { d with fabric := { d.fabric with trackers := d.fabric.trackers.filter (fun t => !gone t) } }.unstalls
    (d.fabric.trackers.countP gone)
  let n := (d.fld (.cqSerial q) ⟨47, 0⟩ + 1) % 2 ^ 48
  let d := Dev.drainRing q 4096 p n d
  d.setQueue q { d.queue q with mode := .drain, pos := d.qTail q, loops := [], replay := none, rcd := none, skip := 0, markOk := false }

end Sys2Proof.Machine
end

