-- ==== Sys2Proof/Machine/Reset.lean ====
section
/-! DEFINITION. The colophon log (17 R507), package reset (20 R560), the power-on sequence (16, steps 2 to 5) and package-fatal
errors (17 R498). -/

namespace Sys2Proof.Machine

/-- R507: an entry is written at NEXT; the oldest is overwritten when the ring is full. -/
def Dev.logWrite (tide : Word) (time src code : Nat) (data : Word) (d : Dev) : Dev :=
  let i := d.fld .clStatus F.clStatus_NEXT
  let n := d.fld .clStatus F.clStatus_SEQ
  let d := { d with log := tset i ⟨tide, time, src, code, n, data⟩ d.log }
  let d := if n % 2 ^ 32 + 1 > 16384 then d.setFld .clStatus F.clStatus_WRAPPED 1 else d
  ((d.setFld .clStatus F.clStatus_NEXT (i + 1)).setFld .clStatus F.clStatus_SEQ (n + 1)).countCn 0x10 1

/-- FAULT_N driven. -/
def Dev.setFault (b : Bool) (d : Dev) : Dev := { d with faultN := b }.emit (.faultN b)

/-- R560: every register but the CL block at its reset value, FATAL_PREV as the cause of this reset says, nothing held in any store
or queue of the package; what has left it, the board and the host stay. -/
def Dev.clearAll (d : Dev) : Dev :=
  let z : Dev := {}
  let d1 := { z with regs := [(.clStatus, d.rd .clStatus)], log := d.log, board := d.board, boot := d.boot }
  let d1 := { d1 with out := d.out, free := d.free, pwrGood := d.pwrGood, resetCause := d.resetCause, faultN := d.faultN, perst := d.perst }
  let d1 := if d.resetCause = 1 then d1.setFld .glErrStatus F.glErrStatus_FATAL_PREV 1 else d1
  if d1.faultN then d1.setFault false else d1

/-- 16 R458: start-up ends with STAGE FAILED, its cause and FAULT_N; step 5 completes and HL_EVENT.BOOT is set. -/
def Dev.bootFail (cause : Nat) (d : Dev) : Dev :=
  let d := (d.setFld .glBootStatus F.glBootStatus_STAGE 8).setFld .glBootStatus F.glBootStatus_FCAUSE cause
  (((d.setFld .hlEvent F.hlEvent_BOOT 1).irq).setFault true).healthDue

/-- The word of a set of cores. -/
def coreMask (j : Nat) (p : Nat → Bool) : Word :=
  BitVec.ofNat 64 ((List.range 64).foldl (fun a i => a + b2n (p (64 * j + i)) * 2 ^ i) 0)

/-- Step 3 (R462): the top leaf of this start-up, and the leaf-index record written with it. -/
def Dev.takeLeafIndex (b : Board) (d : Dev) : Dev :=
  match b.hwm with
  | none => d
  | some h =>
    let q := if h = 0xFFFFFFFF then 0 else h + 1
    if 1048575 < q then d
    else { d with topq := some q, board := some { b with hwm := some q } }.emit (.flashLeaf q)

/-- 01 R19: a unit map of the part: valid, and disabling exactly 8 physical cores, or 16 of a CW9-176. -/
def boardMapOk (b : Board) : Bool :=
  b.unitMapOk && decide b.disabled.Nodup && b.disabled.all (fun c => decide (c < 192)) &&
    b.disabled.length == (if b.code176 then 16 else 8)

/-- 01 R20: the physical cores that the valid fence records, in flash order, leave fenced: a fence adds its core, and only a record
signed by Otbavia takes one out. -/
def fencedBy (b : Board) : List Nat :=
  b.fences.foldl (fun l r =>
    if !r.ok then l else if r.unfence then l.filter (· != r.core) else if l.contains r.core then l else l ++ [r.core]) []

/-- 16, table of board records: a fence record that does not verify is ignored and logged. The spec lists no colophon code for it:
CODE and DATA are free (log entry 6). -/
def Dev.logBadFences (b : Board) (d : Dev) : Dev :=
  (b.fences.filter (fun r => !r.ok)).foldl (fun d _ =>
    { d with free := d.free + 1 }.event (source 0 0) (Config.freeIndex d.free 0 % 2 ^ 16) (Config.freeWord d.free).toNat false) d

/-- Step 3: the records fill the unit registers, the board position and the owner's key. -/
def Dev.readRecords (b : Board) (d : Dev) : Dev :=
  let en (c : Nat) : Bool := decide (c < 192) && !b.disabled.contains c
  let fn (c : Nat) : Bool := decide (c < 192) && (fencedBy b).contains c
  let d := [0, 1, 2].foldl (fun d j => (d.wr (.glUnitEnable j) (coreMask j en)).wr (.glUnitFenced j) (coreMask j fn)) d
  let d := (d.setFld .glCoreCount F.glCoreCount_ENABLED ((List.range 192).filter en).length).setFld .glCoreCount
    F.glCoreCount_FENCED ((List.range 192).filter (fun c => en c && fn c)).length
  let d := (d.setFld .glBootStatus F.glBootStatus_OWNED (b2n b.fuse)).setFld .glBootStatus F.glBootStatus_OWNERKEY
    (b2n b.ownerKey.isSome)
  { d with ownerKey := b.ownerKey }.takeLeafIndex b

/-- R470: torus identifier, rack slot (12 R335) and machine dimensions, which the package uses from here on; the register reads them
once an image is loaded (00 R10). -/
def Dev.readPosition (b : Board) (d : Dev) : Dev :=
  let r := Reg.fbTorusId
  let d := ((d.setFld r F.fbTorusId_X b.x).setFld r F.fbTorusId_Y b.y).setFld r F.fbTorusId_Z b.z
  let d := ((d.setFld r F.fbTorusId_DX b.dx).setFld r F.fbTorusId_DY b.dy).setFld r F.fbTorusId_DZ b.dz
  d.setFld r F.fbTorusId_SLOT (b.x % 4 + 4 * (b.y % 4) + 16 * (b.z % 4))

/-- Steps 1 and 4: the links that train. A far-tier port that has no device within the 1 TiB of 10 R305 stays down; the largest
capacity is CAP's own limit (log entry 33). -/
def Dev.trainLinks (t : Boot) (d : Dev) : Dev :=
  let d := t.ports.foldl (fun d (e, p, lanes) =>
    (d.setFld (.fbPort e p) F.fbPort_UP 1).setFld (.fbPort e p) F.fbPort_LANES lanes) d
  let d := t.far.foldl (fun d (p, cap, width, speed) =>
    if 1024 < cap then d
    else (((d.setFld (.ftPort p) F.ftPort_UP 1).setFld (.ftPort p) F.ftPort_WIDTH width).setFld (.ftPort p) F.ftPort_SPEED
      speed).setFld (.ftPort p) F.ftPort_CAP cap) d
  t.plant.foldl (fun d p => d.setFld (.ppStatus p) F.ppStatus_LINK 1) d

/-- Steps 2 to 5 of the power-on sequence, with the LOG_START entry of this start-up (17 R507). -/
def Dev.startUp (b : Board) (t : Boot) (d : Dev) : Dev :=
  match (match b.fwA with
    | some v => some v
    | none => b.fwB) with
  | none => ((d.setFld .glBootStatus F.glBootStatus_FCAUSE 1).setFault true)
  | some fw =>
    let d := (d.event (source 0 0) 0x01 d.resetCause false).setFld .glBootStatus F.glBootStatus_FWVER fw
    let d := { d with mgmt := { d.mgmt with runsB := b.fwA.isNone } }
    let d := { d with resetCause := 0, hostLink := t.hostLink && !d.perst }
    if !boardMapOk b then d.bootFail 2
    else
      let d := (d.readRecords b).logBadFences b
      if !b.posOk then d.bootFail 3
      else
        let d := d.readPosition b
        if !t.dieLinks then d.bootFail 4
        else if !t.stacksOk then (d.trainLinks t).bootFail 5
        else ((d.trainLinks t).setFld .glBootStatus F.glBootStatus_STAGE 4).healthDue

/-- A package reset with its LOG_START cause: it restarts at step 2 once power is good (20 R555, R560). -/
def Dev.packageReset (cause : Nat) (d : Dev) : Dev :=
  let d := { d with resetCause := cause }.clearAll
  match d.board, d.boot with
  | some b, some t => if d.pwrGood then d.startUp b t else d
  | _, _ => d

/-- R498: a package-fatal error, triggered by an event with colophon code `code`. -/
def Dev.fatal (code : Nat) (d : Dev) : Dev :=
  let d := (d.logWrite d.logTide d.ns (source 0 0) 0xF1 (BitVec.ofNat 64 code)).setFault true
  d.packageReset 1

end Sys2Proof.Machine
end

