-- ==== Sys2Proof/Machine/Errors.lean ====
section
/-! DEFINITION. Words in error that reads find: correction, uncorrectable words, retries on the stack interface (10 R283 to R287, R299;
17 R489), and the start of a command whose reads find some. -/

namespace Sys2Proof.Machine

/-- 17 R489: a corrected word of a unit is logged at most once a second with the count since the last entry. Units: coves 0 to 31, core
stores, routine stores and signature stores of physical core p at 256 + p. -/
def Dev.correctedAt (unit src : Nat) (d : Dev) : Dev :=
  let (n, at_) := tget (0, 0) unit d.corr
  if at_ = 0 ∨ at_ + 1000000000 ≤ d.ns + 1 then
    { d with corr := tset unit (0, d.ns + 1) d.corr }.event src 0x40 (min (n + 1) 0xFFFFFFFF) false
  else { d with corr := tset unit (n + 1, at_) d.corr }

/-- R284: a corrected word of cove `v`. -/
def Dev.corrected (v : Nat) (d : Dev) : Dev :=
  ((d.bump (.cvEcc v) F.cvEcc_CORR 1).countCv v 0x0A 1).correctedAt v (source 2 v)

/-- R285: a word is uncorrectable from now on. -/
def Dev.markBad (kind unit a : Nat) (d : Dev) : Dev :=
  let w : BadWord := ⟨kind, unit, a / 8 * 8⟩
  if d.badWords.contains w then d else { d with badWords := w :: d.badWords }

/-- R287: `n` interface retries of an access at address `a`; a fourth failed attempt escalates, and the eighth escalation of a channel
is package-fatal. -/
def Dev.stackRetry (n a : Nat) (d : Dev) : Dev :=
  let v := d.cove a
  let chan := d.chan a
  let k := min n 3
  let d := (d.bump (.cvEcc v) F.cvEcc_RETRY k).countCv v 0x0B k
  let d := (List.range k).foldl (fun d _ => d.choiceTime 6) d
  if n ≤ 3 then d
  else
    let m := tget 0 (16 * v + chan) d.escal + 1
    let d := { d with escal := tset (16 * v + chan) m d.escal }.bump (.cvEcc v) F.cvEcc_ESCAL 1
    let d := d.event (source 2 v) 0x42 chan false
    if m = 8 then d.fatal 0x42 else d

/-- The far-tier port that serves a physical address. -/
def Dev.portOf (d : Dev) (a : Nat) : Nat :=
  match d.farSet (a - farBase) with
  | some n => d.farPort n (a - farBase)
  | none => 0

/-- R305: a device returns poison for the word at a physical address. -/
def Dev.farPoison (a : Nat) (d : Dev) : Dev := (d.markBad 3 0 a).setFld (.ftPort (d.portOf a)) F.ftPort_POISON_EV 1

/-- What the storage does on an access at address `a`; an escalated access is uncorrectable for its own command (kind 4). -/
def Dev.flawAt (a : Nat) (f : Flaw) (d : Dev) : Dev :=
  match f with
  | .none => d
  | .corrected => d.corrected (d.lineCove a)
  | .uncorrStack => if stackSize ≤ a then d.farPoison a else d.markBad 0 0 a
  | .uncorrCache => d.markBad 1 0 a
  | .retries n =>
    if stackSize ≤ a then d
    else
      let d := d.stackRetry n a
      if 3 < n then d.markBad 4 0 a else d

/-- A word in error that the command of a core finds: one of memory, or one of the core's own stores. -/
def Dev.upset (c : Nat) (x : Upset) (d : Dev) : Dev :=
  match x.kind with
  | 0 => if stackSize ≤ x.addr then d else d.flawAt x.addr (if x.lost then .uncorrStack else .corrected)
  | 1 => d.flawAt x.addr (if x.lost then .uncorrCache else .corrected)
  | 3 => if x.lost ∧ farBase ≤ x.addr ∧ x.addr < farBase + winSize then d.farPoison x.addr else d
  | 4 => d.flawAt x.addr (.retries x.tries)
  | 2 | 5 | 6 => if x.lost then d.markBad x.kind c x.addr else d.correctedAt (256 + d.phys c) (source 1 (d.phys c))
  | _ => d

/-- The words in error that the reads of a command find. -/
def Dev.upsets (c : Nat) (xs : List Upset) (d : Dev) : Dev := xs.foldl (fun d x => d.upset c x) d

/-- R287: an access that has been given up is uncorrectable for its own command only. -/
def Dev.settle (d : Dev) : Dev := { d with badWords := d.badWords.filter (fun w => w.kind != 4) }

/-- A row that starts a command whose reads find words in error. -/
def Dev.startHit (q rtn : Nat) (x : Silicon) (f : List Word → Dev → Dev) (d : Dev) : Dev :=
  d.startCmd q rtn (fun ws d =>
    let d := f ws (d.upsets (d.qTarget q) x.words)
    if ((d.run q).map (fun r => r.await.isEmpty)).getD true then d.settle else d)

end Sys2Proof.Machine
end

