-- ==== Sys2Proof/Machine/Recorder.lean ====
section
/-! DEFINITION. Recording external inputs and dropping live ones during a replay (18 R516 to R518, R520), and latching the
counters (18 R525). -/

namespace Sys2Proof.Machine

/-- Kind `k` is being recorded. -/
def Dev.recording (d : Dev) (k : Nat) : Bool :=
  d.recd.on && d.feat 8 && (k == 6 || bit (d.fld .cnRecCtl F.cnRecCtl_KINDS) (k - 1))

/-- Free bytes before CN_REC_RDPTR. -/
def Dev.recSpace (d : Dev) : Nat :=
  2 ^ d.lfld .cnRecRing F.cnRecRing_LOG2SIZE - ((d.rd .cnRecWptr).toNat - (d.rd .cnRecRdptr).toNat)

/-- Bytes written into a ring of stacked memory at a free-running position. -/
def Dev.ringPut (base size p : Nat) : List Byte → Dev → Dev
  | bs, d =>
    let o := p % size
    if o + bs.length ≤ size then d.storeStack (base + o) bs
    else (d.storeStack (base + o) (bs.take (size - o))).storeStack base (bs.drop (size - o))

/-- R516, R518: one entry, written whole before CN_REC_WPTR advances; with WRAP 0 a ring without space stops the recording,
and entries are lost until it resumes. -/
def Dev.recEntry (kind port : Nat) (tide : Word) (cycle info : Nat) (payload : List Byte) (d : Dev) : Dev :=
  let len := 32 + (payload.length + 31) / 32 * 32
  let size := 2 ^ d.lfld .cnRecRing F.cnRecRing_LOG2SIZE
  let base := d.lfld .cnRecRing F.cnRecRing_BASE * 64
  if d.fld .cnRecCtl F.cnRecCtl_WRAP = 0 ∧ (d.recd.lost ≠ 0 ∨ d.recSpace < len) then
    { d with recd := { d.recd with lost := d.recd.lost + 1 } }.setFld .cnRecCtl F.cnRecCtl_FULL 1
  else
    let hdr := bytesOf 8 tide.toNat ++ bytesOf 8 cycle ++ bytesOf 4 d.recd.seq ++ bytesOf 1 kind ++ bytesOf 1 port ++
      bytesOf 2 len ++ bytesOf 8 info
    let w := (d.rd .cnRecWptr).toNat
    let d := d.ringPut base size w (padTo len (hdr ++ payload))
    { d with recd := { d.recd with seq := (d.recd.seq + 1) % 2 ^ 32 } }.wr .cnRecWptr (BitVec.ofNat 64 (w + len))

/-- R517: an open TIDE entry is written. -/
def Dev.recClose (d : Dev) : Dev :=
  if d.recd.items.isEmpty then d
  else
    let its := d.recd.items.reverse
    { d with recd := { d.recd with items := [] } }.recEntry 1 0 d.recd.openTide d.recd.openAt its.length
      (its.flatMap (bytesOf 4))

/-- One item joins the TIDE entry, opening it if none is open; the 56th closes it. -/
def Dev.recItem (ev delta : Nat) (d : Dev) : Dev :=
  let d := if d.recd.items.isEmpty then
      { d with recd := { d.recd with openAt := d.cycle, openTide := d.tide.count, lastItem := d.cycle } } else d
  let d := { d with recd := { d.recd with items := (delta + ev * 2 ^ 24) :: d.recd.items } }
  if d.recd.items.length = 56 then d.recClose else d

/-- Gaps of 2²⁴ cycles or more are bridged by items that mark time only (R517); the gap that is left is the next item's. Where no
entry is open, the next one opens at the present cycle. -/
def Dev.recBridge : Nat → Nat → Dev → Nat × Dev
  | 0, gap, d => (gap, d)
  | n + 1, gap, d =>
    if d.recd.items.isEmpty then (0, d)
    else if 2 ^ 24 ≤ gap then Dev.recBridge n (gap - (2 ^ 24 - 1)) (d.recItem 6 (2 ^ 24 - 1))
    else (gap, d)

/-- A tide input is recorded (R516): its event number and the cycles since the last item. -/
def Dev.recTide (ev : Nat) (d : Dev) : Dev :=
  if d.recording 1 then
    let gap := d.cycle - d.recd.lastItem
    let (rest, d) := Dev.recBridge (gap / (2 ^ 24 - 1) + 1) gap d
    let d := d.recItem ev rest
    { d with recd := { d.recd with lastItem := d.cycle } }
  else d

/-- An input of another kind is recorded. -/
def Dev.recInput (kind port info : Nat) (payload : List Byte) (d : Dev) : Dev :=
  if d.recording kind then d.recClose.recEntry kind port d.tide.count d.cycle info payload else d

/-- R520: live inputs of kind `k` are ignored because the kind is replayed. -/
def Dev.replayed (d : Dev) (k : Nat) : Bool :=
  d.recd.rplOn && bit (d.fld .cnRplCtl F.cnRplCtl_KINDS) (k - 1)

/-- A live input ignored during a replay is counted. -/
def Dev.liveDrop (d : Dev) : Dev := d.bump .cnRplStatus F.cnRplStatus_LIVE_DROP 1

/-- R516: a recording begins with a MARKER entry. -/
def Dev.recStart (d : Dev) : Dev :=
  ({ d with recd := { d.recd with on := true, items := [], seq := 0, lost := 0 } }).recEntry 6 0 d.tide.count d.cycle 0 []

/-- R519: an armed replay starts. -/
def Dev.rplStart (d : Dev) : Dev :=
  { d with recd := { d.recd with rplOn := true, rplPos := 0, rplItem := 0, rplSeq := 0, rplAt := d.cycle } }.setFld
    .cnRplStatus F.cnRplStatus_STATE 2

/-- What step 9 of the image load does for the recorder and the replay (R516, R519). -/
def Dev.recAtLoad (d : Dev) : Dev :=
  let d := if d.flag .cnRecCtl F.cnRecCtl_EN && d.feat 8 then d.recStart else d
  if d.fld .cnRplStatus F.cnRplStatus_STATE = 1 then d.rplStart else d

/-! ## Counters of time, and the latch (R523 to R525) -/

/-- A counter by its selection: the selection, value and shadow registers. -/
def counterOf : Reg → Option (Reg × Reg × Reg)
  | .corePmcSel c n | .corePmcValue c n | .corePmcShadow c n => some (.corePmcSel c n, .corePmcValue c n, .corePmcShadow c n)
  | .cvPmcSel v n | .cvPmcValue v n | .cvPmcShadow v n => some (.cvPmcSel v n, .cvPmcValue v n, .cvPmcShadow v n)
  | .fbPmcSel f n | .fbPmcValue f n | .fbPmcShadow f n => some (.fbPmcSel f n, .fbPmcValue f n, .fbPmcShadow f n)
  | .cnPmcSel n | .cnPmcValue n | .cnPmcShadow n => some (.cnPmcSel n, .cnPmcValue n, .cnPmcShadow n)
  | .tgPmcSel n | .tgPmcValue n | .tgPmcShadow n => some (.tgPmcSel n, .tgPmcValue n, .tgPmcShadow n)
  | _ => none

/-- R524: the events that count cycles, link flits or the bytes of a link, which the commands do not determine (log entry 55). -/
def timedEvent : Reg → Nat → Bool
  | .corePmcSel _ _, e => (decide (1 ≤ e) && decide (e ≤ 6)) || e == 0x0B || e == 0x0D
  | .cvPmcSel _ _, e => e == 0x0E
  | .fbPmcSel _ _, e => (decide (0x10 ≤ e) && decide (e ≤ 0x39)) || e == 0x53 || e == 0x59
  | .cnPmcSel _, e => (decide (6 ≤ e) && decide (e ≤ 0x0A)) || e == 0x0F
  | _, _ => false

/-- The counter of a register counts an event of time. -/
def Dev.countsTime (d : Dev) (r : Reg) : Bool :=
  match counterOf r with
  | some (s, _, _) => timedEvent s (d.lfld s ⟨7, 0⟩)
  | none => false

/-- A count that is free. -/
def Dev.freeCount (d : Dev) : Word := BitVec.ofNat 64 ((Config.freeWord d.free).toNat % 2 ^ 48)

/-- What a counter shows: the events counted, or a free value while it counts an event of time. -/
def Dev.counter (d : Dev) (r : Reg) : Word := if d.countsTime r then d.freeCount else d.rd r

/-- A counter that counts an event of time is about to be selected anew, or has been written: its value is then any. -/
def Dev.lastCount (r : Reg) (d : Dev) : Dev :=
  match counterOf r with
  | some (_, v, _) => if d.countsTime r then { d with free := d.free + 1 }.wr v d.freeCount else d
  | none => d

/-- R525: the counter of a register copies its value into its shadow. -/
def Dev.latch (r : Reg) (d : Dev) : Dev :=
  match counterOf r with
  | some (_, v, s) => if d.countsTime r then { d with free := d.free + 1 }.wr s d.freeCount else d.wr s (d.rd v)
  | none => d

/-- R525, R526: every counter copies its value into its shadow; with CN_RD_CTL.EN 1 the reader takes the snapshot, unless the
previous one is still being written, when the latch is skipped. -/
def Dev.latchCounters (trigger mark : Nat) (d : Dev) : Dev :=
  if d.snap.isSome then d.bump .cnRdStatus F.cnRdStatus_SKIPPED 1
  else
    let d := d.regs.foldl (fun d p => d.latch p.1) d
    if d.flag .cnRdCtl F.cnRdCtl_EN then
      { d with snap := some ⟨d.tide.count, d.ns, d.tide.no, trigger, mark, d.fld .cnChoiceBit F.cnChoiceBit_COUNT,
        d.fld .cnChoiceTime F.cnChoiceTime_COUNT⟩ }.setFld .cnRdStatus F.cnRdStatus_BUSY 1
    else d

end Sys2Proof.Machine
end

