-- ==== Sys2Proof/Machine/MgmtOps.lean ====
section
/-! DEFINITION. The mailbox of the host (16 R449) and the replies of the management port (20 R564), which fences and sounding tests
also send. -/

namespace Sys2Proof.Machine

/-- The custodian's firmware runs: power is good and mask ROM has started it (16, power-on step 2). -/
def Dev.custodianOn (d : Dev) : Bool := d.pwrGood && d.fld .glBootStatus F.glBootStatus_STAGE != 0

/-! ## The mailbox -/

/-- The first `n` bytes of the mailbox payload. -/
def Dev.mboxBytes (d : Dev) (n : Nat) : List Byte :=
  ((List.range ((n + 7) / 8)).flatMap (fun j => bytesOf 8 (d.rd (.hlMbox j)).toNat)).take n

/-- Bytes written at the start of the mailbox payload. -/
def Dev.mboxPut (bs : List Byte) (d : Dev) : Dev :=
  (List.range ((bs.length + 7) / 8)).foldl (fun d j => d.wr (.hlMbox j) (BitVec.ofNat 64 (numAt bs (8 * j) 8))) d

/-- R449: the custodian replaces the payload with the response, writes LEN and STATUS, sets DONE and raises vector 0. -/
def Dev.mboxEnd (status : Nat) (bs : List Byte) (d : Dev) : Dev :=
  let r := Reg.hlMboxCtl
  let d := ((d.mboxPut bs).setFld r F.hlMboxCtl_LEN bs.length).setFld r F.hlMboxCtl_STATUS status
  let d := (d.setFld r F.hlMboxCtl_BUSY 0).setFld r F.hlMboxCtl_DONE 1
  (d.setFld .hlEvent F.hlEvent_MBOX 1).irq

/-- The value of HL_MBOX_CTL that submits a request. -/
def mboxWord (cmd len : Nat) : Word := BitVec.ofNat 64 (cmd % 256 + 256 + len % 65536 * 65536)

/-- R449: a request is submitted: a GO while BUSY is 1 is ignored. `f` is what the custodian does with the payload. -/
def Dev.mboxSubmit (cmd len : Nat) (f : List Byte → Dev → Dev) (d : Dev) : Dev :=
  let r := Reg.hlMboxCtl
  let bs := d.mboxBytes len
  let d := (d.setFld r F.hlMboxCtl_CMD cmd).setFld r F.hlMboxCtl_LEN len
  if d.flag r F.hlMboxCtl_BUSY then d
  else
    let d := d.setFld r F.hlMboxCtl_BUSY 1
    if d.custodianOn then f bs d else d

/-- R449: one write of CMD, LEN and GO. A host write is recorded, and dropped while requests are replayed (18 R516, R520). -/
def Dev.mboxGo (req : Req) (cmd len : Nat) (f : List Byte → Dev → Dev) (d : Dev) : Dev :=
  if req = .host then
    if d.replayed 4 then d.liveDrop
    else (d.recInput 4 0 (mboxWord cmd len).toNat (d.mboxBytes len)).mboxSubmit cmd len f
  else d.mboxSubmit cmd len f

/-! ## Management replies -/

/-- The enterprise number of an Otbavia message (20 R562) in the mailbox, which is control space: least significant byte first (00
R2). -/
def enterprise : List Byte := bytesOf 4 0xE35B

/-- R564: a reply repeats code and tag and adds a status byte; it leaves by the management port, or, where the request came through
the mailbox, as the response of MGMT. -/
def Dev.mgmtReply (mail : Bool) (code tag status : Nat) (data : List Byte) (d : Dev) : Dev :=
  if mail then d.mboxEnd 0 (enterprise ++ bytesOf 1 code ++ bytesOf 1 tag ++ bytesOf 1 status ++ data)
  else d.emit (.mgmtReply code tag status data)

/-- A reply that waits: its tag, and 256 more where the mailbox waits for it. -/
def waitTag (mail : Bool) (tag : Nat) : Nat := tag % 256 + 256 * b2n mail

end Sys2Proof.Machine
end

