-- ==== Sys2Proof/Machine/Checks.lean ====
section
/-! DEFINITION. Checks and what follows a failed one: commands written unit by unit, re-execution (17 R480 to R488), fencing a core
(17 R490 to R495, R497), and uncorrectable words of a core store read by an engine (10 R285, R299). -/

namespace Sys2Proof.Machine

/-! ## Fencing a core -/

/-- The number of enabled physical cores that are fenced (01 R24). -/
def Dev.fencedCount (d : Dev) : Nat := ((List.range 192).filter (fun p => d.physEnabled p && d.physFenced p)).length

/-- The fenced bit of a physical core and GL_CORE_COUNT.FENCED, in one cycle (01 R24). -/
def Dev.setFenced (p : Nat) (d : Dev) : Dev :=
  let d := d.wr (.glUnitFenced (p / 64)) (d.rd (.glUnitFenced (p / 64)) ||| BitVec.ofNat 64 (2 ^ (p % 64)))
  d.setFld .glCoreCount F.glCoreCount_FENCED d.fencedCount

/-- A waiting injection of a core is discarded. -/
def Dev.dropInj (c : Nat) (d : Dev) : Dev :=
  if (d.core c).inj.isSome then (d.setCore c { d.core c with inj := none }).setFld .glChkCtl F.glChkCtl_INJ_PEND 0 else d

/-- R505: SOUND_RESULT of a test, its register, a break of the time class, and the reply that waits for it (20 R564). -/
def Dev.soundEnd (c status unit : Nat) (d : Dev) : Dev :=
  match (d.core c).sound with
  | none => d
  | some x =>
    let d := d.setCore c { d.core c with sound := none }
    let d := ((d.setFld (.coreSound c) F.coreSound_BUSY 0).setFld (.coreSound c) F.coreSound_STATUS status).setFld
      (.coreSound c) F.coreSound_UNIT unit
    let d := (d.event (source 1 (d.phys c)) 0x52 (b2n x.full + unit * 2 ^ 16 + status * 2 ^ 32) false).choiceTime 5
    let d := match x.mgmt with
      | some t => d.mgmtReply (decide (256 ≤ t)) 3 (t % 256) 0 (bytesOf 2 status ++ bytesOf 1 unit)
      | none => d
    match x.queue with
    | some q =>
      let rs := (d.queue q).runs.map
        (fun r => if dRtn r.desc = 0x900 ∧ !r.done then { r with status := status, done := true } else r)
      d.setQueue q { d.queue q with runs := rs }
    | none => d

/-- The queues bound to an engine or mover of core `c`. -/
def Dev.coreQueues (d : Dev) (c : Nat) : List Nat :=
  (d.queues.filter (fun p => p.2.mode != .unbound && decide (d.qKind p.1 ≤ 4) && d.qTarget p.1 == c)).map (·.1)

/-- R22, 07 R199, R490, R491, R494, R495: logical core `c` is fenced. `cause` is that of the CORE_FENCE entry, `go` says that GL_FENCE_CTL.GO
asked for it, `tag` is the management request that waits, `record` asks for a fence record. A core already fenced stays as it is
(R497). -/
def Dev.fence (c cause : Nat) (go : Bool) (tag : Option Nat) (record : Bool) (d : Dev) : Dev :=
  if d.coreFenced c then d
  else
    let d := (d.setFenced (d.phys c)).dropInj c
    let d := d.soundEnd c stFailed 0
    let d := (d.coreQueues c).foldl (fun d q => d.drainQueue q) d
    let d := (d.setFld .glErrStatus F.glErrStatus_FENCE_EV 1).healthDue
    d.setCore c { d.core c with posts := [], fence := some ⟨cause, go, tag, record, false, d.logTide, d.ns⟩ }

/-! ## Check failures -/

/-- Some command of the core is re-executing. -/
def Dev.coreRetrying (d : Dev) (c : Nat) : Bool :=
  d.queues.any (fun p => decide (d.qKind p.1 ≤ 4) && d.qTarget p.1 == c && p.2.runs.any Run.retrying)

/-- CORE_CHK_STATUS.RETRYING follows the runs. -/
def Dev.noteRetrying (c : Nat) (d : Dev) : Dev :=
  d.setFld (.coreChkStatus c) F.coreChkStatus_RETRYING (b2n (d.coreRetrying c))

/-- One check failure counted in CORE_CHK_STATUS; `unit` is its LAST code. -/
def Dev.chkCount (c unit : Nat) (d : Dev) : Dev :=
  (d.bump (.coreChkStatus c) F.coreChkStatus_RETRIES 1).setFld (.coreChkStatus c) F.coreChkStatus_LAST unit

/-- The waiting injection of a core into one of the units with LAST codes `units`. -/
def Dev.injWaits (d : Dev) (c : Nat) (units : List Nat) : Option Inj :=
  match (d.core c).inj with
  | some i => if units.contains (i.unit + 1) then some i else none
  | none => none

/-- One injected failure is used. -/
def Dev.useInj (c : Nat) (d : Dev) : Dev :=
  match (d.core c).inj with
  | some i =>
    if 1 < i.count then d.setCore c { d.core c with inj := some { i with count := i.count - 1 } } else d.dropInj c
  | none => d

/-- R487: CHECK_RETRY, a break of the time class, RETRY_EV. `src` is the failing unit's SOURCE. -/
def Dev.retryEvent (src unit q serial : Nat) (injected : Bool) (d : Dev) : Dev :=
  ((d.setFld .glErrStatus F.glErrStatus_RETRY_EV 1).event src 0x50
    (unit + q % 4096 * 2 ^ 4 + serial % 2 ^ 47 * 2 ^ 16 + b2n injected * 2 ^ 63) false).choiceTime 4

/-- The failing unit among `n` that a command checks: where the injection hits, or the one the silicon fails, whichever is first. -/
def firstFail (inj bad : Option Nat) (n : Nat) : Option Nat :=
  match inj, bad with
  | some i, some f => if min i f < n then some (min i f) else none
  | some i, none => if i < n then some i else none
  | none, some f => if f < n then some f else none
  | none, none => none

/-- Whether the failure of a run was injected. -/
def Run.injectedAs (b : Bool) (r : Run) : Run := { r with injected := b }

/-- Run `n` of an engine or mover queue writes its units in order (R481, R484): `units` are, for each unit of re-execution, the
LAST codes of the checked parts it uses, `us` its writes, `bad` the one that the silicon fails. -/
def Dev.runUnits (q n : Nat) (units : List (List Nat)) (us : List (List Wr)) (bad : Option Nat) (d : Dev) : Dev :=
  let c := d.qTarget q
  let who := d.who q
  let inj := match (d.core c).inj with
    | some i => units.findIdx? (fun u => u.contains (i.unit + 1))
    | none => none
  match firstFail inj bad us.length with
  | none => d.applyUnits who us
  | some f =>
    let injected := inj == some f
    let unit := if injected then (((d.core c).inj.map Inj.unit).getD 0) + 1 else (units.getD f []).headD 0
    let d := d.chkCount c unit
    let d := if injected then d.useInj c else d
    if d.flag .glChkCtl F.glChkCtl_MASK then d.applyUnits who us
    else
      let d := d.applyUnits who (us.take f)
      if d.coreRetrying c then d.fence c 0 false none true
      else
        let d := d.setRunN q n (fun r => Run.injectedAs injected
          { r with retrying := true, retried := true, unit := unit, todo := us.drop f, places := r.places.drop f })
        ((d.countCore c 0x0C 1).retryEvent (source 1 (d.phys c)) unit q n injected).noteRetrying c

/-! ## Uncorrectable words of the core store -/

/-- The uncorrectable words of core `c`'s store that reads of the given ranges touch, or that the writes touch in part. -/
def Dev.csBad (d : Dev) (c : Nat) (reads : List (Nat × Nat)) (us : List (List Wr)) : List BadWord :=
  d.badWords.filter (fun w => w.kind == 2 && w.unit == c &&
    (reads.any (fun r => decide (w.addr < r.1 + r.2) && decide (r.1 < w.addr + 8)) ||
      us.any (fun u => u.any (fun x => x.sp == .core c && decide (w.addr < x.addr + x.data.length) &&
        decide (x.addr < w.addr + 8) && !(decide (x.addr ≤ w.addr) && decide (w.addr + 8 ≤ x.addr + x.data.length))))))

/-- The lowest address of a list of words. -/
def lowAddr (ws : List BadWord) : Nat := ws.foldl (fun a w => min a w.addr) (2 ^ 64)

/-- R285, R299: an engine command that reads uncorrectable words of its core store reports them and completes MEM_UNCORR. -/
def Dev.engineBad (q : Nat) (reads : List (Nat × Nat)) (us : List (List Wr)) (d : Dev) : Dev :=
  let bs := d.csBad (d.qTarget q) reads us
  if bs.isEmpty then d
  else (d.uncorrAll bs).setRun q (fun r => { r with status := stMemUncorr, detail := lowAddr bs / 8 % 2 ^ 28 + 2 * 2 ^ 28 })

/-- R285: a command that reads uncorrectable words of its core's routine store (kind 5) or signature store (kind 6) reports them and
completes MEM_UNCORR; R299 gives DETAIL for core-store words only, which keep it (log entry 17). -/
def Dev.storeBad (q kind a n : Nat) (d : Dev) : Dev :=
  let c := d.qTarget q
  let bs := d.badWords.filter (fun w => w.kind == kind && w.unit == c && decide (w.addr < a + n) && decide (a < w.addr + 8))
  if bs.isEmpty then d
  else
    let x := (Config.freeWord d.free).toNat % 2 ^ 32
    { d.uncorrAll bs with free := d.free + 1 }.setRun q (fun r =>
      if r.status = stMemUncorr then r else { r with status := stMemUncorr, detail := x })

/-- The serial of the newest run of a queue. -/
def Dev.newest (d : Dev) (q : Nat) : Nat := ((d.run q).map Run.serial).getD 0

/-- An engine command's effect: validation refuses it, or it reports what it read and writes its units. -/
def Dev.engineCmd (q : Nat) (status detail : Nat) (units : List (List Nat)) (reads : List (Nat × Nat))
    (us : List (List Wr)) (bad : Option Nat) (d : Dev) : Dev :=
  if status ≠ 0 then d.finish q status detail else (d.engineBad q reads us).runUnits q (d.newest q) units us bad

/-! ## Re-execution -/

/-- The run of a queue that re-executes. -/
def Dev.retryRun (d : Dev) (q : Nat) : Option Run := (d.queue q).runs.find? Run.retrying

/-- R484 to R486: the held-back units are checked again: they are written, or a second failure (injected, or the silicon's `bad`th
unit) ends the command ABORTED and fences its core. -/
def Dev.reexecute (q : Nat) (bad : Option Nat) (d : Dev) : Dev :=
  match d.retryRun q with
  | none => d
  | some r =>
    let c := d.qTarget q
    let inj := d.injWaits c [r.unit]
    match firstFail (inj.map (fun _ => 0)) bad (max 1 r.todo.length) with
    | some f =>
      let d := d.chkCount c r.unit
      let d := if inj.isSome then d.useInj c else d
      (d.applyUnits (d.who q) (r.todo.take f)).fence c 0 false none true
    | none =>
      let d := d.applyUnits (d.who q) r.todo
      let d := d.setRunN q r.serial (fun r => { r with retrying := false, todo := [] })
      d.noteRetrying c

end Sys2Proof.Machine
end

