-- ==== Sys2Proof/Machine/CtlOps.lean ====
section
/-! DEFINITION. The registers of a control core: g registers and program counter (08 R202), vector and predicate registers (08 R213,
R216), and the end of a load (08 R206, R217). -/

namespace Sys2Proof.Machine

/-! ## Scalar registers -/

/-- R202: a g register; g0 reads zero. -/
def Dev.gReg (d : Dev) (k n : Nat) : Word := if n % 32 = 0 then 0 else tget 0 (n % 32) (d.cc k).g

/-- R202: a write of a g register; g0 ignores it. -/
def Dev.setG (k n : Nat) (v : Word) (d : Dev) : Dev :=
  if n % 32 = 0 then d else d.setCc k { d.cc k with g := tset (n % 32) v (d.cc k).g }

/-- An instruction has completed, and the core goes on at an address (18, event 0x01 of the processor die). -/
def Dev.ccGoto (k : Nat) (pc : Word) (d : Dev) : Dev := (d.setCc k { d.cc k with pc := pc, wait := .run }).countCn 1 1

/-- The program counter moves on by one instruction. -/
def Dev.ccNext (k : Nat) (d : Dev) : Dev := d.ccGoto k ((d.cc k).pc + 4)

/-! ## Vector registers (R213 to R216) -/

/-- EW in bits. -/
def Dev.cvBits (d : Dev) (k : Nat) : Nat := 8 * 2 ^ d.fld (.ccVstate k) F.ccVstate_EW

/-- vl. -/
def Dev.cvLen (d : Dev) (k : Nat) : Nat := d.fld (.ccVstate k) F.ccVstate_VL

/-- A vector register. -/
def Dev.vReg (d : Dev) (k n : Nat) : Nat := (tget 0 (n % 32) (d.cc k).v).toNat

/-- A vector register written. -/
def Dev.setV (k n v : Nat) (d : Dev) : Dev := d.setCc k { d.cc k with v := tset (n % 32) (BitVec.ofNat 1024 v) (d.cc k).v }

/-- R213: a predicate register; p0 reads all ones. -/
def Dev.pReg (d : Dev) (k n : Nat) : Nat := if n % 8 = 0 then 2 ^ 128 - 1 else (tget 0 (n % 8) (d.cc k).p).toNat

/-- R213: a write of a predicate register; p0 ignores it. -/
def Dev.setP (k n v : Nat) (d : Dev) : Dev :=
  if n % 8 = 0 then d else d.setCc k { d.cc k with p := tset (n % 8) (BitVec.ofNat 128 v) (d.cc k).p }

/-- Element `i` of `w` bits. -/
def elemAt (w v i : Nat) : Nat := v / 2 ^ (w * i) % 2 ^ w

/-- A register with element `i` replaced. -/
def elemPut (w v i x : Nat) : Nat := v - elemAt w v i * 2 ^ (w * i) + x % 2 ^ w * 2 ^ (w * i)

/-- R216: the active elements, in order. -/
def Dev.cvActive (d : Dev) (k pg : Nat) : List Nat := (List.range (d.cvLen k)).filter (bit (d.pReg k pg))

/-- R216: the elements of a list written into a vector register; the others keep their values. -/
def Dev.cvPut (k vd : Nat) (xs : List (Nat × Nat)) (d : Dev) : Dev :=
  if xs.isEmpty then d else d.setV k vd (xs.foldl (fun v p => elemPut (d.cvBits k) v p.1 p.2) (d.vReg k vd))

/-- R216: the bits of a list written into a predicate register; the others keep their values. -/
def Dev.cvPutP (k pd : Nat) (xs : List (Nat × Bool)) (d : Dev) : Dev :=
  d.setP k pd (xs.foldl (fun v p => elemPut 1 v p.1 (b2n p.2)) (d.pReg k pd))

/-! ## The end of a load -/

/-- The little-endian value of a load's bytes, extended to 64 bits. -/
def extendLoad (data : List Byte) (sgn : Bool) : Word :=
  let v := ofBytes data
  if sgn then BitVec.ofInt 64 (sval (8 * data.length) v) else BitVec.ofNat 64 v

/-- Every part of a load has its bytes. -/
def partsReady (ps : List LoadPart) : Bool := ps.all (fun p => p.id.isNone)

/-- The bytes of a load. -/
def partsData (ps : List LoadPart) : List Byte := ps.flatMap LoadPart.data

/-- An answer fills the part that waits for it (12 R352). -/
def partsFill (id : Nat) (data : List Byte) (ps : List LoadPart) : List LoadPart :=
  ps.map (fun p => if p.id = some id then { p with id := none, data := sliceB data p.off p.len } else p)

/-- A scalar load completes once it has its bytes; until then the core waits. -/
def Dev.loadEnd (k rd : Nat) (sgn : Bool) (ps : List LoadPart) (d : Dev) : Dev :=
  if partsReady ps then (d.setG k rd (extendLoad (partsData ps) sgn)).ccNext k
  else d.setCc k { d.cc k with wait := .load rd sgn ps }

/-- R217: a vector load completes once it has its bytes: those of its active elements, in order. -/
def Dev.vloadEnd (k vd pg : Nat) (ps : List LoadPart) (d : Dev) : Dev :=
  if partsReady ps then
    let es := d.cvBits k / 8
    let bs := partsData ps
    let act := d.cvActive k pg
    (d.cvPut k vd (act.zipIdx.map (fun p => (p.1, numAt bs (es * p.2) es)))).ccNext k
  else d.setCc k { d.cc k with wait := .vload vd pg ps }

end Sys2Proof.Machine
end

