-- ==== Sys2Proof/Machine/Mailbox.lean ====
section
/-! DEFINITION. The mailbox entries of a control core (07 R197, R198) and the wait on them (08 R225). -/

namespace Sys2Proof.Machine

/-- Mailbox entry `n` of control core `k` is FULL. -/
def Dev.mboxFull (d : Dev) (k n : Nat) : Bool := d.flag (.ccMboxTag k n) F.ccMboxTag_FULL

/-- R225: the lowest FULL entry whose bit is set in a mask. -/
def Dev.mboxHit (d : Dev) (k : Nat) (mask : Word) : Option Nat :=
  (List.range 64).find? (fun n => bit mask.toNat n && d.mboxFull k n)

/-- R225: a waiting mbwait completes once an entry it waits for is FULL; one whose deadline has passed before that writes 64. -/
def Dev.mbTry (k : Nat) (d : Dev) : Dev :=
  match (d.cc k).wait with
  | .mbwait rd ra t =>
    match d.mboxHit k (d.gReg k ra) with
    | some n => (d.setG k rd (if t ≤ d.cycle then 64 else BitVec.ofNat 64 n)).ccNext k
    | none => d
  | _ => d

/-- R198: a post lands in the entry of its core's control core: SEQ, KIND, CMD and VALUE are written, FULL is set, and OVW if FULL was
set already (18 R524: an event of the processor die). -/
def Dev.landPost (c : Nat) (x : Post) (d : Dev) : Dev :=
  let k := d.fld (.coreBind c) F.coreBind_CCORE
  let n := 8 * d.fld (.coreBind c) F.coreBind_LOCAL + x.slot
  let r := Reg.ccMboxTag k n
  let d := d.countCn 2 1
  let d := if d.mboxFull k n then d.setFld r F.ccMboxTag_OVW 1 else d
  let d := ((((d.bumpWrap r F.ccMboxTag_SEQ 1).setFld r F.ccMboxTag_KIND x.kind).setFld r F.ccMboxTag_FULL 1).setFld r
    F.ccMboxTag_CMD x.cmd).wr (.ccMboxVal k n) x.val
  d.mbTry k

/-- R197: the oldest post of a core lands. -/
def Dev.postNext (c : Nat) (d : Dev) : Dev :=
  match (d.core c).posts with
  | x :: t => (d.setCore c { d.core c with posts := t }).landPost c x
  | [] => d

/-- R197: every post of a core lands, in issue order. -/
def Dev.postAll (c : Nat) (d : Dev) : Dev :=
  let xs := (d.core c).posts
  xs.foldl (fun d x => d.landPost c x) (d.setCore c { d.core c with posts := [] })

/-- MAILBOX_POST (07 R197, R198). -/
def execMailboxPost (c : Nat) (s : State) : Host.Outcome State Fault Refusal := s.upd (Dev.postNext c)

end Sys2Proof.Machine
end

