-- ==== Sys2Proof/Machine/Crypto.lean ====
section
/-! DEFINITION. CRC-32C, SHA-256 and the verification of LMS and HSS signatures (RFC 8554), which the image, the routine
banks and the owner key use (06 R155, 15 R423, R424, 16 R461, R468). -/

namespace Sys2Proof.Machine

/-! ## CRC-32C -/

/-- One bit of the reflected CRC-32C register. -/
def crcBit (c : BitVec 32) : BitVec 32 := if c.getLsbD 0 then (c >>> 1) ^^^ 0x82F63B78 else c >>> 1

/-- One byte into the register. -/
def crcByte (c : BitVec 32) (b : Byte) : BitVec 32 :=
  let x := c ^^^ BitVec.setWidth 32 b
  crcBit (crcBit (crcBit (crcBit (crcBit (crcBit (crcBit (crcBit x)))))))

/-- CRC-32C of a byte string. -/
def crc32c (l : List Byte) : Nat := ((l.foldl crcByte 0xFFFFFFFF) ^^^ 0xFFFFFFFF).toNat

/-! ## The frame check sequence -/

/-- The IEEE 802.3 frame check sequence: reflected CRC-32, polynomial 0xEDB88320 reflected. -/
def fcsBit (c : BitVec 32) : BitVec 32 := if c.getLsbD 0 then (c >>> 1) ^^^ 0xEDB88320 else c >>> 1

/-- One byte of the frame check sequence. -/
def fcsByte (c : BitVec 32) (b : Byte) : BitVec 32 :=
  fcsBit (fcsBit (fcsBit (fcsBit (fcsBit (fcsBit (fcsBit (fcsBit (c ^^^ b.setWidth 32))))))))

/-- The frame check sequence of a frame (14 R396). -/
def fcs (l : List Byte) : Nat := ((l.foldl fcsByte 0xFFFFFFFF) ^^^ 0xFFFFFFFF).toNat

/-! ## SHA-256 -/

/-- The primes below 312, the first 64: no number from 2 to 17 but the prime itself divides them. -/
def primes : List Nat :=
  (List.range 312).filter (fun n => 2 ≤ n && (List.range 16).all (fun m => n ≤ m + 2 || n % (m + 2) != 0))

/-- The greatest `r` below `lo + 2 ^ n` with `r ^ k ≤ m`, built bit by bit from `lo`. -/
def rootFrom (k m : Nat) : Nat → Nat → Nat
  | 0, lo => lo
  | n + 1, lo => rootFrom k m n (if (lo + 2 ^ n) ^ k ≤ m then lo + 2 ^ n else lo)

/-- The first 32 bits after the point of the `k`-th root of a small number. -/
def rootWord (k p : Nat) : BitVec 32 := BitVec.ofNat 32 (rootFrom k (p * 2 ^ (32 * k)) 37 0)

/-- The round constants: cube roots of the first 64 primes. -/
def shaK : List (BitVec 32) := primes.map (rootWord 3)

/-- The initial hash words: square roots of the first 8 primes. -/
def shaH : List (BitVec 32) := (primes.take 8).map (rootWord 2)

/-- A big-endian 32-bit word of four bytes. -/
def beWord (l : List Byte) : BitVec 32 := BitVec.ofNat 32 (ofBytes (l.take 4).reverse)

/-- The bytes of a number, highest first. -/
def beBytes (n w : Nat) : List Byte := (bytesOf n w).reverse

/-- The 16 words of a block. -/
def blockWords (l : List Byte) : List (BitVec 32) := (List.range 16).map (fun j => beWord (l.drop (4 * j)))

/-- The XOR of three rotations of a word; the last is a shift where `sh` is set. -/
def rot3 (sh : Bool) (i j k : Nat) (x : BitVec 32) : BitVec 32 :=
  [x.rotateRight i, x.rotateRight j, if sh then x >>> k else x.rotateRight k].foldl (· ^^^ ·) 0

/-- The compression at work: the next 16 schedule words, oldest first, and the last four words each of the two
    sequences the rounds make, newest first (a to d of FIPS 180-4 and e to h). -/
structure ShaWork where
  /-- schedule words -/
  win : List (BitVec 32)
  /-- a, b, c, d -/
  top : List (BitVec 32)
  /-- e, f, g, h -/
  low : List (BitVec 32)
  deriving DecidableEq, Repr

/-- One round with its constant; the window slides on by the schedule word 16 rounds ahead. -/
def ShaWork.round (s : ShaWork) (k : BitVec 32) : ShaWork :=
  let w := fun j => s.win.getD j 0
  let a := fun j => s.top.getD j 0
  let e := fun j => s.low.getD j 0
  let pick := e 2 ^^^ (e 0 &&& (e 1 ^^^ e 2))
  let most := (a 0 &&& (a 1 ||| a 2)) ||| (a 1 &&& a 2)
  let add := [e 3, rot3 false 6 11 25 (e 0), pick, k, w 0].sum
  { win := s.win.drop 1 ++ [[w 0, rot3 true 7 18 3 (w 1), w 9, rot3 true 17 19 10 (w 14)].sum],
    top := [[add, rot3 false 2 13 22 (a 0), most].sum, a 0, a 1, a 2],
    low := [a 3 + add, e 0, e 1, e 2] }

/-- One block into the eight hash words. -/
def shaBlock (h : List (BitVec 32)) (blk : List Byte) : List (BitVec 32) :=
  let s := shaK.foldl ShaWork.round { win := blockWords blk, top := h.take 4, low := h.drop 4 }
  List.zipWith (· + ·) h (s.top ++ s.low)

/-- `n` blocks of a padded message. -/
def shaBlocks : Nat → List (BitVec 32) → List Byte → List (BitVec 32)
  | 0, h, _ => h
  | n + 1, h, l => shaBlocks n (shaBlock h (l.take 64)) (l.drop 64)

/-- SHA-256 of a byte string, 32 bytes. -/
def sha256 (l : List Byte) : List Byte :=
  let padded := l ++ [0x80] ++ zeros ((119 - l.length % 64) % 64) ++ beBytes 8 (8 * l.length)
  (shaBlocks (padded.length / 64) shaH padded).flatMap (fun w => beBytes 4 w.toNat)

/-! ## LMS and HSS (RFC 8554) -/

/-- Height of an LMS_SHA256_M32 tree by its type code: H5, H10, H15, H20, H25. -/
def lmsHeight (t : Nat) : Option Nat := if 5 ≤ t ∧ t ≤ 9 then some (5 * (t - 4)) else none

/-- The Winternitz chain of LMOTS_SHA256_N32_W4 element `i` from digit `a` to 15. -/
def otsChain (I : List Byte) (q i : Nat) : Nat → Nat → List Byte → List Byte
  | 0, _, t => t
  | n + 1, j, t => otsChain I q i n (j + 1) (sha256 (I ++ beBytes 4 q ++ beBytes 2 i ++ beBytes 1 j ++ t))

/-- The public-key candidate of an LMOTS_SHA256_N32_W4 signature over a message. -/
def otsCandidate (I : List Byte) (q : Nat) (sig msg : List Byte) : List Byte :=
  let C := (sig.drop 4).take 32
  let Q := sha256 (I ++ beBytes 4 q ++ beBytes 2 0x8181 ++ C ++ msg)
  let dig := Q.flatMap (fun b => [b.toNat / 16, b.toNat % 16])
  let ck := (dig.foldl (fun a x => a + (15 - x)) 0) * 16
  let all := dig ++ [ck / 4096 % 16, ck / 256 % 16, ck / 16 % 16]
  let z := (List.range 67).flatMap (fun i =>
    let a := all.getD i 0
    otsChain I q i (15 - a) a ((sig.drop (36 + 32 * i)).take 32))
  sha256 (I ++ beBytes 4 q ++ beBytes 2 0x8080 ++ z)

/-- Up the Merkle path from a node to the root. -/
def lmsClimb (I : List Byte) : Nat → Nat → List Byte → List Byte → List Byte
  | 0, _, _, t => t
  | n + 1, node, path, t =>
    let p := path.take 32
    let t' := sha256 (I ++ beBytes 4 (node / 2) ++ beBytes 2 0x8383 ++ (if node % 2 = 1 then p ++ t else t ++ p))
    lmsClimb I n (node / 2) (path.drop 32) t'

/-- A big-endian number of a byte list. -/
def beNum (l : List Byte) (o n : Nat) : Nat := ofBytes ((l.drop o).take n).reverse

/-- The length of an LMS signature under LMOTS_SHA256_N32_W4 with tree height `h`. -/
def lmsSigLen (h : Nat) : Nat := 4 + 2180 + 4 + 32 * h

/-- An LMS signature over a message verifies under a 56-byte LMS public key. -/
def lmsVerify (pub sig msg : List Byte) : Bool :=
  match lmsHeight (beNum pub 0 4) with
  | none => false
  | some h =>
    let I := (pub.drop 8).take 16
    let q := beNum sig 0 4
    decide (beNum pub 4 4 = 3) && decide (sig.length = lmsSigLen h) && decide (beNum sig 4 4 = 3) &&
    decide (beNum sig 2184 4 = beNum pub 0 4) && decide (q < 2 ^ h) &&
    decide (lmsClimb I h (2 ^ h + q) (sig.drop 2188)
      (sha256 (I ++ beBytes 4 (2 ^ h + q) ++ beBytes 2 0x8282 ++ otsCandidate I q (sig.drop 4) msg))
      = (pub.drop 24).take 32)

/-- The levels of an HSS signature below the first `n` signed keys. -/
def hssLevels : Nat → List Byte → List Byte → List Byte → Bool
  | 0, pub, sig, msg => lmsVerify pub sig msg
  | n + 1, pub, sig, msg =>
    match lmsHeight (beNum sig 2184 4) with
    | none => false
    | some h =>
      let len := lmsSigLen h
      let next := (sig.drop len).take 56
      lmsVerify pub (sig.take len) next && hssLevels n next (sig.drop (len + 56)) msg

/-- 15 R424: every level of an HSS key and signature uses H10, H15, H20 or H25. -/
def hssTypesOk : Nat → List Byte → List Byte → Bool
  | 0, pub, _ => decide (6 ≤ beNum pub 0 4) && decide (beNum pub 0 4 ≤ 9) && decide (beNum pub 4 4 = 3)
  | n + 1, pub, sig =>
    decide (6 ≤ beNum pub 0 4) && decide (beNum pub 0 4 ≤ 9) && decide (beNum pub 4 4 = 3) &&
    (match lmsHeight (beNum pub 0 4) with
     | none => false
     | some h => hssTypesOk n ((sig.drop (lmsSigLen h)).take 56) (sig.drop (lmsSigLen h + 56)))

/-- An HSS signature over a message verifies under a 60-byte HSS public key, with L from 1 to 3 and the parameter sets that
15 R424 allows. -/
def hssVerify (key sig msg : List Byte) : Bool :=
  let L := beNum key 0 4
  decide (key.length = 60) && decide (1 ≤ L) && decide (L ≤ 3) && decide (beNum sig 0 4 + 1 = L) &&
  hssTypesOk (L - 1) (key.drop 4) (sig.drop 4) && hssLevels (L - 1) (key.drop 4) (sig.drop 4) msg

/-- A well-formed 60-byte HSS public key (16 R467): L from 1 to 3 and the types of 15 R424. -/
def hssKeyOk (key : List Byte) : Bool :=
  decide (key.length = 60) && decide (1 ≤ beNum key 0 4) && decide (beNum key 0 4 ≤ 3) &&
  decide (6 ≤ beNum key 4 4) && decide (beNum key 4 4 ≤ 9) && decide (beNum key 8 4 = 3)

end Sys2Proof.Machine
end

