-- ==== Sys2Proof/Machine/Signature.lean ====
section
/-! DEFINITION. Signatures (06): the header and sections, the checks of `sv.sigload` orders 3 to 7 (R164), and the step lists run on
one problem (R159 to R161, R167 to R173, R573). -/

namespace Sys2Proof.Machine

/-! ## Header and step words (R157 to R160) -/

/-- 64-bit word `j` of a signature. -/
def sgw (b : List Byte) (j : Nat) : Nat := numAt b (8 * j) 8

/-- The fields of a signature header (R157). -/
structure SigHdr where
  magic : Nat
  version : Nat
  id : Nat
  crc : Nat
  size : Nat
  op : Nat
  policy : Nat
  n : Nat
  m : Nat
  e : Nat
  ef : Nat
  dd : Nat
  lp : Nat
  f : Nat
  fs : Nat
  fr : Nat
  deriving DecidableEq, Repr

/-- The header of a signature. -/
def sigHdr (b : List Byte) : SigHdr :=
  let w0 := sgw b 0
  let w1 := sgw b 1
  let w2 := sgw b 2
  let w3 := sgw b 3
  let w4 := sgw b 4
  let w5 := sgw b 5
  { magic := bits w0 31 0, version := bits w0 47 32, id := bits w1 31 0, crc := bits w1 63 32, size := bits w2 16 0,
    op := bits w2 34 32, policy := bits w2 35 35, n := bits w2 47 40, m := bits w2 55 48, e := bits w3 15 0,
    ef := bits w3 31 16, dd := bits w3 47 32, lp := bits w3 63 48, f := bits w4 31 0, fs := bits w4 63 32, fr := bits w5 31 0 }

/-- Offset and count of section `k` (R157, words 6 to 9). -/
def sigSect (b : List Byte) (k : Nat) : Nat × Nat := (numAt b (48 + 4 * k) 2, numAt b (50 + 4 * k) 2)

/-- Bytes of one counted element of section `k` (R158, R160). -/
def sigElem (k : Nat) : Nat := if k = 0 then 1 else if k ≤ 2 then 2 else 24

/-- A step word (R160). -/
structure StepWord where
  op : Nat
  tile : Nat
  tspan : Nat
  pv : Bool
  fin : Bool
  rows : Nat
  cols : Nat
  di : Nat
  dk : Nat
  ai : Nat
  ak : Nat
  bi : Nat
  bk : Nat
  lt : Bool
  rsv : Bool
  dst : Nat
  drs : Nat
  dcs : Nat
  a : Nat
  ars : Nat
  acs : Nat
  b : Nat
  brs : Nat
  bcs : Nat
  deriving DecidableEq, Repr

/-- The step word at byte offset `o`. -/
def stepAt (b : List Byte) (o : Nat) : StepWord :=
  let w0 := numAt b o 8
  let w1 := numAt b (o + 8) 8
  let w2 := numAt b (o + 16) 8
  { op := bits w0 5 0, tile := bits w0 9 6, tspan := bits w0 13 10, pv := bit w0 14, fin := bit w0 15, rows := bits w0 23 16,
    cols := bits w0 31 24, di := bits w0 32 32, dk := bits w0 33 33, ai := bits w0 34 34, ak := bits w0 35 35,
    bi := bits w0 36 36, bk := bits w0 37 37, lt := bit w0 38, rsv := bits w0 47 39 != 0, dst := bits w0 63 48,
    drs := bits w1 15 0, dcs := bits w1 31 16, a := bits w1 47 32, ars := bits w1 63 48, acs := bits w2 15 0,
    b := bits w2 31 16, brs := bits w2 47 32, bcs := bits w2 63 48 }

/-- R160: the index of an operand at (i, k). -/
def opIdx (x xrs xcs xi xk i k : Nat) : Nat := (x + i * xrs + k * xcs + xi * (i * (i - 1) / 2) + xk * (k * (k - 1) / 2)) % 65536

/-- R160: the index at a row that may be negative, as PSWAP's `p − j` (R161). -/
def opIdxZ (x xrs xcs xi xk : Nat) (i : Int) (k : Nat) : Nat :=
  (((x : Int) + i * (xrs : Int) + (k * xcs : Nat) + (xi : Int) * (i * (i - 1) / 2) + (xk * (k * (k - 1) / 2) : Nat)) % 65536).toNat

/-- Index of d. -/
def StepWord.d (s : StepWord) (i k : Nat) : Nat := opIdx s.dst s.drs s.dcs s.di s.dk i k
/-- Index of a. -/
def StepWord.ia (s : StepWord) (i k : Nat) : Nat := opIdx s.a s.ars s.acs s.ai s.ak i k
/-- Index of b. -/
def StepWord.ib (s : StepWord) (i k : Nat) : Nat := opIdx s.b s.brs s.bcs s.bi s.bk i k

/-- R160: every element of a run, rows first. -/
def StepWord.grid (s : StepWord) : List (Nat × Nat) :=
  (List.range (s.rows + 1)).flatMap (fun i => (List.range (s.cols + 1)).map (fun k => (i, k)))

/-- R160: the elements that a run handles. -/
def StepWord.elems (s : StepWord) : List (Nat × Nat) := s.grid.filter (fun x => !(s.lt && decide (x.1 < x.2)))

/-- The step words of section `k`, with their offsets. -/
def sigList (b : List Byte) (k : Nat) : List (Nat × StepWord) :=
  (List.range (sigSect b k).2).map (fun j => ((sigSect b k).1 + 24 * j, stepAt b ((sigSect b k).1 + 24 * j)))

/-- An element (row, column) of a map section. -/
def mapAt (b : List Byte) (o : Nat) : Nat × Nat := (numAt b o 1, numAt b (o + 1) 1)

/-- The factor map (R158). -/
def sigFmap (b : List Byte) : List (Nat × Nat) := (List.range (sigSect b 2).2).map (fun j => mapAt b ((sigSect b 2).1 + 2 * j))

/-! ## Operands (R159, R572, R573) -/

/-- What an operand index names. -/
inductive Opnd where
  | fac (f : Nat)
  | val (e : Nat)
  | rhs (i : Nat)
  | wrk (i : Nat)
  | sol (i : Nat)
  | fwd (n : Nat)
  | one
  | zero
  deriving DecidableEq, Repr

/-- R159, R572: the operand of an index; none for an unused or out-of-range one. -/
def sigOpnd (h : SigHdr) (x : Nat) : Option Opnd :=
  if x < 0x4100 then (if x < h.ef then some (.fac x) else none)
  else if 0x8000 ≤ x ∧ x < 0xC000 then (if x - 0x8000 < h.e then some (.val (x - 0x8000)) else none)
  else if 0xC000 ≤ x ∧ x < 0xC080 then (if x - 0xC000 < h.m then some (.rhs (x - 0xC000)) else none)
  else if 0xC100 ≤ x ∧ x < 0xC180 then (if x - 0xC100 < h.m then some (.wrk (x - 0xC100)) else none)
  else if 0xC200 ≤ x ∧ x < 0xC280 then (if x - 0xC200 < h.n then some (.sol (x - 0xC200)) else none)
  else if 0xFF00 ≤ x ∧ x < 0xFF04 then some (.fwd (x - 0xFF00))
  else if x = 0xFF10 then some .one
  else if x = 0xFF11 then some .zero
  else none

/-- A pipeline operation. -/
def pipeOp (op : Nat) : Bool := decide (8 ≤ op) && decide (op ≤ 0xB)

/-- R161: the operation reads its old d. -/
def readsD (op : Nat) : Bool := op == 1 || op == 2
/-- R161: the operation reads b. -/
def readsB (op : Nat) : Bool := op == 1 || op == 2 || op == 3 || op == 5 || op == 0xA

/-- R573: list `l` (0 factor, 1 solve, 2 residual, 3 update) of a signature may hold the operation. -/
def listOp (sop l op : Nat) : Bool :=
  (decide (1 ≤ op) && decide (op ≤ 5)) || (l == 0 && pipeOp op) || (l == 0 && sop == 1 && (op == 0x10 || op == 0x11)) ||
    (l == 1 && sop == 1 && op == 0x12)

/-- R573: list `l` may read the operand. -/
def listReads (l : Nat) : Opnd → Bool
  | .one | .zero => true
  | .fac _ => l == 0 || l == 1
  | .val _ => l == 0 || l == 2
  | .fwd _ => l == 0
  | .rhs _ => l == 2
  | .wrk _ => l != 0
  | .sol _ => l == 2 || l == 3

/-- R573: list `l` may write the operand. -/
def listWrites (l op : Nat) : Opnd → Bool
  | .fac _ => l == 0
  | .fwd _ => l == 0 && pipeOp op
  | .wrk _ => l == 1 || l == 2
  | .sol _ => l == 3
  | _ => false

/-- An operand index that list `l` may read. -/
def readOk (h : SigHdr) (l x : Nat) : Bool :=
  match sigOpnd h x with
  | some o => listReads l o
  | none => false

/-- An operand index that a word of list `l` may write; a FINAL word writes factor entries only. -/
def writeOk (h : SigHdr) (l op : Nat) (fin : Bool) (x : Nat) : Bool :=
  match sigOpnd h x with
  | some o => listWrites l op o && (!fin || (match o with
      | .fac _ => true
      | _ => false))
  | none => false

/-- R164 order 7, R161, R573: a step word of list `l` is well formed. -/
def stepOk (h : SigHdr) (l : Nat) (s : StepWord) : Bool :=
  !s.rsv && decide (s.tile + s.tspan ≤ 15) && listOp h.op l s.op &&
  (!s.pv || (l == 0 && (s.op == 4 || s.op == 8 || s.op == 9 || s.op == 0xB) && s.rows == 0 && s.cols == 0 && s.brs == 0 &&
    s.bcs == 0 && decide (s.b < h.n))) &&
  (!s.fin || (l == 0 && decide (s.op < 0x10))) &&
  (match s.op with
   | 0x10 => decide (s.b < h.n) && s.elems.all (fun x => readOk h l (s.ia x.1 x.2))
   | 0x11 => decide (s.b < h.n) && s.grid.all (fun x => writeOk h l s.op false (s.d x.1 x.2))
   | 0x12 => decide (s.b + s.rows < h.n)
   | _ => s.elems.all (fun x => readOk h l (s.ia x.1 x.2) && (!readsB s.op || readOk h l (s.ib x.1 x.2)) &&
       writeOk h l s.op s.fin (s.d x.1 x.2)))

/-! ## The pattern (R154 to R156) -/

/-- Row `i` of a canonical description, as a bit mask of columns with its unused high bits. -/
def patRow (b : List Byte) (n i : Nat) : Nat := numAt b (8 + i * ((n + 7) / 8)) ((n + 7) / 8)

/-- R156: the offset in the description of the first byte that breaks it. -/
def patFault (p : List Byte) (n m : Nat) : Option Nat :=
  let op := numAt p 1 1
  let rb := (n + 7) / 8
  if numAt p 0 1 ≠ 1 then some 0
  else if 4 < op then some 1
  else if 1 < numAt p 2 1 then some 2
  else if numAt p 3 1 = 0 ∨ 128 < numAt p 3 1 then some 3
  else if numAt p 4 1 < numAt p 3 1 ∨ 128 < numAt p 4 1 ∨ (op ≠ 4 ∧ numAt p 4 1 ≠ numAt p 3 1) then some 4
  else if numAt p 5 1 ≠ 0 then some 5
  else if numAt p 6 1 ≠ 0 then some 6
  else if numAt p 7 1 ≠ 0 then some 7
  else (List.range m).findSome? (fun i =>
    ((List.range (8 * rb)).find? (fun c =>
      let x := bit (patRow p n i) c
      if n ≤ c then x
      else if (op = 2 ∨ op = 3) ∧ i < c then x
      else if op = 1 ∨ op = 4 ∨ c = i then !x
      else false)).map (fun c => 8 + i * rb + c / 8))

/-- The pattern's rows as masks. -/
def patRows (p : List Byte) (n m : Nat) : List Nat := (List.range m).map (patRow p n)

/-- R154: one column of symbolic elimination on a pattern. -/
def fillCol (op k : Nat) (rows : List Nat) : List Nat :=
  let rk := rows.getD k 0
  let below := (List.range rows.length).foldl (fun a i => if k < i ∧ bit (rows.getD i 0) k then a + 2 ^ i else a) 0
  rows.zipIdx.map (fun x =>
    if k < x.2 ∧ bit x.1 k then
      (if op = 0 then x.1 ||| rk / 2 ^ (k + 1) * 2 ^ (k + 1) else x.1 ||| (below &&& (2 ^ x.2 - 1)))
    else x.1)

/-- R154: the pattern with its fill. -/
def fillRows (op n : Nat) (rows : List Nat) : List Nat :=
  if op = 0 ∨ op = 2 ∨ op = 3 then (List.range n).foldl (fun r k => fillCol op k r) rows else rows

/-- The position of the first element of a list that fails a test or repeats an earlier one. -/
def firstBad (ok : Nat × Nat → Bool) : List (Nat × Nat) → List (Nat × Nat) → Nat → Option Nat
  | [], _, _ => none
  | x :: t, seen, j => if seen.contains x || !ok x then some j else firstBad ok t (x :: seen) (j + 1)

/-! ## The checks of a load, orders 3 to 7 (R164) -/

/-- SIG_FORMAT. -/
def sigFormat (b : List Byte) : Option Nat :=
  let h := sigHdr b
  if h.magic ≠ 0x31575343 then some 0
  else if h.version ≠ 1 then some 4
  else if bits (sgw b 0) 63 48 ≠ 0 then some 6
  else if bits (sgw b 2) 31 17 ≠ 0 then some 18
  else if bits (sgw b 2) 39 36 ≠ 0 then some 20
  else if bits (sgw b 2) 63 56 ≠ 0 then some 23
  else if bits (sgw b 9) 63 32 ≠ 0 then some 76
  else ([10, 11, 12, 13, 14, 15].find? (fun j => sgw b j != 0)).map (8 * ·)

/-- SIZE is in range (R157). -/
def sizeOk (n : Nat) : Bool := n % 8 == 0 && decide (128 ≤ n) && decide (n ≤ 65536)

/-- SIG_LIMIT. -/
def sigLimit (b : List Byte) : Option Nat :=
  let h := sigHdr b
  if h.n = 0 ∨ 128 < h.n then some 21
  else if h.m < h.n ∨ 128 < h.m ∨ (h.op ≠ 4 ∧ h.m ≠ h.n) then some 22
  else if h.e = 0 ∨ 16384 < h.e then some 24
  else if h.ef < h.e ∨ 16640 < h.ef then some 26
  else if h.lp = 0 then some 30
  else (List.range 7).findSome? (fun k =>
    let (o, c) := sigSect b k
    let len := c * sigElem k
    let count := k > 2 || c == (if k = 0 then 8 + h.m * ((h.n + 7) / 8) else if k = 1 then h.e else h.ef)
    let clear := (List.range k).all (fun j =>
      let (o2, c2) := sigSect b j
      len == 0 || c2 == 0 || decide (o + len ≤ o2) || decide (o2 + c2 * sigElem j ≤ o))
    if o % 8 = 0 ∧ 128 ≤ o ∧ o + len ≤ h.size ∧ count ∧ clear then none else some (48 + 4 * k))

/-- R155: the identifier of a description. -/
def patId (p : List Byte) : Nat := ofBytes ((sha256 p).take 4).reverse

/-- SIG_HASH. -/
def sigHash (b : List Byte) : Option Nat :=
  let h := sigHdr b
  let (o, c) := sigSect b 0
  let p := (b.drop o).take c
  match patFault p h.n h.m with
  | some x => some (o + x)
  | none =>
    if patId p ≠ h.id then some 8
    else if numAt p 1 1 ≠ h.op ∨ numAt p 2 1 ≠ h.policy then some 20
    else if numAt p 3 1 ≠ h.n then some 21
    else if numAt p 4 1 ≠ h.m then some 22
    else none

/-- Final writes of factor entry `f` by the factor list. -/
def finalCount (ws : List (Nat × StepWord)) (f : Nat) : Nat :=
  ws.foldl (fun a w => if w.2.fin then a + (w.2.elems.filter (fun x => w.2.d x.1 x.2 == f)).length else a) 0

/-- R157: an operation that takes a tile's FMA slot: FNMA, FMA and MUL (DEDUCED, log entry 59: 05 counts 576 + 24 slots for a residual
of order 24 and its update, and so no MOVE of R139's `r := b`). -/
def fmaOp (op : Nat) : Bool := op == 1 || op == 2 || op == 3

/-- Elements of the words of a list whose operation passes a test. -/
def slotCount (f : Nat → Bool) (ws : List (Nat × StepWord)) : Nat :=
  ws.foldl (fun a w => if f w.2.op then a + w.2.elems.length else a) 0

/-- SIG_INCONSISTENT. -/
def sigInconsistent (b : List Byte) : Option Nat :=
  let h := sigHdr b
  let (o, c) := sigSect b 0
  let rows := patRows ((b.drop o).take c) h.n h.m
  let full := fillRows h.op h.n rows
  let smap := (List.range h.e).map (fun j => mapAt b ((sigSect b 1).1 + 2 * j))
  let fmap := sigFmap b
  let inRows := fun (r : List Nat) (x : Nat × Nat) => decide (x.1 < h.m) && decide (x.2 < h.n) && bit (r.getD x.1 0) x.2
  if rows.foldl (fun a r => a + popcount r h.n) 0 ≠ h.e then some 24
  else match firstBad (inRows full) smap [] 0 with
  | some j => some ((sigSect b 1).1 + 2 * j)
  | none =>
    match firstBad (fun x => inRows full x || (decide (x.2 < h.n) && (x.1 == 0x80 || (x.1 == 0x81 && h.op == 4)))) fmap [] 0 with
    | some j => some ((sigSect b 2).1 + 2 * j)
    | none =>
      match (List.range h.e).find? (fun j => fmap.getD j (0, 0) != smap.getD j (0, 0)) with
      | some j => some ((sigSect b 2).1 + 2 * j)
      | none =>
        match (List.range 4).findSome? (fun l => ((sigList b (3 + l)).find? (fun w => !stepOk h l w.2)).map (·.1)) with
        | some x => some x
        | none =>
          match (List.range h.ef).find? (fun f => finalCount (sigList b 3) f != 1) with
          | some f => some ((sigSect b 2).1 + 2 * f)
          | none =>
            if slotCount pipeOp (sigList b 3) ≠ h.dd then some 28
            else if slotCount fmaOp (sigList b 3) ≠ h.f then some 32
            else if slotCount fmaOp (sigList b 4) ≠ h.fs then some 36
            else if slotCount fmaOp (sigList b 5) + slotCount fmaOp (sigList b 6) ≠ h.fr then some 40
            else none

/-- R164, orders 3 to 7: status and detail of the first failing check; status 0 if all pass. `b` holds at least SIZE bytes, or the
header where SIZE is out of range. -/
def sigCheck (b : List Byte) : Nat × Nat :=
  let h := sigHdr b
  match sigFormat b with
  | some x => (0x304, x)
  | none =>
    if !sizeOk h.size then (0x306, 16)
    else
      let b := b.take h.size
      if crc32c (b.take 12 ++ zeros 4 ++ b.drop 16) ≠ h.crc then (0x305, 12)
      else match sigLimit b with
      | some x => (0x306, x)
      | none => match sigHash b with
        | some x => (0x307, x)
        | none => match sigInconsistent b with
          | some x => (0x308, x)
          | none => (0, 0)

end Sys2Proof.Machine
end

