-- ==== Sys2Proof/Machine/Short.lean ====
section
/-! DEFINITION. The short formats, their block scale, conversions to and from them, the group-exact dot product and the core
generator (03 R73 to R105). -/

namespace Sys2Proof.Machine

/-- A short format: exponent and fraction bits and bias (R85). -/
structure SFmt where
  eb : Nat
  mb : Nat
  bias : Nat
  deriving DecidableEq, Repr

/-- R73, R85: the short format of a format code. -/
def shortOf : Nat → Option SFmt
  | 2 => some ⟨6, 9, 31⟩
  | 3 => some ⟨4, 3, 7⟩
  | 4 => some ⟨5, 2, 15⟩
  | 5 => some ⟨3, 2, 3⟩
  | 6 => some ⟨2, 1, 1⟩
  | _ => none

/-- R73: bits of an element of a format code. -/
def fmtBits : Nat → Nat
  | 0 => 64
  | 1 => 32
  | 2 => 16
  | 3 => 8
  | 4 => 8
  | 5 => 6
  | 6 => 4
  | _ => 0

/-- R88: a block scale is mandatory for cs8p, cs8r, cs6 and cs4. -/
def scaleMandatory (fmt : Nat) : Bool := decide (3 ≤ fmt) && decide (fmt ≤ 6)

/-- The width of a short format. -/
def SFmt.w (F : SFmt) : Nat := F.eb + F.mb + 1
/-- The exponent of the least subnormal. -/
def SFmt.qmin (F : SFmt) : Int := 1 - (F.bias : Int) - F.mb
/-- R84: the NaV code. -/
def SFmt.nav (F : SFmt) : Nat := 2 ^ (F.w - 1)
/-- The code of the largest magnitude. -/
def SFmt.maxCode (F : SFmt) : Nat := 2 ^ (F.w - 1) - 1
/-- R85: ⌊log₂ largest⌋. -/
def SFmt.emax (F : SFmt) : Int := (2 ^ F.eb - 1 : Nat) - (F.bias : Int)

/-- R83, R84, R88, R89: the value of a code under block scale `S`; none is NaV. -/
def SFmt.dec (F : SFmt) (S c : Nat) : Option (Bool × Nat × Int) :=
  if S = 0xFF ∨ c % 2 ^ F.w = F.nav then none
  else
    let s := bit c (F.w - 1)
    let e := bits c (F.w - 2) F.mb
    let f := bits c (F.mb - 1) 0
    let sc : Int := (S : Int) - 127
    if e = 0 then some (s, f, F.qmin + sc) else some (s, 2 ^ F.mb + f, F.qmin + (e - 1 : Nat) + sc)

/-- R98: whether the stochastic rule rounds up, by the generator's word. -/
def stochUp (rem sh r : Nat) : Bool := decide (rem * 2 ^ 32 / 2 ^ sh + r ≥ 2 ^ 32)

/-- R96 to R98: a long-format value to a short code under scale `S` and attribute `rm` (5 is stochastic, with word `r`). -/
def SFmt.enc (F : SFmt) (rm S r : Nat) (x : FVal) : FRes :=
  if S = 0xFF then ⟨F.nav, 0⟩
  else match x with
  | .nan _ _ _ => ⟨F.nav, flInvalid⟩
  | .inf _ => ⟨F.nav, flInvalid⟩
  | .fin s m e0 =>
    if m = 0 then ⟨0, 0⟩
    else
      let e := e0 + 127 - S
      let p := F.mb + 1
      let q := max (e + blen m - p) F.qmin
      let (k, inex) :=
        if q ≤ e then (m * 2 ^ (e - q).toNat, false)
        else
          let sh := (q - e).toNat
          let kept := m / 2 ^ sh
          let rem := m % 2 ^ sh
          let up := if rm = 5 then stochUp rem sh r else roundsUp rm s kept rem sh
          (kept + b2n up, decide (rem ≠ 0))
      let code := (q - F.qmin).toNat * 2 ^ F.mb + k
      if code > F.maxCode then ⟨F.maxCode + b2n s * 2 ^ (F.w - 1), flOverflow + flInexact⟩
      else
        let fl := (if inex then flInexact else 0) + (if inex && decide (code < 2 ^ F.mb) then flUnderflow else 0)
        ⟨if code = 0 then 0 else code + b2n s * 2 ^ (F.w - 1), fl⟩

/-- R100, R101: a short code to a long format. -/
def SFmt.toLong (F : SFmt) (G : FFmt) (rm S c : Nat) : FRes :=
  match F.dec S c with
  | none => ⟨G.dnan, 0⟩
  | some (s, m, e) => if m = 0 then ⟨G.zero false, 0⟩ else G.pack rm s m e

/-- ⌊log₂ |x|⌋ of a non-zero finite value. -/
def ilog2 (m : Nat) (e : Int) : Int := e + (blen m : Int) - 1

/-- R99: the block scale for a block of long values and a target format. -/
def scaleOf (F : SFmt) (xs : List FVal) : Nat :=
  if xs.any (fun x => x.isNan || x.isInf) then 0xFF
  else
    let mx := xs.foldl (fun (a : Option Int) x => match x with
      | .fin _ m e => if m = 0 then a else
        match a with
        | none => some (ilog2 m e)
        | some b => some (max b (ilog2 m e))
      | _ => a) none
    match mx with
    | none => 127
    | some l => (min (max (l - F.emax + 127) 0) 254).toNat

/-! ## Packed storage (R74, R75) -/

/-- The code of element `i` of an operand stored at the head of a byte list. -/
def codeAt (fmt i : Nat) (l : List Byte) : Nat :=
  match fmt with
  | 0 => numAt l (8 * i) 8
  | 1 => numAt l (4 * i) 4
  | 2 => numAt l (2 * i) 2
  | 5 => numAt l (24 * (i / 32)) 24 / 2 ^ (6 * (i % 32)) % 64
  | 6 => (l.getD (i / 2) 0).toNat / 2 ^ (4 * (i % 2)) % 16
  | _ => (l.getD i 0).toNat

/-- Bytes that `n` elements of a format occupy; cs6 and cs4 fill whole blocks. -/
def fmtBytes (fmt n : Nat) : Nat :=
  match fmt with
  | 0 => 8 * n
  | 1 => 4 * n
  | 2 => 2 * n
  | 5 => 24 * ((n + 31) / 32)
  | 6 => 16 * ((n + 31) / 32)
  | _ => n

/-- The stored bytes of a list of codes. -/
def packCodes (fmt : Nat) (cs : List Nat) : List Byte :=
  let w := fmtBits fmt
  bytesOf (fmtBytes fmt cs.length) (cs.reverse.foldl (fun a c => a * 2 ^ w + c % 2 ^ w) 0)

/-! ## The group-exact dot product (R90) -/

/-- The value of an element of a surrogate operand: a short code with its scale, or binary32. NaV reads as a NaN. -/
def elemVal (fmt S c : Nat) : FVal :=
  match shortOf fmt with
  | some F => match F.dec S c with
    | some (s, m, e) => .fin s m e
    | none => .nan false 0 true
  | none => f32.dec c

/-- The exact product of two elements. -/
def prodVal : FVal → FVal → FVal
  | .fin s m e, .fin t n g => .fin (xor s t) (m * n) (e + g)
  | .inf s, .fin t n _ => if n = 0 then .nan false 0 true else .inf (xor s t)
  | .fin s m _, .inf t => if m = 0 then .nan false 0 true else .inf (xor s t)
  | .inf s, .inf t => .inf (xor s t)
  | _, _ => .nan false 0 true

/-- R90: one group folded into accumulator `c`. -/
def groupStep (c : Nat) (xs ys : List FVal) : Nat :=
  let ps := List.zipWith prodVal xs ys
  let nanIn := xs.any FVal.isNan || ys.any FVal.isNan
  let pos := ps.any (fun p => match p with
    | .inf false => true
    | _ => false)
  let neg := ps.any (fun p => match p with
    | .inf true => true
    | _ => false)
  if nanIn || ps.any FVal.isNan || (pos && neg) then (f32.add 0 c f32.dnan).code
  else if pos then (f32.add 0 c (f32.infCode false)).code
  else if neg then (f32.add 0 c (f32.infCode true)).code
  else
    let top := ps.foldl (fun (a : Option Int) p => match p with
      | .fin _ m e => if m = 0 then a else
        match a with
        | none => some (ilog2 m e)
        | some b => some (max b (ilog2 m e))
      | _ => a) none
    match top with
    | none => (f32.add 0 c 0).code
    | some P =>
      let w := ps.foldl (fun (a : Int) p => match p with
        | .fin s m e =>
          let k := e - (P - 56)
          let mag := if 0 ≤ k then m * 2 ^ k.toNat else m / 2 ^ (-k).toNat
          a + sgnInt s mag
        | _ => a) 0
      (f32.add 0 c (f32.packInt 0 false w (P - 56)).code).code

/-! ## The core generator (R103) -/

/-- 32-bit addition. -/
def add32 (a b : Nat) : Nat := (a + b) % 2 ^ 32
/-- 32-bit rotation to the left. -/
def rotl32 (x n : Nat) : Nat := (x * 2 ^ n % 2 ^ 32) + x / 2 ^ (32 - n)

/-- The rotation counts RA and RB of R103. -/
def cgRot : List (Nat × Nat) :=
  [(7, 21), (19, 9), (11, 25), (29, 14), (5, 30), (23, 10), (13, 18), (17, 6), (3, 26), (27, 12)]

/-- One round of R103: its number, rotation counts, key words and the four words. -/
def cgRound (k : List Nat) (r : Nat) (rot : Nat × Nat) (x : Nat × Nat × Nat × Nat) : Nat × Nat × Nat × Nat :=
  let x0 := add32 x.1 x.2.1
  let x1 := rotl32 x.2.1 rot.1 ^^^ x0
  let x2 := add32 x.2.2.1 x.2.2.2
  let x3 := rotl32 x.2.2.2 rot.2 ^^^ x2
  if r % 2 = 1 then
    let j := (r + 1) / 2
    (add32 x0 (k.getD (j % 5) 0), add32 x3 (k.getD ((1 + j) % 5) 0), add32 x2 (k.getD ((2 + j) % 5) 0),
      add32 (add32 x1 (k.getD ((3 + j) % 5) 0)) j)
  else (x0, x3, x2, x1)

/-- The rounds from number `r` on. -/
def cgRounds (k : List Nat) : Nat → List (Nat × Nat) → Nat × Nat × Nat × Nat → Nat × Nat × Nat × Nat
  | _, [], x => x
  | r, rot :: t, x => cgRounds k (r + 1) t (cgRound k r rot x)

/-- R103: the output block of a 128-bit key and counter, as four words. -/
def cgBlock (key ctr : Nat) : List Nat :=
  let kw := fun j => key / 2 ^ (32 * j) % 2 ^ 32
  let cw := fun j => ctr / 2 ^ (32 * j) % 2 ^ 32
  let k4 := kw 0 ^^^ kw 1 ^^^ kw 2 ^^^ kw 3 ^^^ 0x5C4F2A93
  let k := [kw 0, kw 1, kw 2, kw 3, k4]
  let y := cgRounds k 0 cgRot (add32 (cw 0) (kw 0), add32 (cw 1) (kw 1), add32 (cw 2) (kw 2), add32 (cw 3) (kw 3))
  [y.1, y.2.1, y.2.2.1, y.2.2.2]

/-- R104: the word that element position `i` takes. -/
def cgWord (key ctr i : Nat) : Nat := (cgBlock key ((ctr + i / 4) % 2 ^ 128)).getD (i % 4) 0

end Sys2Proof.Machine
end

