-- ==== Sys2Proof/Machine/Surrogate.lean ====
section
/-! DEFINITION. The surrogate engine (04): products of matrices in the core store, and the re-execution row shared by every engine and
mover (17 R484). -/

namespace Sys2Proof.Machine

/-- An operand descriptor (04, table of the operand descriptor); `rsv` says that a reserved bit is set. -/
structure SgOpnd where
  addr : Nat
  fmt : Nat
  scaled : Bool
  ld : Nat
  saddr : Nat
  sld : Nat
  bs : Nat
  sbs : Nat
  rsv : Bool
  deriving DecidableEq, Repr

/-- The descriptor at word `w` of a parameter block. -/
def sgOpnd (ws : List Word) (w : Nat) : SgOpnd :=
  let w0 := wd ws w
  let w1 := wd ws (w + 1)
  let w2 := wd ws (w + 2)
  let w3 := wd ws (w + 3)
  { addr := bits w0 22 0, fmt := bits w0 35 32, scaled := bit w0 36, ld := bits w1 23 0, saddr := bits w2 22 0,
    sld := bits w2 55 32, bs := bits w3 23 0, sbs := bits w3 55 32,
    rsv := bits w0 31 23 != 0 || bits w0 63 37 != 0 || bits w1 63 24 != 0 || bits w2 31 23 != 0 || bits w2 63 56 != 0 ||
      bits w3 31 24 != 0 || bits w3 63 56 != 0 }

/-- A surrogate product's parameters (04, table of the parameter block). -/
structure SgParam where
  a : SgOpnd
  b : SgOpnd
  c : SgOpnd
  m : Nat
  n : Nat
  k : Nat
  batch : Nat
  ta : Bool
  tb : Bool
  acc : Bool
  epi : Nat
  baxis : Bool
  alpha : Nat
  baddr : Nat
  bbs : Nat
  rsv : Bool
  deriving DecidableEq, Repr

/-- The parameters of a block; `sg.mm` takes BATCH as 1. -/
def sgParam (batched : Bool) (ws : List Word) : SgParam :=
  let w12 := wd ws 12
  let w13 := wd ws 13
  let w14 := wd ws 14
  let w15 := wd ws 15
  { a := sgOpnd ws 0, b := sgOpnd ws 4, c := sgOpnd ws 8, m := bits w12 15 0, n := bits w12 31 16, k := bits w12 47 32,
    batch := if batched then bits w12 63 48 else 1, ta := bit w13 0, tb := bit w13 1, acc := bit w13 2, epi := bits w13 4 3,
    baxis := bit w13 5, alpha := bits w14 31 0, baddr := bits w14 54 32, bbs := bits w15 23 0,
    rsv := bits w13 63 6 != 0 || bits w14 63 55 != 0 || bits w15 63 24 != 0 }

/-- R109: bytes of one stored row of `cols` elements. -/
def rowBytes (fmt cols : Nat) : Nat := fmtBytes fmt cols

/-- R109: stored rows and columns of A, B and C. -/
def SgParam.shape (g : SgParam) (part : Nat) : Nat × Nat :=
  match part with
  | 0 => if g.ta then (g.k, g.m) else (g.m, g.k)
  | 1 => if g.tb then (g.n, g.k) else (g.k, g.n)
  | _ => (g.m, g.n)

/-- The operand of a part. -/
def SgParam.opnd (g : SgParam) (part : Nat) : SgOpnd :=
  match part with
  | 0 => g.a
  | 1 => g.b
  | _ => g.c

/-- The first byte and length of a checked range: part, address in item 0, item stride, length (R122, R123). -/
def SgParam.spans (g : SgParam) : List (Nat × Nat × Nat × Nat) :=
  ([0, 1, 2].map (fun p =>
    let o := g.opnd p
    let s := g.shape p
    (p, o.addr, o.bs, (s.1 - 1) * o.ld + rowBytes o.fmt s.2))) ++
  (if 2 ≤ g.epi then [(3, g.baddr, g.bbs, 4 * (if g.baxis then g.m else g.n))] else []) ++
  (if g.a.scaled then [(4, g.a.saddr, g.a.sbs, (g.m - 1) * g.a.sld + g.k / 32)] else []) ++
  (if g.b.scaled then [(5, g.b.saddr, g.b.sbs, (g.n - 1) * g.b.sld + g.k / 32)] else [])

/-- R114: SCALED or FMT of an input operand is wrong. -/
def sgFmtBad (o : SgOpnd) : Bool :=
  o.rsv || o.fmt == 0 || decide (6 < o.fmt) || (scaleMandatory o.fmt && !o.scaled) || (o.fmt == 1 && o.scaled)

/-- R92: the pairs of input formats. -/
def sgPairOk (a b : Nat) : Bool := a == b || (a == 3 && b == 4) || (a == 4 && b == 3)

/-- cs6 or cs4. -/
def packed (fmt : Nat) : Bool := fmt == 5 || fmt == 6

/-- R113: the operand's alignment or LD is wrong. -/
def SgParam.alignBad (g : SgParam) (part : Nat) : Bool :=
  let o := g.opnd part
  o.addr % 64 != 0 || o.ld % 64 != 0 || o.bs % 64 != 0 || decide (o.ld < rowBytes o.fmt (g.shape part).2)

/-- Two ranges meet. -/
def meets (a n b k : Nat) : Bool := decide (a < b + k) && decide (b < a + n)

/-- R122, R123: the parts other than C that the C of item `i` meets, in any item. -/
def SgParam.hits (g : SgParam) (i : Nat) : List Nat :=
  let len := (g.m - 1) * g.c.ld + rowBytes 1 g.n
  let s := g.c.addr + i * g.c.bs
  (g.spans.filter (fun p => p.1 != 2 &&
    (List.range g.batch).any (fun j => meets s len (p.2.1 + j * p.2.2.1) p.2.2.2))).map (·.1)

/-- R122: the C of item `i` meets the C of another item. -/
def SgParam.cHits (g : SgParam) (i : Nat) : Bool :=
  let len := (g.m - 1) * g.c.ld + rowBytes 1 g.n
  (List.range g.batch).any (fun j => j != i && meets (g.c.addr + i * g.c.bs) len (g.c.addr + j * g.c.bs) len)

/-- R122, R123, R571: the first failing status and its detail; status 0 if the command is valid. K has to be a multiple of 16 if both
formats are binary32, and of 32 otherwise; an SLD below K/32 names the operand's scales, parts 4 and 5 (DESIGN CHOICE, log entry
58). -/
def SgParam.check (g : SgParam) : Nat × Nat :=
  let kq := if g.a.fmt = 1 ∧ g.b.fmt = 1 then 16 else 32
  if g.m = 0 ∨ g.n = 0 ∨ g.k = 0 ∨ g.k % kq ≠ 0 ∨ g.batch = 0 then (0x200, 15)
  else if sgFmtBad g.a then (0x201, 0)
  else if sgFmtBad g.b || !sgPairOk g.a.fmt g.b.fmt then (0x201, 1)
  else if g.c.rsv || g.c.fmt != 1 || g.c.scaled then (0x201, 2)
  else if g.rsv then (0x201, 15)
  else if packed g.a.fmt && g.ta then (0x202, 0)
  else if packed g.b.fmt && !g.tb then (0x202, 1)
  else if g.a.sld < g.k / 32 then (0x202, 4)
  else if g.b.sld < g.k / 32 then (0x202, 5)
  else if g.alignBad 0 then (stDescAlign, 0)
  else if g.alignBad 1 then (stDescAlign, 1)
  else if g.alignBad 2 then (stDescAlign, 2)
  else if 2 ≤ g.epi ∧ g.baddr % 64 ≠ 0 then (stDescAlign, 3)
  else
    match (List.range g.batch).findSome? (fun i =>
      (g.spans.find? (fun p => decide (coreStoreSize < p.2.1 + i * p.2.2.1 + p.2.2.2))).map (fun p => p.1 + i * 2 ^ 16)) with
    | some x => (stBounds, x)
    | none =>
      match (List.range g.batch).findSome? (fun i =>
        match g.hits i with
        | p :: _ => some (p + i * 2 ^ 16)
        | [] => if g.cHits i then some (2 + i * 2 ^ 16) else none) with
      | some x => (stOverlap, x)
      | none => (0, 0)

/-- R109: the code of stored element (r, col) of an operand. -/
def Dev.sgCode (d : Dev) (c : Nat) (o : SgOpnd) (item r col : Nat) : Nat :=
  let row := o.addr + item * o.bs + r * o.ld
  if packed o.fmt then
    let n := fmtBytes o.fmt 32
    codeAt o.fmt (col % 32) (d.csRead c (row + col / 32 * n) n)
  else
    let n := fmtBits o.fmt / 8
    d.csNum c (row + col * n) n

/-- R110, R88: the scale of a line for k-block `kb`. -/
def Dev.sgScale (d : Dev) (c : Nat) (o : SgOpnd) (item line kb : Nat) : Nat :=
  if o.scaled then d.csNum c (o.saddr + item * o.sbs + line * o.sld + kb) 1 else 127

/-- Element k of line `line` of op(A) (row) or op(B) (column): `down` says that k runs down the stored rows. -/
def Dev.sgElem (d : Dev) (c : Nat) (o : SgOpnd) (item line k : Nat) (down : Bool) : FVal :=
  elemVal o.fmt (d.sgScale c o item line (k / 32)) (if down then d.sgCode c o item k line else d.sgCode c o item line k)

/-- R116: the epilogue on an accumulator. -/
def sgEpilogue (epi alpha acc bias : Nat) : Nat :=
  match epi with
  | 1 => (f32.mul 0 alpha acc).code
  | 2 => (f32.add 0 acc bias).code
  | 3 => (f32.fma 0 alpha acc bias).code
  | _ => acc

/-- R108: the binary32 written to C[i][j] of an item. -/
def Dev.sgOut (d : Dev) (c : Nat) (g : SgParam) (item i j : Nat) : Nat :=
  let gs := if g.a.fmt = 1 then 16 else 32
  let acc0 := if g.acc then d.sgCode c g.c item i j else 0
  let acc := (List.range (g.k / gs)).foldl (fun acc kb =>
    let ks := addrs (kb * gs) gs
    groupStep acc (ks.map (fun k => d.sgElem c g.a item i k g.ta)) (ks.map (fun k => d.sgElem c g.b item j k (!g.tb)))) acc0
  let bias := if 2 ≤ g.epi then d.csNum c (g.baddr + item * g.bbs + 4 * (if g.baxis then i else j)) 4 else 0
  sgEpilogue g.epi g.alpha acc bias

/-- R117: the blocks of 128 along a dimension: first index and count. -/
def sgBlocks (n : Nat) : List (Nat × Nat) := (List.range ((n + 127) / 128)).map (fun b => (128 * b, min 128 (n - 128 * b)))

/-- R117, R118: the writes of one output block: its rows. -/
def Dev.sgBlock (d : Dev) (c : Nat) (g : SgParam) (item : Nat) (bi bj : Nat × Nat) : List Wr :=
  (addrs bi.1 bi.2).map (fun i =>
    ⟨.core c, g.c.addr + item * g.c.bs + i * g.c.ld + 4 * bj.1,
      (addrs bj.1 bj.2).flatMap (fun j => bytesOf 4 (d.sgOut c g item i j))⟩)

/-- R117: every output block, in order: item, block row, block column. -/
def Dev.sgUnits (d : Dev) (c : Nat) (g : SgParam) : List (List Wr) :=
  (List.range g.batch).flatMap (fun item =>
    (sgBlocks g.m).flatMap (fun bi => (sgBlocks g.n).map (fun bj => d.sgBlock c g item bi bj)))

/-- The core-store ranges that a product reads: rows of A and B, scales, bias, and C with ACC 1. -/
def SgParam.reads (g : SgParam) : List (Nat × Nat) :=
  (List.range g.batch).flatMap (fun item =>
    ([0, 1].flatMap (fun p => (List.range (g.shape p).1).map (fun r =>
      ((g.opnd p).addr + item * (g.opnd p).bs + r * (g.opnd p).ld, rowBytes (g.opnd p).fmt (g.shape p).2)))) ++
    (if g.acc then (List.range g.m).map (fun r => (g.c.addr + item * g.c.bs + r * g.c.ld, 4 * g.n)) else []) ++
    ((g.spans.filter (fun p => p.1 == 3)).map (fun p => (p.2.1 + item * p.2.2.1, p.2.2.2))) ++
    (if g.a.scaled then (List.range g.m).map (fun r => (g.a.saddr + item * g.a.sbs + r * g.a.sld, g.k / 32)) else []) ++
    (if g.b.scaled then (List.range g.n).map (fun r => (g.b.saddr + item * g.b.sbs + r * g.b.sld, g.k / 32)) else []))

/-- The newest run of a surrogate queue: validated, then its blocks (R122, R117). -/
def Dev.sgRun (q : Nat) (batched : Bool) (bad : Option Nat) (d : Dev) : Dev :=
  let c := d.qTarget q
  let g := sgParam batched (d.runParams q)
  let st := g.check
  if st.1 ≠ 0 then d.finish q st.1 st.2 
  else
    let us := d.sgUnits c g
    d.engineCmd q 0 0 (us.map (fun _ => [1])) g.reads us bad

/-- SG_MM (R108 to R118, R122, R123, R571). -/
def execSgMm (q : Nat) (bad : Silicon) (s : State) : Host.Outcome State Fault Refusal :=
  s.upd (Dev.startHit q 0x210 bad (fun _ d => d.sgRun q false bad.unit))

/-- SG_MMB (R117, R122). -/
def execSgMmb (q : Nat) (bad : Silicon) (s : State) : Host.Outcome State Fault Refusal :=
  s.upd (Dev.startHit q 0x211 bad (fun _ d => d.sgRun q true bad.unit))

end Sys2Proof.Machine
end

