-- ==== Sys2Proof/Machine/Solver.lean ====
section
/-! DEFINITION. The solver engine (05, 06): quires, binding, factorising, solving and refining, and loading signatures. -/

namespace Sys2Proof.Machine

/-! ## Running step lists on one problem (R138, R139, R143, R159 to R161, R167 to R173) -/

/-- One problem as the lists see it: codes of the values in both formats, factors in the factorisation's format, pivot-row bytes, the
right-hand side, working and solution vectors, forwarding registers (format, code), exception flags, and the inputs on which its free
values depend (R148, 06 R153). `taulock` are τ entries held at +0 (R168). -/
structure SvEnv where
  h : SigHdr
  fmap : List (Nat × Nat)
  key : List Nat
  p32 : Bool
  vals : List Nat
  vals32 : List Nat
  fac : List Nat
  piv : List Nat
  rhs : List Nat
  wrk : List Nat
  sol : List Nat
  fwd : List (Option (FFmt × Nat))
  flags : Nat
  floor : Nat
  policy : Nat
  glimit : Option Nat
  floors : Nat
  ovf : Option Nat
  growth : Option Nat
  taulock : List Nat
  deriving DecidableEq, Repr

/-- A value that the spec leaves open, by the problem's inputs and an operand index (log entry 6): equal inputs give equal values. -/
def SvEnv.free (e : SvEnv) (x : Nat) : Nat := (Config.freeOf e.key x).toNat

/-- The format of the factorisation (R143). -/
def SvEnv.fmt (e : SvEnv) : FFmt := if e.p32 then f32 else f64

/-- The code of +1 in a format. -/
def FFmt.one (F : FFmt) : Nat := F.bias * 2 ^ F.mb

/-- Flags accumulate (R142). -/
def SvEnv.flag (e : SvEnv) (fl : Nat) : SvEnv := { e with flags := e.flags ||| fl }

/-- An operand's code widened or narrowed to format `F`. -/
def toFmt (F G : FFmt) (c : Nat) : Nat := if F = G then c else (cvtLong G F 0 c).code

/-- The code of the operand at index `x` in format `F`, in list `l` (R143, R159, R572). -/
def SvEnv.read (e : SvEnv) (l : Nat) (F : FFmt) (x : Nat) : Nat :=
  match sigOpnd e.h x with
  | some (.fac f) => toFmt F e.fmt (e.fac.getD f 0)
  | some (.val j) => if l = 0 ∧ e.p32 then toFmt F f32 (e.vals32.getD j 0) else toFmt F f64 (e.vals.getD j 0)
  | some (.rhs i) => toFmt F f64 (e.rhs.getD i 0)
  | some (.wrk i) => toFmt F f64 (e.wrk.getD i 0)
  | some (.sol i) => toFmt F f64 (e.sol.getD i 0)
  | some (.fwd n) =>
    (match e.fwd.getD n none with
     | some (G, c) => toFmt F G c
     | none => e.free x % 2 ^ F.w)
  | some .one => F.one
  | some .zero => 0
  | none => e.free x % 2 ^ F.w

/-- A code of format `F` written to the operand at index `x`; a read-only operand keeps its value. -/
def SvEnv.write (e : SvEnv) (F : FFmt) (x c : Nat) : SvEnv :=
  match sigOpnd e.h x with
  | some (.fac f) => { e with fac := e.fac.set f (if e.taulock.contains f then 0 else toFmt e.fmt F c) }
  | some (.wrk i) => { e with wrk := e.wrk.set i (toFmt f64 F c) }
  | some (.sol i) => { e with sol := e.sol.set i (toFmt f64 F c) }
  | some (.fwd n) => { e with fwd := e.fwd.set n (some (F, c)) }
  | _ => e

/-- R161: the result of an arithmetic or pipeline operation. -/
def stepResult (F : FFmt) (op a b d : Nat) : FRes :=
  match op with
  | 1 => F.fnma 0 a b d
  | 2 => F.fma 0 a b d
  | 3 => F.mul 0 a b
  | 5 => ⟨F.abs a + (if bit b (F.w - 1) then 0 else 2 ^ (F.w - 1)), 0⟩
  | 8 => F.div 0 F.one a
  | 9 => F.rsqrt 0 a
  | 0xA => F.div 0 a b
  | 0xB => F.sqrt 0 a
  | _ => ⟨a, 0⟩

/-- What ended a factorisation early: code (1 SINGULAR, 2 NOT_SPD) and column. -/
structure SvStop where
  code : Nat
  col : Nat
  deriving DecidableEq, Repr

/-- R168: the pivot test of a PV word: the value the word uses, or the end of the problem. -/
def SvEnv.pivot (e : SvEnv) (F : FFmt) (s : StepWord) (a : Nat) : Except SvStop (SvEnv × Nat) :=
  let x := F.dec a
  let repl := fun (new : Nat) =>
    let e1 := { e.write F (s.ia 0 0) new with floors := e.floors + 1 }
    let taus := (e.fmap.zipIdx.filter (fun y => y.1.1 == 0x81 && y.1.2 == s.b)).map (·.2)
    if e.h.op = 4 ∧ x.isZero then
      { e1 with taulock := taus ++ e1.taulock, fac := taus.foldl (fun fs f => fs.set f 0) e1.fac } else e1
  if e.h.op = 2 ∧ x.sign ∧ !x.isNan ∧ !x.isZero then .error ⟨2, s.b⟩
  else if x.isZero then
    (if e.policy = 1 then .error ⟨1, s.b⟩ else .ok (repl e.floor, e.floor))
  else if e.policy = 0 ∧ !x.isNan ∧ !x.isInf ∧ (F.dec (F.abs a)).lt (F.dec e.floor) then
    let new := F.copysign e.floor a
    .ok (repl new, new)
  else .ok (e, a)

/-- R170, R172: a final write of a factor entry: the first non-finite one, and the first growth. -/
def SvEnv.final (e : SvEnv) (x : Nat) : SvEnv :=
  match sigOpnd e.h x with
  | some (.fac f) =>
    let v := e.fmt.dec (e.fac.getD f 0)
    let (row, col) := e.fmap.getD f (0, 0)
    let e1 := if e.ovf = none ∧ (v.isNan ∨ v.isInf) then { e with ovf := some col } else e
    (match e.glimit with
     | some g =>
       let mag := f64.abs (toFmt f64 e.fmt (e.fac.getD f 0))
       if row < 0x80 ∧ e1.growth = none ∧ (f64.cmp 1 g mag).1 then { e1 with growth := some col } else e1
     | none => e1)
  | _ => e

/-- R143: the flags of reading an operand in format `F`: a binary32 factor that is a signalling NaN raises invalid in a formatOf-binary64
operation. -/
def SvEnv.readFlags (e : SvEnv) (F : FFmt) (x : Nat) : Nat :=
  match sigOpnd e.h x with
  | some (.fac f) => if F = e.fmt then 0 else (cvtLong e.fmt F 0 (e.fac.getD f 0)).flags
  | _ => 0

/-- One element of an arithmetic or pipeline word. -/
def SvEnv.elem (l : Nat) (F : FFmt) (s : StepWord) (e : SvEnv) (i k : Nat) : Except SvStop SvEnv :=
  let a := e.read l F (s.ia i k)
  let b := if readsB s.op then e.read l F (s.ib i k) else 0
  let d := if readsD s.op then e.read l F (s.d i k) else 0
  let e := e.flag (e.readFlags F (s.ia i k) ||| (if readsB s.op then e.readFlags F (s.ib i k) else 0) |||
    (if readsD s.op then e.readFlags F (s.d i k) else 0))
  match (if s.pv then e.pivot F s a else .ok (e, a)) with
  | .error x => .error x
  | .ok (e, a) =>
    let r := stepResult F s.op a b d
    let e := (e.flag r.flags).write F (s.d i k) r.code
    .ok (if s.fin then e.final (s.d i k) else e)

/-- R167: the candidate that PSEARCH chooses, from row `i` on, with the best so far. -/
def psearch (F : FFmt) : List Nat → Nat → Option (Nat × Nat) → Option Nat
  | [], _, best => best.map (·.1)
  | c :: t, i, best =>
    let v := F.dec c
    if v.isNan then some i
    else match best with
    | none => psearch F t (i + 1) (if v.isZero then none else some (i, c))
    | some (j, b) => psearch F t (i + 1) (some (if (F.dec (F.abs b)).lt (F.dec (F.abs c)) then (i, c) else (j, b)))

/-- One step word (R161). -/
def SvEnv.step (l : Nat) (F : FFmt) (s : StepWord) (e : SvEnv) : Except SvStop SvEnv :=
  match s.op with
  | 0x10 =>
    match psearch F ((List.range (s.rows + 1)).map (fun i => e.read l F (s.ia i 0))) 0 none with
    | none => .error ⟨1, s.b⟩
    | some i => .ok { e with piv := e.piv.set s.b ((s.b + i) % 256) }
  | 0x11 =>
    let p := e.piv.getD s.b 0
    if p = s.b then .ok e
    else .ok ((List.range (s.cols + 1)).foldl (fun e k =>
      let x := s.d 0 k
      let y := opIdxZ s.dst s.drs s.dcs s.di s.dk ((p : Int) - s.b) k
      let vx := e.read l F x
      let vy := e.read l F y
      (e.write F x vy).write F y vx) e)
  | 0x12 =>
    .ok ((List.range (s.rows + 1)).foldl (fun e i =>
      let j := s.b + i
      let p := e.piv.getD j 0
      let vx := e.read l F (0xC100 + j)
      let vy := e.read l F (0xC100 + p)
      (e.write F (0xC100 + j) vy).write F (0xC100 + p) vx) e)
  | _ => s.elems.foldl (fun r x => match r with
      | .ok e => e.elem l F s x.1 x.2
      | .error z => .error z) (.ok e)

/-- A list run word by word (R161). -/
def SvEnv.run (l : Nat) (F : FFmt) (ws : List (Nat × StepWord)) (e : SvEnv) : Except SvStop SvEnv :=
  ws.foldl (fun r w => match r with
    | .ok e => e.step l F w.2
    | .error z => .error z) (.ok e)

/-- A list that cannot end a problem. -/
def SvEnv.runs (l : Nat) (ws : List (Nat × StepWord)) (e : SvEnv) : SvEnv :=
  match e.run l f64 ws with
  | .ok e => e
  | .error _ => e

/-- A list run up to the word that ends the problem, if one does: the words before it have run (a word that can end a problem has one
element, R161). -/
def SvEnv.runTo (l : Nat) (F : FFmt) (e : SvEnv) : List (Nat × StepWord) → SvEnv × Option SvStop
  | [] => (e, none)
  | w :: t =>
    match e.step l F w.2 with
    | .ok e => e.runTo l F t
    | .error z => (e, some z)

/-! ## The quire in the core store (R127 to R129) -/

/-- A quire header. -/
structure Quire where
  haddr : Nat
  id : Nat
  slot : Nat
  op : Nat
  policy : Nat
  n : Nat
  m : Nat
  nrhs : Nat
  v32 : Bool
  bound : Bool
  p : Nat
  e : Nat
  ef : Nat
  va : Nat × Nat
  fa : Nat × Nat
  ba : Nat × Nat
  xa : Nat × Nat
  v32a : Nat × Nat
  sa : Nat
  aa : Nat
  deriving DecidableEq, Repr

/-- Address and stride of a header word. -/
def areaOf (w : Nat) : Nat × Nat := (bits w 22 0, bits w 55 32)

/-- The header at core-store address `a`, of its first 64 bytes. -/
def quireOf (a : Nat) (bs : List Byte) : Quire :=
  let w := fun j => numAt bs (8 * j) 8
  { haddr := a, id := bits (w 0) 31 0, slot := bits (w 0) 35 32, op := bits (w 0) 38 36, policy := bits (w 0) 39 39,
    n := bits (w 0) 47 40, m := bits (w 0) 55 48, nrhs := bits (w 0) 60 56, v32 := bit (w 0) 62, bound := bit (w 0) 63,
    p := bits (w 1) 16 0, e := bits (w 1) 47 32, ef := bits (w 1) 63 48, va := areaOf (w 2), fa := areaOf (w 3),
    ba := areaOf (w 4), xa := areaOf (w 5), v32a := areaOf (w 6), sa := bits (w 7) 22 0, aa := bits (w 7) 54 32 }

/-- The header at core-store address `a` of core `c`. -/
def Dev.quireAt (d : Dev) (c a : Nat) : Quire := quireOf a (d.csRead c a 64)

/-- R128: the next multiple of 64. -/
def round64 (x : Nat) : Nat := (x + 63) / 64 * 64

/-- Pivot-row bytes of a factor slot (R128). -/
def Quire.pv (h : Quire) : Nat := if h.op = 1 then h.n else 0

/-- The areas that R144 checks: number, address, stride, bytes used per problem; the header is area 0. -/
def Quire.areas (h : Quire) : List (Nat × Nat × Nat × Nat) :=
  [(0, h.haddr, 0, 128), (1, h.va.1, h.va.2, 8 * h.e), (2, h.fa.1, h.fa.2, 8 * h.ef + h.pv),
   (3, h.ba.1, h.ba.2, 8 * h.m * h.nrhs), (4, h.xa.1, h.xa.2, 8 * h.n * h.nrhs), (5, h.sa, 8, 8), (6, h.aa, 32, 32)] ++
  (if h.v32 then [(7, h.v32a.1, h.v32a.2, 4 * h.e)] else [])

/-- The bytes from an area's first to its last. -/
def Quire.areaLen (h : Quire) (a : Nat × Nat × Nat × Nat) : Nat := (h.p - 1) * a.2.2.1 + a.2.2.2

/-- R144 orders 5 to 7, R145: the lowest-numbered of several wrong areas is named, and of an overlapping pair the higher-numbered one
(DEDUCED, log entry 30). -/
def Quire.areaCheck (h : Quire) : Nat × Nat :=
  match h.areas.find? (fun a => a.2.1 % 64 != 0) with
  | some a => (stDescAlign, a.1)
  | none =>
    match h.areas.find? (fun a => decide (coreStoreSize < a.2.1 + h.areaLen a)) with
    | some a => (stBounds, a.1)
    | none =>
      match h.areas.findSome? (fun a =>
        h.areas.find? (fun b => decide (a.1 < b.1) && meets a.2.1 (h.areaLen a) b.2.1 (h.areaLen b))) with
      | some b => (stOverlap, b.1)
      | none => (0, 15)

/-- 06 R163: an `sv.sigload` into the slot runs. -/
def Dev.sigLoading (d : Dev) (c n : Nat) : Bool :=
  d.queues.any (fun x => d.qKind x.1 == 1 && d.qTarget x.1 == c &&
    x.2.runs.any (fun r => r.loadsSig && bits (wd r.params 0) 3 0 == n))

/-- The signature resident and valid in a slot (CORE_SIG_n.VALID): none while one is being loaded there (06 R163). -/
def Dev.sigOf (d : Dev) (c slot : Nat) : Option (List Byte) :=
  if d.flag (.coreSig c slot) F.coreSig_VALID && !d.sigLoading c slot then some (tget [] slot (d.core c).sigs) else none

/-- R131: the quire's signature is the one resident in its slot. -/
def Dev.sigPresent (d : Dev) (c : Nat) (h : Quire) : Bool :=
  match d.sigOf c h.slot with
  | some b => (sigHdr b).id == h.id
  | none => false

/-! ## Binding (R130) -/

/-- A header word made of an address and a stride. -/
def areaWord (a : Nat × Nat) : Nat := a.1 + a.2 * 2 ^ 32

/-- The 128 bytes of a header. -/
def Quire.bytes (h : Quire) (g : SigHdr) : List Byte :=
  [h.id + h.slot * 2 ^ 32 + h.op * 2 ^ 36 + h.policy * 2 ^ 39 + h.n * 2 ^ 40 + h.m * 2 ^ 48 + h.nrhs * 2 ^ 56 +
     b2n h.v32 * 2 ^ 62 + b2n h.bound * 2 ^ 63,
   h.p + h.e * 2 ^ 32 + h.ef * 2 ^ 48, areaWord h.va, areaWord h.fa, areaWord h.ba, areaWord h.xa, areaWord h.v32a,
   h.sa + h.aa * 2 ^ 32, g.f + g.dd * 2 ^ 32 + g.lp * 2 ^ 48, g.fs + g.fr * 2 ^ 32, 0, 0, 0, 0, 0, 0].flatMap (bytesOf 8)

/-- The header that `sv.bind` writes, from its block and a signature's header. -/
def bindQuire (ws : List Word) (g : SigHdr) : Quire :=
  let w0 := wd ws 0
  let a := fun j => bits (wd ws j) 22 0
  let nrhs := bits w0 8 4
  let v32 := bit w0 10
  { haddr := a 2, id := g.id, slot := bits w0 3 0, op := g.op, policy := g.policy, n := g.n, m := g.m, nrhs := nrhs, v32 := v32,
    bound := true, p := bits (wd ws 1) 16 0, e := g.e, ef := g.ef, va := (a 3, round64 (8 * g.e)),
    fa := (a 4, round64 (8 * g.ef + (if g.op = 1 then g.n else 0))), ba := (a 5, round64 (8 * g.m * nrhs)),
    xa := (a 6, round64 (8 * g.n * nrhs)), sa := a 7, aa := a 8,
    v32a := if v32 then (a 9, round64 (4 * g.e)) else (0, 0) }

/-- R144: bits outside the named fields of the `sv.bind` block are reserved, as R144 says of the block (DEDUCED, log entry 30). -/
def bindRsv (ws : List Word) : Bool :=
  bits (wd ws 0) 63 11 != 0 || bits (wd ws 1) 63 17 != 0 ||
    (addrs 2 (if bit (wd ws 0) 10 then 8 else 7)).any (fun j => bits (wd ws j) 63 23 != 0)

/-- The newest run of a solver queue binds a quire. -/
def Dev.svBindRun (q : Nat) (d : Dev) : Dev :=
  let c := d.qTarget q
  let ws := d.runParams q
  match d.sigOf c (bits (wd ws 0) 3 0) with
  | none => d.finish q 0x301 15
  | some b =>
    let h := bindQuire ws (sigHdr b)
    let keep := bit (wd ws 0) 9
    let st := h.areaCheck
    if h.p = 0 ∨ 65536 < h.p ∨ h.nrhs = 0 ∨ 16 < h.nrhs then d.finish q 0x302 15
    else if bindRsv ws then d.finish q 0x303 15
    else if st.1 ≠ 0 then d.finish q st.1 st.2
    else
      let d := d.csWrite c h.haddr (h.bytes (sigHdr b))
      if keep then d else (d.csWrite c h.sa (zeros (8 * h.p))).csWrite c h.aa (zeros (32 * h.p))

/-- SV_BIND (R130, R131, R144). -/
def execSvBind (q : Nat) (s : State) : Host.Outcome State Fault Refusal :=
  s.upd (Dev.startCmd q 0x300 (fun _ d => d.svBindRun q))

/-! ## Factorising and solving (R138 to R145) -/

/-- A solver command's parameters. -/
structure SvParam where
  first : Nat
  count : Nat
  nr : Nat
  prec : Bool
  reuse : Bool
  seed : Bool
  gen : Bool
  maxit : Nat
  theta : Nat
  tau : Nat
  floor : Nat
  glimit : Nat
  rsv : Bool
  deriving DecidableEq, Repr

/-- The parameters of a block. -/
def svParam (ws : List Word) : SvParam :=
  let w1 := wd ws 1
  let w2 := wd ws 2
  { first := bits w1 15 0, count := bits w1 32 16, nr := bits w1 52 48, prec := bit w2 0, reuse := bit w2 1, seed := bit w2 2,
    gen := bit w2 3, maxit := bits w2 7 4, theta := wd ws 3, tau := wd ws 4, floor := wd ws 5, glimit := wd ws 6,
    rsv := bits w1 47 33 != 0 || bits w1 63 53 != 0 || bits w2 63 8 != 0 }

/-- A negative number or a NaN. -/
def negNan (c : Nat) : Bool := let v := f64.dec c; v.isNan || (v.sign && !v.isZero)

/-- R144 order 4. `rtn` is 0x301, 0x302 or 0x303. -/
def svParamBad (rtn : Nat) (g : SvParam) (h : Quire) : Bool :=
  decide (8 < g.maxit) || ((g.reuse || g.seed) && g.maxit == 0) || (g.reuse && rtn != 0x303) ||
  (rtn == 0x301 && (g.seed || g.maxit != 0)) || (h.op == 4 && (g.reuse || g.seed || g.maxit != 0 || g.prec)) ||
  (g.prec && !h.v32) || (g.reuse && negNan g.theta) || (g.maxit != 0 && negNan g.tau) ||
  (rtn != 0x302 && h.policy == 0 && negNan g.floor) || (rtn != 0x302 && g.gen && negNan g.glimit) || g.rsv

/-- R144: the first failing status and detail of a solver command. -/
def Dev.svCheck (d : Dev) (c rtn : Nat) (g : SvParam) (h : Quire) : Nat × Nat :=
  if h.haddr % 64 ≠ 0 ∨ !h.bound then (0x300, 0)
  else if !d.sigPresent c h then (0x301, 15)
  else if g.count = 0 ∨ h.p < g.first + g.count ∨ g.nr = 0 ∨ h.nrhs < g.nr then (0x302, 15)
  else if svParamBad rtn g h then (0x303, 15)
  else h.areaCheck

/-- Codes of `n` numbers of `w` bytes in the core store. -/
def Dev.csNums (d : Dev) (c a w n : Nat) : List Nat := (List.range n).map (fun j => d.csNum c (a + w * j) w)

/-- What a command makes of one problem. -/
structure SvProb where
  env : SvEnv
  aux : List Nat
  code : Nat
  col : Nat
  steps : Nat
  marks : Nat
  wrote : Bool
  x : Option (List (List Nat))
  deriving DecidableEq, Repr

/-- R171: an event's rank, higher first. -/
def svRank (code : Nat) : Nat := if code = 0 then 0 else if code = 3 then 1 else 2

/-- R171: an event. -/
def SvProb.event (p : SvProb) (code col : Nat) : SvProb := if svRank p.code < svRank code then { p with code := code, col := col } else p

/-- The largest magnitude of a list; none if it holds a NaN. -/
def maxMag (xs : List Nat) : Option Nat :=
  if xs.any (fun x => (f64.dec x).isNan) then none
  else some (xs.foldl (fun a x => if (f64.dec a).lt (f64.dec (f64.abs x)) then f64.abs x else a) 0)

/-- R141, R161, R168, R172: the problem is factorised; the Boolean says that it did not end SINGULAR or NOT_SPD. NF of a problem with a
NaN among its values is free (log entry 6). The growth limit's product raises its flags (R142). -/
def SvProb.factor (h : Quire) (g : SvParam) (sig : List Byte) (p : SvProb) : SvProb × Bool :=
  let e := p.env
  let nf := match maxMag e.vals with
    | some x => x
    | none => e.free 0xFFFF
  let vs := if e.p32 then e.vals32 else e.vals
  let fl := f64.abs g.floor
  let e := { e with
    fac := vs ++ List.replicate (h.ef - h.e) 0, fwd := [none, none, none, none], taulock := [], ovf := none
    floor := if e.p32 then (cvtLong f64 f32 0 fl).code else fl
    glimit := if g.gen then some (f64.mul 0 g.glimit nf).code else none
    flags := if g.gen then e.flags ||| (f64.mul 0 g.glimit nf).flags else e.flags }
  let (e, stop) := e.runTo 0 e.fmt (sigList sig 3)
  let bad := stop.isSome
  let flags := bits (p.aux.getD 2 0) 63 0
  let w2 := (if bad then 0 else 1) + (if bad then 0 else flags / 2 % 2 * 2) + b2n e.p32 * 4
  let p := { p with env := e, wrote := true, aux := [nf, 0, w2, h.id] }
  match stop with
  | some z => (p.event z.code z.col, false)
  | none => (match e.ovf with
    | some col => (p.event 3 col, true)
    | none => (p, true))

/-- R138, R161: the initial solve of the first NR columns. -/
def SvProb.trisolve (h : Quire) (sig : List Byte) (bs : List (List Nat)) (p : SvProb) : SvProb × List (List Nat) :=
  bs.foldl (fun (a : SvProb × List (List Nat)) b =>
    let e := ({ a.1.env with rhs := b, wrk := b }).runs 1 (sigList sig 4)
    ({ a.1 with env := e }, a.2 ++ [e.wrk.take h.n])) (p, [])

/-- R138, R139: one refinement step on every column; the Boolean says that every column passed the test. -/
def SvProb.refineStep (h : Quire) (g : SvParam) (sig : List Byte) (bs xs : List (List Nat)) (p : SvProb) :
    SvProb × List (List Nat) × Bool :=
  (bs.zip xs).foldl (fun (a : SvProb × List (List Nat) × Bool) bx =>
    let e := ({ a.1.env with rhs := bx.1, sol := bx.2 }).runs 2 (sigList sig 5)
    let e := e.runs 1 (sigList sig 4)
    let dd := e.wrk.take h.n
    let e := e.runs 3 (sigList sig 6)
    let t := match maxMag e.sol with
      | some mx => f64.mul 0 g.tau mx
      | none => ⟨0, 0⟩
    let ok := match maxMag dd, maxMag e.sol with
      | some md, some _ => (f64.cmp 2 md t.code).1
      | _, _ => false
    ({ a.1 with env := e.flag t.flags }, a.2.1 ++ [e.sol], a.2.2 && ok)) (p, [], true)

/-- R138: refinement of at most `k` steps. -/
def SvProb.refine (h : Quire) (g : SvParam) (sig : List Byte) (bs : List (List Nat)) : Nat → SvProb → List (List Nat) →
    SvProb × List (List Nat) × Bool
  | 0, p, xs => (p, xs, g.maxit == 0)
  | k + 1, p, xs =>
    let (p, xs, ok) := p.refineStep h g sig bs xs
    let p := { p with steps := p.steps + 1 }
    if ok then (p, xs, true) else SvProb.refine h g sig bs k p xs

/-- A number that is not finite. -/
def nonFinite (F : FFmt) (c : Nat) : Bool := let v := F.dec c; v.isNan || v.isInf

/-- R142, R170: the end of a solved problem: its flags and the overflow of its solution. -/
def SvProb.solved (reuse conv : Bool) (xs : List (List Nat)) (p : SvProb) : SvProb :=
  let refac := bit p.marks 18
  let p := { p with marks := p.marks ||| (if reuse && !refac then 2 ^ 17 else 0) ||| (if conv then 0 else 2 ^ 22), x := some xs }
  let p := if p.env.fac.any (nonFinite p.env.fmt) then p
    else match xs.findSome? (fun col => col.findIdx? (nonFinite f64)) with
      | some i => p.event 3 i
      | none => p
  { p with aux := p.aux.set 2 (p.aux.getD 2 0 ||| 2) }

/-- R138: a problem after its factors are in place: the solution, and one refactorisation where a reuse does not converge. -/
def SvProb.solve (h : Quire) (g : SvParam) (sig : List Byte) (bs : List (List Nat)) (seed : Option (List (List Nat)))
    (reuse : Bool) (p : SvProb) : SvProb :=
  let (p, xs) := match seed with
    | some xs => ({ p with marks := p.marks ||| 2 ^ 19 }, xs)
    | none => p.trisolve h sig bs
  let (p, xs, conv) := SvProb.refine h g sig bs g.maxit p xs
  if !conv && reuse then
    let (p, ok) := { p with marks := p.marks ||| 2 ^ 18 }.factor h g sig
    if !ok then p
    else
      let (p, xs) := p.trisolve h sig bs
      let (p, xs, conv) := SvProb.refine h g sig bs g.maxit p xs
      p.solved reuse conv xs
  else p.solved reuse conv xs

/-- R138, R140: problem `p` of a command. -/
def Dev.svProblem (d : Dev) (c rtn : Nat) (g : SvParam) (h : Quire) (sig : List Byte) (p : Nat) : SvProb :=
  let aux := d.csNums c (h.aa + 32 * p) 8 4
  let w2 := aux.getD 2 0
  let fsig := bits (aux.getD 3 0) 31 0
  let fvalid := bit w2 0
  let xvalid := bit w2 1
  let stale := bit w2 3
  let same := fsig == h.id
  let warm := same && !stale
  let p32 := if rtn = 0x302 then bit w2 2 else g.prec
  let fa := h.fa.1 + p * h.fa.2
  let vals := d.csNums c (h.va.1 + p * h.va.2) 8 h.e
  let vals32 := if h.v32 then d.csNums c (h.v32a.1 + p * h.v32a.2) 4 h.e else []
  let fac := if p32 then d.csNums c fa 4 h.ef else d.csNums c fa 8 h.ef
  let piv := d.csNums c (fa + 8 * h.ef) 1 h.pv
  let col := fun (a w r : Nat) => d.csNums c (a + 8 * r * w) 8 w
  let bs := if rtn = 0x301 then [] else (List.range g.nr).map (col (h.ba.1 + p * h.ba.2) h.m)
  let xs := if g.seed && warm && xvalid then some ((List.range g.nr).map (col (h.xa.1 + p * h.xa.2) h.n)) else none
  let key := [rtn, b2n g.prec, b2n g.reuse, b2n g.seed, b2n g.gen, g.maxit, g.theta, g.tau, g.floor, g.glimit] ++
    sig.map BitVec.toNat ++ aux ++ vals ++ vals32 ++ fac ++ piv ++ bs.flatMap id ++ (xs.getD []).flatMap id
  let e : SvEnv :=
    { h := sigHdr sig, fmap := sigFmap sig, key := key, p32 := p32, vals := vals, vals32 := vals32, fac := fac, piv := piv
      rhs := [], wrk := (List.range h.m).map (fun i => (Config.freeOf key (0xC100 + i)).toNat), sol := []
      fwd := [], flags := 0, floor := 0, policy := h.policy, glimit := none, floors := 0, ovf := none, growth := none,
      taulock := [] }
  let pr : SvProb := { env := e, aux := aux, code := 0, col := 0, steps := 0, marks := 0, wrote := false, x := none }
  if rtn = 0x301 then (pr.factor h g sig).1
  else
    let pr := if (g.reuse || g.seed) && !same && (fvalid || xvalid) then { pr with marks := 2 ^ 20 } else pr
    if rtn = 0x302 then (if fvalid && warm then pr.solve h g sig bs xs false else pr.event 4 0)
    else
      let t := f64.mul 0 g.theta (aux.getD 0 0)
      let test := g.reuse && warm && fvalid && (bit w2 2 == g.prec)
      let pr := if test then { pr with env := pr.env.flag t.flags } else pr
      if test && (f64.cmp 2 (aux.getD 1 0) t.code).1 then pr.solve h g sig bs xs true
      else
        let (pr, ok) := pr.factor h g sig
        if ok then pr.solve h g sig bs xs false else pr

/-- R142: the status word. -/
def SvProb.status (p : SvProb) : Nat :=
  let col := if p.code ≠ 0 then p.col else p.env.growth.getD 0
  p.code + col % 256 * 2 ^ 4 + min p.steps 16 * 2 ^ 12 + p.marks + b2n p.env.growth.isSome * 2 ^ 21 +
    b2n (p.env.floors != 0) * 2 ^ 23 + p.env.flags % 32 * 2 ^ 24 + min p.env.floors 65535 * 2 ^ 32

/-- R142, R149: the write-back of problem `i`. -/
def svWriteback (c : Nat) (h : Quire) (i : Nat) (p : SvProb) : List Wr :=
  let fa := h.fa.1 + i * h.fa.2
  (if p.wrote then
    ⟨.core c, fa, p.env.fac.flatMap (bytesOf (if p.env.p32 then 4 else 8))⟩ ::
      (if h.op = 1 then [⟨.core c, fa + 8 * h.ef, p.env.piv.flatMap (bytesOf 1)⟩] else []) else []) ++
  (match p.x with
   | some xs => [⟨.core c, h.xa.1 + i * h.xa.2, xs.flatMap (fun col => col.flatMap (bytesOf 8))⟩]
   | none => []) ++
  [⟨.core c, h.sa + 8 * i, bytesOf 8 p.status⟩, ⟨.core c, h.aa + 32 * i, p.aux.flatMap (bytesOf 8)⟩]

/-- The core-store ranges that a command reads for problem `i`. -/
def svReads (h : Quire) (rtn : Nat) (g : SvParam) (i : Nat) : List (Nat × Nat) :=
  [(h.aa + 32 * i, 32), (h.va.1 + i * h.va.2, 8 * h.e)] ++
  (if g.prec && rtn != 0x302 then [(h.v32a.1 + i * h.v32a.2, 4 * h.e)] else []) ++
  (if rtn = 0x301 then [] else [(h.ba.1 + i * h.ba.2, 8 * h.m * g.nr)]) ++
  (if rtn = 0x302 then [(h.fa.1 + i * h.fa.2, 8 * h.ef + h.pv)] else []) ++
  (if g.seed then [(h.xa.1 + i * h.xa.2, 8 * h.n * g.nr)] else [])

/-- R148: the groups of 16 problems from FIRST. -/
def svGroups (g : SvParam) : List (List Nat) :=
  (List.range ((g.count + 15) / 16)).map (fun k => addrs (g.first + 16 * k) (min 16 (g.count - 16 * k)))

/-- R145: the summary of an OK completion. -/
def svSummary (ps : List SvProb) : Nat :=
  let bad := ps.filter (fun p => p.code != 0)
  min bad.length 65535 + bad.foldl (fun a p => a ||| p.env.flags % 256) 0 * 2 ^ 16 +
    bad.foldl (fun a p => a ||| bits p.status 23 17) 0 * 2 ^ 24

/-- The newest run of a solver queue factorises or solves. -/
def Dev.svRun (q rtn : Nat) (bad : Option Nat) (d : Dev) : Dev :=
  let c := d.qTarget q
  let ws := d.runParams q
  let g := svParam ws
  let h := d.quireAt c (bits (wd ws 0) 22 0)
  let st := d.svCheck c rtn g h
  if st.1 ≠ 0 then d.finish q st.1 st.2
  else
    let sig := tget [] h.slot (d.core c).sigs
    let groups := (svGroups g).map (fun is => is.map (fun i => (i, d.svProblem c rtn g h sig i)))
    let us := groups.map (fun ps => ps.flatMap (fun p => svWriteback c h p.1 p.2))
    let units := groups.map (fun ps => if (sigHdr sig).dd != 0 && ps.any (fun p => p.2.wrote) then [2, 3] else [2])
    let reads := (h.haddr, 128) :: (addrs g.first g.count).flatMap (svReads h rtn g)
    let d := d.setRun q (fun r => { r with detail := svSummary ((groups.flatMap id).map (·.2)) })
    ((d.engineBad q reads us).storeBad q 6 (65536 * h.slot) sig.length).runUnits q (d.newest q) units us bad

/-- SV_FACTOR (R138, R141, R144, R148, R149). -/
def execSvFactor (q : Nat) (bad : Silicon) (s : State) : Host.Outcome State Fault Refusal :=
  s.upd (Dev.startHit q 0x301 bad (fun _ d => d.svRun q 0x301 bad.unit))

/-- SV_SOLVE (R138 to R142). -/
def execSvSolve (q : Nat) (bad : Silicon) (s : State) : Host.Outcome State Fault Refusal :=
  s.upd (Dev.startHit q 0x302 bad (fun _ d => d.svRun q 0x302 bad.unit))

/-- SV_FSOLVE (R138 to R142). -/
def execSvFsolve (q : Nat) (bad : Silicon) (s : State) : Host.Outcome State Fault Refusal :=
  s.upd (Dev.startHit q 0x303 bad (fun _ d => d.svRun q 0x303 bad.unit))

/-! ## Signatures in the store (R162 to R164) -/

/-- CORE_SIG_n of a valid signature. -/
def sigWord (h : SigHdr) : Nat := h.id + 2 ^ 32 + h.op * 2 ^ 33 + h.policy * 2 ^ 36 + h.n * 2 ^ 40 + h.m * 2 ^ 48

/-- The slot holds no valid signature. -/
def Dev.sigClear (c slot : Nat) (d : Dev) : Dev :=
  (d.setCore c { d.core c with sigs := tdel slot (d.core c).sigs }).wr (.coreSig c slot) 0

/-- The slot holds a valid signature. -/
def Dev.sigSet (c slot : Nat) (b : List Byte) (d : Dev) : Dev :=
  (d.setCore c { d.core c with sigs := tset slot b (d.core c).sigs }).wr (.coreSig c slot) (BitVec.ofNat 64 (sigWord (sigHdr b)))

/-- R164 order 8: another slot of the core holds a valid signature with the identifier. -/
def Dev.sigDup (d : Dev) (c slot id : Nat) : Bool :=
  (List.range 16).any (fun n => n != slot && d.flag (.coreSig c n) F.coreSig_VALID && d.fld (.coreSig c n) F.coreSig_ID == id)

/-- R164, R163: the checks of orders 3 to 8 and their outcome for a slot; also used at image load (R166). -/
def Dev.sigInstall (c slot : Nat) (b : List Byte) (d : Dev) : Dev × Nat × Nat :=
  let d := d.sigClear c slot
  let st := sigCheck b
  if st.1 ≠ 0 then (d, st)
  else if d.sigDup c slot (sigHdr b).id then (d, 0x309, 8)
  else (d.sigSet c slot (b.take (sigHdr b).size), 0, 0)

/-- Where the pages of `n` bytes at a virtual address lie, page by page: (physical address, length); the error is the offset of the
first faulting page and its cause. -/
def Dev.pagesFrom (d : Dev) (root va : Nat) (write : Bool) : Nat → Nat → Nat → Except (Nat × Nat) (List (Nat × Nat))
  | 0, _, _ => .ok []
  | fuel + 1, pos, n =>
    if n ≤ pos then .ok []
    else
      let k := min (n - pos) (4096 - (va + pos) % 4096)
      match d.xlate root (va + pos) write with
      | .error e => .error (pos, e)
      | .ok pa =>
        match d.pagesFrom root va write fuel (pos + k) n with
        | .error e => .error e
        | .ok t => .ok ((pa, k) :: t)

/-- The newest run of a solver queue loads a signature. -/
def Dev.sigloadRun (q : Nat) (d : Dev) : Dev :=
  let c := d.qTarget q
  let ws := d.runParams q
  let slot := bits (wd ws 0) 3 0
  let va := wd ws 1
  if va % 64 ≠ 0 then d.finish q stDescAlign 0
  else
    let d := d.sigClear c slot
    let get := fun (n : Nat) => d.pagesFrom (d.rootOf c) va false 40 0 n
    let fault := fun (e : Nat × Nat) => d.finish q stAddrFault (e.1 % 2 ^ 28 + e.2 * 2 ^ 28)
    match get 128 with
    | .error e => fault e
    | .ok ps0 =>
      let head := ps0.flatMap (fun p => d.physRead p.1 p.2)
      let size := (sigHdr head).size
      match get (if sizeOk size then size else 128) with
      | .error e => fault e
      | .ok ps =>
        let bs := ps.flatMap (fun p => d.badIn p.1 p.2)
        if !bs.isEmpty then (d.uncorrAll bs).finish q stMemUncorr 0
        else
          let (d, st) := d.sigInstall c slot (ps.flatMap (fun p => d.physRead p.1 p.2))
          if st.1 ≠ 0 then d.finish q st.1 st.2 else d

/-- SV_SIGLOAD (R162 to R164). -/
def execSvSigload (q : Nat) (s : State) : Host.Outcome State Fault Refusal :=
  s.upd (Dev.startCmd q 0x304 (fun _ d => d.sigloadRun q))

/-! ## Deltas and re-execution beside a running command (R136, R141) -/

/-- The run of a solver queue of core `c` whose command covers problem `p` of the quire at `haddr`. -/
def Dev.covering (d : Dev) (c haddr p : Nat) : Option Nat :=
  d.queues.findSome? (fun x =>
    if d.qKind x.1 = 1 ∧ d.qTarget x.1 = c then
      (match x.2.runs.find? Run.agent with
       | some r =>
         let g := svParam r.params
         if 0x301 ≤ dRtn r.desc ∧ dRtn r.desc ≤ 0x303 ∧ (r.status = 0 ∨ r.status = stMemUncorr) ∧ bits (wd r.params 0) 22 0 = haddr ∧ g.first ≤ p ∧
           p < g.first + g.count then some x.1 else none
       | none => none)
    else none)

/-- R136, R141: problem `p` is STALE, with FVALID and XVALID 0, and DSUM as it stands. -/
def Dev.staleAux (c : Nat) (h : Quire) (p : Nat) (d : Dev) : Dev :=
  let a := h.aa + 32 * p + 16
  d.csWrite c a (bytesOf 8 (bits (d.csNum c a 8) 2 2 * 4 + 8))

/-- R136: a delta to problem `p`: where a running command covers it, the problem is marked. -/
def Dev.staleMark (c : Nat) (h : Quire) (p : Nat) (d : Dev) : Dev :=
  match d.covering c h.haddr p with
  | none => d
  | some q =>
    let rs := (d.queue q).runs.map (fun r => if r.agent then { r with stale := if r.stale.contains p then r.stale else p :: r.stale } else r)
    (d.staleAux c h p).setQueue q { d.queue q with runs := rs }

/-- R484, R141: the re-execution of a solver command: the held groups are written, and the problems marked meanwhile keep DSUM and
stay STALE. -/
def Dev.svReexecute (q : Nat) (bad : Option Nat) (d : Dev) : Dev :=
  match d.retryRun q with
  | none => d
  | some r =>
    let c := d.qTarget q
    let h := d.quireAt c (bits (wd r.params 0) 22 0)
    let sums := r.stale.map (fun p => (p, d.csNum c (h.aa + 32 * p + 8) 8))
    let d := d.reexecute q bad
    sums.foldl (fun d x => (d.csWrite c (h.aa + 32 * x.1 + 8) (bytesOf 8 x.2)).staleAux c h x.1) d

end Sys2Proof.Machine
end

