-- ==== Sys2Proof/Machine/Movers.lean ====
section
/-! DEFINITION. The data movers (10 R294 to R300, R308; 12 R335 to R354) and delta feeding (05 R132 to R136). A transfer is cut into
elements (units, rows, list elements, entries or blocks); each is mapped and read, and then written, in order. Reads of another
package are issued first, and the command goes on when all are answered. -/

namespace Sys2Proof.Machine

/-- Why a transfer stops: an address fault with its cause and virtual address, a far-tier port that is down, an index out of range. -/
inductive DmStop where
  | fault (cause va : Nat)
  | far (port : Nat)
  | range
  deriving DecidableEq, Repr

/-- A mapped run of bytes: where, first address, length. -/
structure DmPiece where
  sp : Space
  addr : Nat
  n : Nat
  deriving DecidableEq, Repr

/-- The virtual addresses at which the pages of `n` bytes at `va` begin. -/
def pageStarts (va n : Nat) : List Nat :=
  if n = 0 then [] else (List.range ((va + n - 1) / 4096 - va / 4096 + 1)).map (fun j => if j = 0 then va else (va / 4096 + j) * 4096)

/-- R308: the first down port of a far-tier set that holds an entry which the translation of `n` bytes reads. -/
def Dev.tableDown (d : Dev) (root va n : Nat) : Option Nat :=
  (pageStarts va n).findSome? (fun v => (d.entries root v).findSome? d.farDown)

/-- R285: the uncorrectable words among the entries that the translation of `n` bytes reads. -/
def Dev.tableBad (d : Dev) (root va n : Nat) : List BadWord := (pageStarts va n).flatMap (fun v => (d.entries root v).flatMap (fun a => d.badIn a 8))

/-- Where a mover's transfer takes place: its core, and the root it started with (R303). -/
structure DmSite where
  c : Nat
  root : Nat
  deriving DecidableEq, Repr

/-- R296, R301, R308: the pieces of one side of an element. -/
def Dev.dmMap (d : Dev) (c : DmSite) (cs : Bool) (addr n : Nat) (write : Bool) : Except DmStop (List DmPiece) :=
  if cs then (if addr + n ≤ coreStoreSize then .ok [⟨.core c.c, addr, n⟩] else .error (.fault 4 addr))
  else
    let va := addr % 2 ^ 64
    match d.tableDown c.root va n with
    | some port => .error (.far port)
    | none =>
      match d.pagesFrom c.root va write (n / 4096 + 2) 0 n with
      | .error (pos, cause) => .error (.fault cause ((va + pos) % 2 ^ 64))
      | .ok ps =>
        match ps.findSome? (fun p => d.farDown p.1) with
        | some port => .error (.far port)
        | none => .ok (ps.map (fun p => ⟨.phys, p.1, p.2⟩))

/-- R285: the uncorrectable words that the translation of one side of an element reads. -/
def Dev.mapBad (d : Dev) (c : DmSite) (cs : Bool) (addr n : Nat) : List BadWord :=
  if cs then [] else d.tableBad c.root (addr % 2 ^ 64) n

/-- R337: a run of bytes cut at 256-byte unit boundaries. -/
def cut256 : Nat → Nat → Nat → List (Nat × Nat)
  | 0, _, _ => []
  | fuel + 1, a, n =>
    if n = 0 then []
    else
      let k := min n (256 - a % 256)
      (a, k) :: cut256 fuel (a + k) (n - k)

/-- R337: the whole words that `k` bytes at `o` touch: first offset and length. -/
def wordSpan (o k : Nat) : Nat × Nat := (o / 8 * 8, (o + k + 7) / 8 * 8 - o / 8 * 8)

/-- A load of `k` bytes within one unit of a rack window: the bytes, or none where the answer has not come (`rd` holds the answers by
physical address). An access without an import entry reads zero (R340); one into the own slot stays in the package (R336). -/
def Dev.rackLoad (d : Dev) (rd : List (Nat × List Byte)) (s o k : Nat) : Option (List Byte) :=
  let w := wordSpan o k
  match d.importFor s w.1 w.2 with
  | none => some (zeros k)
  | some j =>
    if s = d.slot then
      (match windowAddr w.1 with
       | some a =>
         if d.exportOk (d.fld (.fbImpKey j) F.fbImpKey_REGION) (d.fld (.fbImpKey j) F.fbImpKey_KEY) w.1 w.2 0
         then some (sliceB (d.physRead a w.2) (o - w.1) k) else some (zeros k)
       | none => some (zeros k))
    else
      let a := rackBase + s * winSize + w.1
      if thas a rd then some (sliceB (tget [] a rd) (o - w.1) k) else none

/-- R340, R341: the counts of a rack load: a miss of the import table, or a rejection by the own export table. -/
def Dev.rackLoadCount (s o k : Nat) (d : Dev) : Dev :=
  let w := wordSpan o k
  match d.importFor s w.1 w.2 with
  | none => d.bump (.fbMpStatus (d.dieFor w.1)) F.fbMpStatus_IMP_MISS 1
  | some j =>
    if s = d.slot ∧ !(d.exportOk (d.fld (.fbImpKey j) F.fbImpKey_REGION) (d.fld (.fbImpKey j) F.fbImpKey_KEY) w.1 w.2 0)
    then d.keyRej (d.dieFor w.1) else d

/-- The units of rack windows that a piece touches: slot, offset, length. -/
def Dev.rackUnits (d : Dev) (p : DmPiece) : List (Nat × Nat × Nat) :=
  match p.sp with
  | .core _ => []
  | .phys => (match d.locate p.addr with
    | .rack s o => (cut256 (p.n / 256 + 2) o p.n).map (fun u => (s, u.1, u.2))
    | _ => [])

/-- The bytes of a piece; answers that have not come read as empty. -/
def Dev.pieceData (d : Dev) (rd : List (Nat × List Byte)) (p : DmPiece) : List Byte :=
  match p.sp with
  | .core c => d.csRead c p.addr p.n
  | .phys => (match d.locate p.addr with
    | .rack _ _ => (d.rackUnits p).flatMap (fun u => (d.rackLoad rd u.1 u.2.1 u.2.2).getD [])
    | _ => d.physRead p.addr p.n)

/-- The remote units of a piece that have not been read. -/
def Dev.pieceNeeds (d : Dev) (rd : List (Nat × List Byte)) (p : DmPiece) : List (Nat × Nat × Nat) :=
  (d.rackUnits p).filter (fun u => (d.rackLoad rd u.1 u.2.1 u.2.2).isNone)

/-- The uncorrectable words that reading a piece touches. -/
def Dev.pieceBad (d : Dev) (p : DmPiece) : List BadWord :=
  match p.sp with
  | .core c => d.badCs c p.addr p.n
  | .phys => d.badIn p.addr p.n

/-- The uncorrectable words that writing a piece covers in part (10 R285). -/
def Dev.piecePart (d : Dev) (p : DmPiece) : List BadWord :=
  (d.pieceBad p).filter (fun w => !(decide (p.addr ≤ w.addr) && decide (w.addr + 8 ≤ p.addr + p.n)))

/-- The writes that put bytes into pieces. -/
def splitWr : List DmPiece → List Byte → List Wr
  | [], _ => []
  | p :: t, bs => ⟨p.sp, p.addr, bs.take p.n⟩ :: splitWr t (bs.drop p.n)

/-- One element moved: its position, what it read, its writes, their bytes, the uncorrectable words it met, the solver problem whose
values it changes, and the source pieces among what it read. -/
structure DmMove where
  pos : Nat
  reads : List DmPiece
  us : List Wr
  n : Nat
  bad : List BadWord
  prob : Option Nat
  src : List DmPiece
  deriving DecidableEq, Repr

/-- What comes of an element: it moves, needs remote bytes first, or stops the transfer. -/
inductive DmRes where
  | move (m : DmMove)
  | need (us : List (Nat × Nat × Nat))
  | stop (x : DmStop)
  deriving DecidableEq, Repr

/-- Bytes read for an element: a list entry or a source. -/
def Dev.dmFetch (d : Dev) (rd : List (Nat × List Byte)) (c : DmSite) (cs : Bool) (addr n : Nat) :
    Except DmRes (List DmPiece × List Byte) :=
  match d.dmMap c cs addr n false with
  | .error x => .error (.stop x)
  | .ok ps =>
    let need := ps.flatMap (d.pieceNeeds rd)
    if need.isEmpty then .ok (ps, ps.flatMap (d.pieceData rd)) else .error (.need need)

/-- One element of a transfer, after the reads `pre` of its list entry and the uncorrectable words `pb` met there. -/
def Dev.dmElem (d : Dev) (rd : List (Nat × List Byte)) (c : DmSite) (pos : Nat) (pre : List DmPiece) (pb : List BadWord) (scs : Bool) (src : Nat) (dcs : Bool)
    (dst n : Nat) : DmRes :=
  match d.dmMap c scs src n false with
  | .error x => .stop x
  | .ok _ =>
    match d.dmMap c dcs dst n true with
    | .error x => .stop x
    | .ok dp =>
      match d.dmFetch rd c scs src n with
      | .error r => r
      | .ok (sp, bs) =>
        .move ⟨pos, pre ++ sp, splitWr dp bs, n, pb ++ d.mapBad c scs src n ++ d.mapBad c dcs dst n ++
          (pre ++ sp).flatMap d.pieceBad ++ dp.flatMap d.piecePart, none, sp⟩

/-- The elements of a transfer up to the one that stops it: moves in order, remote units wanted, the stop and its position. -/
def dmGather : List (Nat × DmRes) → List DmMove × List (Nat × Nat × Nat) × Option (Nat × DmStop)
  | [] => ([], [], none)
  | (i, r) :: t =>
    match r with
    | .move m => let x := dmGather t; (m :: x.1, x.2.1, x.2.2)
    | .need us => let x := dmGather t; (x.1, us ++ x.2.1, x.2.2)
    | .stop y => ([], [], some (i, y))

/-! ## Parameters (R294, R295) -/

/-- A mover's parameters: sides, hint, and the element count with each element's source, destination and length as the command fixes
them. -/
structure DmParam where
  scs : Bool
  dcs : Bool
  hint : Nat
  lcs : Bool
  deriving DecidableEq, Repr

/-- The flags of word 2. -/
def dmParam (ws : List Word) : DmParam := ⟨bit (wd ws 2) 0, bit (wd ws 2) 1, bits (wd ws 2) 3 2, bit (wd ws 2) 6⟩

/-- Word 2 has a reserved bit set or PRIO 3. -/
def dmWord2Bad (lists : Bool) (ws : List Word) : Bool := bits (wd ws 2) 63 (if lists then 7 else 6) != 0 || bits (wd ws 2) 5 4 == 3

/-- Two core-store ranges share a byte. -/
def shares (xs ys : List (Nat × Nat)) : Bool := xs.any (fun x => ys.any (fun y => meets x.1 x.2 y.1 y.2))

/-- A core-store range leaves the store. -/
def outside (xs : List (Nat × Nat)) : Bool := xs.any (fun x => decide (coreStoreSize < x.1 + x.2))

/-- The elements of `dm.copy`: position, source, destination, length. -/
def copyElems (ws : List Word) : List (Nat × Nat × Nat × Nat) :=
  let n := bits (wd ws 3) 31 0
  (List.range ((n + 255) / 256)).map (fun u => (u, wd ws 0 + 256 * u, wd ws 1 + 256 * u, min 256 (n - 256 * u)))

/-- The address of row y of plane z. -/
def rowAddr (base sy sz y z : Nat) : Nat := ((base : Int) + sval 64 sy * y + sval 64 sz * z) |>.emod (2 ^ 64 : Nat) |>.toNat

/-- The rows of `dm.stride`. -/
def strideElems (ws : List Word) : List (Nat × Nat × Nat × Nat) :=
  let x := bits (wd ws 3) 31 0
  let yc := bits (wd ws 3) 47 32
  (List.range (bits (wd ws 3) 59 48)).flatMap (fun z => (List.range yc).map (fun y =>
    (y + yc * z, rowAddr (wd ws 0) (wd ws 4) (wd ws 6) y z, rowAddr (wd ws 1) (wd ws 5) (wd ws 7) y z, x)))

/-- R295 for `dm.copy` and `dm.stride`: the failing status, 0 if none. -/
def plainCheck (stride : Bool) (ws : List Word) : Nat :=
  let g := dmParam ws
  let es := if stride then strideElems ws else copyElems ws
  let ss := es.map (fun e => (e.2.1, e.2.2.2))
  let ds := es.map (fun e => (e.2.2.1, e.2.2.2))
  let w3 := wd ws 3
  if dmWord2Bad false ws || (if stride then bits w3 63 60 != 0 else bits w3 63 32 != 0) || es.isEmpty || bits w3 31 0 == 0 then 0x502
  else if (g.scs && wd ws 0 % 8 != 0) || (g.dcs && wd ws 1 % 8 != 0) then stDescAlign
  else if (g.scs && outside ss) || (g.dcs && outside ds) then stBounds
  else if g.scs && g.dcs && shares ss ds then stOverlap
  else 0

/-- COUNT, START and ESIZE of a gather or scatter. -/
def listCount (ws : List Word) : Nat × Nat × Nat := (bits (wd ws 4) 12 0, bits (wd ws 4) 28 16, bits (wd ws 4) 40 32)

/-- The list entry of element `i`, where it can be read: the elements before the data of a gather or scatter. -/
def Dev.listEntry (d : Dev) (rd : List (Nat × List Byte)) (c : DmSite) (ws : List Word) (i : Nat) :
    Except DmRes (List DmPiece × List Byte) := d.dmFetch rd c (dmParam ws).lcs (wd ws 3 + 4 * i) 4

/-- Source and destination of list element `i` with index `v`. -/
def listSides (scatter : Bool) (ws : List Word) (i v : Nat) : Nat × Nat :=
  let es := (listCount ws).2.2
  let far := v * wd ws 5
  if scatter then (wd ws 0 + i * es, wd ws 1 + far) else (wd ws 0 + far, wd ws 1 + i * es)

/-- The list elements of a gather or scatter. -/
def listElems (ws : List Word) : List Nat := addrs (listCount ws).2.1 ((listCount ws).1 - (listCount ws).2.1)

/-- R295 for `dm.gather` and `dm.scatter`; the indexed side in the core store is checked from the list as it stands. -/
def Dev.listCheck (d : Dev) (rd : List (Nat × List Byte)) (c : DmSite) (scatter : Bool) (ws : List Word) : Nat :=
  let g := dmParam ws
  let (n, st, es) := listCount ws
  let w4 := wd ws 4
  let base := if scatter then wd ws 1 else wd ws 0
  let other := if scatter then wd ws 0 else wd ws 1
  let otherCs := if scatter then g.scs else g.dcs
  let ix := (listElems ws).filterMap (fun i => match d.listEntry rd c ws i with
    | .ok (_, bs) => some (listSides scatter ws i (ofBytes bs))
    | .error _ => none)
  let ss := ix.map (fun x => (x.1, es))
  let ds := ix.map (fun x => (x.2, es))
  if dmWord2Bad true ws || bits w4 15 13 != 0 || bits w4 31 29 != 0 || bits w4 63 41 != 0 || n == 0 || decide (4096 < n) ||
      decide (n ≤ st) || decide (es < 8) || decide (256 < es) || es % 8 != 0 || wd ws 3 % 4 != 0 || wd ws 5 % 8 != 0 then 0x502
  else if base % 8 != 0 || (otherCs && other % 8 != 0) || (g.lcs && wd ws 3 % 8 != 0) then stDescAlign
  else if (g.lcs && outside [(wd ws 3, 4 * n)]) || (otherCs && outside [(other, es * n)]) || (g.scs && outside ss) ||
      (g.dcs && outside ds) then stBounds
  else if g.scs && g.dcs && shares ss ds then stOverlap
  else 0

/-! ## The elements of each command -/

/-- The elements of `dm.copy` and `dm.stride`. -/
def Dev.plainMoves (d : Dev) (rd : List (Nat × List Byte)) (c : DmSite) (stride : Bool) (ws : List Word) : List (Nat × DmRes) :=
  let g := dmParam ws
  (if stride then strideElems ws else copyElems ws).map (fun e => (e.1, d.dmElem rd c e.1 [] [] g.scs e.2.1 g.dcs e.2.2.1 e.2.2.2))

/-- The elements of `dm.gather` and `dm.scatter` (R297). -/
def Dev.listMoves (d : Dev) (rd : List (Nat × List Byte)) (c : DmSite) (scatter : Bool) (ws : List Word) : List (Nat × DmRes) :=
  let g := dmParam ws
  (listElems ws).map (fun i => (i, match d.listEntry rd c ws i with
    | .error r => r
    | .ok (pre, bs) =>
      let x := listSides scatter ws i (ofBytes bs)
      d.dmElem rd c i pre (d.mapBad c g.lcs (wd ws 3 + 4 * i) 4) g.scs x.1 g.dcs x.2 (listCount ws).2.2))

/-- R132: the writes of one delta on a working copy: the value and DSUM. -/
def Dev.deltaWr (d : Dev) (c : Nat) (h : Quire) (p e v : Nat) : List Wr :=
  let va := h.va.1 + p * h.va.2 + 8 * e
  let da := h.aa + 32 * p + 8
  let change := f64.abs (f64.sub 0 v (d.csNum c va 8)).code
  [⟨.core c, va, bytesOf 8 v⟩, ⟨.core c, da, bytesOf 8 (f64.add 0 (d.csNum c da 8) change).code⟩]

/-- The entries of `dm.delta` in list order, on a working copy (R132 to R134). -/
def Dev.deltaMoves (rd : List (Nat × List Byte)) (c : DmSite) (h : Quire) (la : Nat) : List Nat → Dev → List (Nat × DmRes)
  | [], _ => []
  | i :: t, d =>
    match d.dmFetch rd c false (la + 16 * i) 16 with
    | .error r => (i, r) :: (match r with
      | .need _ => Dev.deltaMoves rd c h la t d
      | _ => [])
    | .ok (ps, bs) =>
      let p := numAt bs 0 4
      let e := numAt bs 4 4
      if h.p ≤ p ∨ h.e ≤ e then [(i, .stop .range)]
      else
        let us := d.deltaWr c.c h p e (numAt bs 8 8)
        (i, .move ⟨i, ps, us, 16, d.mapBad c false (la + 16 * i) 16 ++ ps.flatMap d.pieceBad, some p, ps⟩) ::
          Dev.deltaMoves rd c h la t (d.applyUnit {} us)

/-- R132: held entries of `dm.delta`: each takes its change from the value and DSUM that stand when it is written. -/
def Dev.deltaAgain (c : Nat) (h : Quire) : List (List Wr) → Dev → List (List Wr)
  | [], _ => []
  | u :: t, d =>
    let w := u.headD ⟨.core c, 0, []⟩
    let us := d.deltaWr c h ((w.addr - h.va.1) / h.va.2) ((w.addr - h.va.1) % h.va.2 / 8) (ofBytes w.data)
    us :: Dev.deltaAgain c h t (d.applyUnit {} us)

/-- One block of `dm.dense` (R135). -/
def Dev.denseMove (d : Dev) (rd : List (Nat × List Byte)) (c : DmSite) (h : Quire) (ws : List Word) (b : Nat) : DmRes :=
  match d.dmFetch rd c false (wd ws 4 + 4 * b) 4 with
  | .error r => r
  | .ok (ip, ib) =>
    let p := ofBytes ib
    if h.p ≤ p then .stop .range
    else
      let sa := wd ws 1 + b * bits (wd ws 3) 31 0
      match d.dmFetch rd c false sa (8 * h.e) with
      | .error r => r
      | .ok (sp, bs) =>
        .move ⟨b, ip ++ sp,
          [⟨.core c.c, h.va.1 + p * h.va.2, bs⟩, ⟨.core c.c, h.aa + 32 * p + 8, bytesOf 8 (f64.infCode false)⟩],
          8 * h.e, d.mapBad c false (wd ws 4 + 4 * b) 4 ++ d.mapBad c false sa (8 * h.e) ++ (ip ++ sp).flatMap d.pieceBad, some p, sp⟩

/-- The checks of a delta command: the quire (R127, R131), then its block: every unlisted bit is reserved, and LADDR, IADDR and SSTRIDE
are aligned to what they name (log entry 32). -/
def Dev.deltaCheck (d : Dev) (c : Nat) (dense : Bool) (ws : List Word) (h : Quire) : Nat :=
  let n := bits (wd ws 2) 12 0
  let w2 := wd ws 2
  if h.haddr % 64 ≠ 0 ∨ !h.bound then 0x300
  else if !d.sigPresent c h then 0x301
  else if bits (wd ws 0) 63 23 != 0 || bits w2 15 13 != 0 || bits w2 63 29 != 0 || n == 0 || decide (4096 < n) ||
      decide (n ≤ bits w2 28 16) || wd ws 1 % (if dense then 64 else 16) != 0 ||
      (dense && (bits (wd ws 3) 63 32 != 0 || bits (wd ws 3) 31 0 % 64 != 0 || decide (bits (wd ws 3) 31 0 < 8 * h.e) ||
        wd ws 4 % 4 != 0)) then 0x502
  else 0

/-! ## Running -/

/-- 05 R132: the quire of a delta command's run: its header as read at the start. -/
def Dev.runQuire (d : Dev) (c : Nat) (r : Run) : Quire :=
  let a := bits (wd r.params 0) 22 0
  quireOf a (r.head.getD (d.csRead c a 64))

/-- A command of delta feeding. -/
def isDelta (rtn : Nat) : Bool := rtn == 0x140 || rtn == 0x141

/-- The checks and elements of a mover command's run; a delta command is checked at its start only (05 R131). -/
def Dev.dmPlan (d : Dev) (c : DmSite) (r : Run) : Nat × List (Nat × DmRes) :=
  let rd := r.rdata
  let ws := r.params
  let h := d.runQuire c.c r
  let is := addrs (bits (wd ws 2) 28 16) (bits (wd ws 2) 12 0 - bits (wd ws 2) 28 16)
  match dRtn r.desc with
  | 0x100 => (plainCheck false ws, d.plainMoves rd c false ws)
  | 0x101 => (plainCheck true ws, d.plainMoves rd c true ws)
  | 0x102 => (d.listCheck rd c false ws, d.listMoves rd c false ws)
  | 0x103 => (d.listCheck rd c true ws, d.listMoves rd c true ws)
  | 0x140 => (if r.head.isSome then 0 else d.deltaCheck c.c false ws h, Dev.deltaMoves rd c h (wd ws 1) is d)
  | _ => (if r.head.isSome then 0 else d.deltaCheck c.c true ws h, is.map (fun b => (b, d.denseMove rd c h ws b)))

/-- The destinations whose sequence number has moved since `before`, with their last number (R351). -/
def Dev.noteDsts (q n : Nat) (before : List (Nat × Nat)) (d : Dev) : Dev :=
  let upd := fun (r : Run) => d.fabric.seqTx.foldl (fun ds p => if tget 0 p.1 before = p.2 then ds else tset p.1 p.2 ds) r.dsts
  d.setRunN q n (fun r => { r with dsts := upd r })

/-- R354: a run that has written to a dead slot completes FAILED. -/
def Dev.deadWrite (q n : Nat) (us : List (List Wr)) (d : Dev) : Dev :=
  if us.any (fun u => u.any (fun w => w.sp == .phys && (match d.locate w.addr with
    | .rack s _ => d.slotDead s
    | _ => false)))
  then d.setRunN q n (fun r => if r.status = 0 then { r with status := stFailed } else r) else d

/-- R275, R279: a piece that a mover has read goes through the coves' caches. -/
def Dev.pieceTouch (x : Option Access) (d : Dev) (p : DmPiece) : Dev :=
  match p.sp, x with
  | .phys, some x => d.touch x false p.addr p.n
  | _, _ => d

/-- 05 R136: the problems whose values the writes of a delta command change are marked where a running command covers them. -/
def Dev.staleMarks (c : Nat) (h : Quire) (us : List (List Wr)) (d : Dev) : Dev :=
  us.foldl (fun d u => match u.head? with
    | some w => d.staleMark c h ((w.addr - h.va.1) / h.va.2)
    | none => d) d

/-- The units of run `n` that have been written: those that no failed check holds. -/
def Dev.written (d : Dev) (q n : Nat) (us : List (List Wr)) : List (List Wr) :=
  match d.runN q n with
  | some r => us.take (us.length - r.todo.length)
  | none => []

/-- R298: the registers and the detail of a stop. -/
def Dev.dmStop (q n pos : Nat) (x : DmStop) (d : Dev) : Dev :=
  let c := d.qTarget q
  let m := d.qKind q - 3
  match x with
  | .fault cause va =>
    ((d.wr (.coreDmFaddr c m) (BitVec.ofNat 64 va)).wr (.coreDmFser c m) (BitVec.ofNat 64 (n % 2 ^ 48 + cause * 2 ^ 48))).setRunN
      q n (fun r => { r with status := stAddrFault, detail := pos % 2 ^ 28 + cause * 2 ^ 28 })
  | .far p => (d.farDownEvent p).setRunN q n (fun r => { r with status := 0x503, detail := pos % 2 ^ 28 })
  | .range => d.setRunN q n (fun r => { r with status := 0x500, detail := pos })

/-- R285, R299: uncorrectable words met by the moves: each reported once, MEM_UNCORR with the first position and its storage. -/
def Dev.dmBad (q n : Nat) (ms : List DmMove) (d : Dev) : Dev :=
  let bs := d.badWords.filter (fun w => ms.any (fun m => m.bad.contains w))
  match ms.find? (fun m => !m.bad.isEmpty) with
  | none => d
  | some m =>
    let kind := (m.bad.head?.map BadWord.kind).getD 0
    (d.uncorrAll bs).setRunN q n (fun r =>
      if r.status = 0 then { r with status := stMemUncorr, detail := m.pos % 2 ^ 28 + kind * 2 ^ 28 } else r)

/-- Issues the remote reads that a run waits for (R337, R352). -/
def Dev.dmIssue (q n : Nat) (us : List (Nat × Nat × Nat)) (d : Dev) : Dev :=
  us.foldl (fun d u =>
    let w := wordSpan u.2.1 u.2.2
    let a := rackBase + u.1 * winSize + w.1
    match d.importFor u.1 w.1 w.2 with
    | none => d
    | some k =>
      let id := d.fabric.nextId
      let waits := ((d.runN q n).map Run.await).getD []
      if waits.any (fun x => x.2 == a) then d
      else
        (d.sendMp u.1 w.1 (d.fld (.fbImpKey k) F.fbImpKey_REGION) (d.fld (.fbImpKey k) F.fbImpKey_KEY) (.read w.2) false true
          (d.who q)).setRunN q n (fun r => { r with await := r.await ++ [(id, a)], done := false })) d

/-- R295: the source and destination of a transfer within memory share a byte, which is not checked. -/
def dmOverlap (ms : List DmMove) : Bool :=
  ms.any (fun x => x.src.any (fun p => p.sp == .phys &&
    ms.any (fun y => y.us.any (fun w => w.sp == .phys && meets p.addr p.n w.addr w.data.length))))

/-- R295: a byte of an overlapping transfer: its old value, or the value of some source byte. The old byte of another package is free. -/
def Dev.mixByte (d : Dev) (srcs : List Byte) (a : Nat) (b : Byte) : Byte :=
  let k := Config.freeIndex d.free a
  if k % 2 = 0 then
    (match d.locate a with
     | .stack _ | .far _ => (d.physRead a 1).head?.getD b
     | _ => Config.freeByte d.free a)
  else srcs.getD (k / 2 % srcs.length) b

/-- R295: the writes of an overlapping transfer. -/
def Dev.mixWrites (d : Dev) (rd : List (Nat × List Byte)) (ms : List DmMove) : List (List Wr) :=
  let srcs := ms.flatMap (fun m => m.src.flatMap (d.pieceData rd))
  ms.map (fun m => m.us.map (fun w => { w with data := w.data.zipIdx.map (fun x => d.mixByte srcs (w.addr + x.2) x.1) }))

/-- The elements of a run are moved: what its reads met and its writes. -/
def Dev.dmMove (q n : Nat) (bad : Option Nat) (r : Run) (ms : List DmMove) (stop : Option (Nat × DmStop)) (d : Dev) : Dev :=
  let c := d.qTarget q
  let m := d.qKind q - 3
  let h := d.runQuire c r
  let lap := dmOverlap ms
  let us := if lap then d.mixWrites r.rdata ms else ms.map DmMove.us
  let d := if lap then { d with free := d.free + 1 } else d
  let reads := ms.flatMap DmMove.reads
  let before := d.fabric.seqTx
  let d := d.setRunN q n (fun r => { r with done := true })
  let d := (reads.flatMap d.rackUnits).foldl (fun d u => d.rackLoadCount u.1 u.2.1 u.2.2) d
  let d := match stop with
    | some (i, x) => d.dmStop q n i x
    | none => d
  let d := d.dmBad q n ms
  let d := reads.foldl (Dev.pieceTouch (d.accOf q)) d
  let d := d.countCore c (8 + m) (ms.foldl (fun a x => a + x.n) 0)
  let d := d.runUnits q n (us.map (fun _ => [5 + m])) us bad
  let d := (d.noteDsts q n before).deadWrite q n us
  let d := if isDelta (dRtn r.desc) then d.staleMarks c h (d.written q n us) else d
  d.settle

/-- Run `n` of a mover queue: its checks, then it waits for the remote bytes it needs, or moves its elements. -/
def Dev.dmGo (q n : Nat) (bad : Option Nat) (d : Dev) : Dev :=
  match d.runN q n with
  | none => d
  | some r =>
    let c : DmSite := ⟨d.qTarget q, r.root⟩
    let (st, rs) := d.dmPlan c r
    let (ms, need, stop) := dmGather rs
    if st ≠ 0 then d.finishN q n st 0
    else
      let head := if isDelta (dRtn r.desc) then some (r.head.getD (d.csRead c.c (bits (wd r.params 0) 22 0) 64)) else none
      let d := d.setRunN q n (fun r => { r with head := head })
      if !need.isEmpty then (d.dmIssue q n need).setRunN q n (fun r => { r with failAt := bad })
      else d.dmMove q n bad { r with head := head } ms stop

/-- A mover row: the newest run starts moving. -/
def Dev.dmRow (q rtn : Nat) (bad : Silicon) (d : Dev) : Dev :=
  d.startHit q rtn bad (fun _ d => d.dmGo q (d.newest q) bad.unit)

/-- DM_COPY (R294 to R299). -/
def execDmCopy (q : Nat) (bad : Silicon) (s : State) : Host.Outcome State Fault Refusal := s.upd (Dev.dmRow q 0x100 bad)

/-- DM_STRIDE (R294 to R299). -/
def execDmStride (q : Nat) (bad : Silicon) (s : State) : Host.Outcome State Fault Refusal := s.upd (Dev.dmRow q 0x101 bad)

/-- DM_GATHER (R294, R295, R297 to R299). -/
def execDmGather (q : Nat) (bad : Silicon) (s : State) : Host.Outcome State Fault Refusal := s.upd (Dev.dmRow q 0x102 bad)

/-- DM_SCATTER (R294, R295, R297 to R299). -/
def execDmScatter (q : Nat) (bad : Silicon) (s : State) : Host.Outcome State Fault Refusal := s.upd (Dev.dmRow q 0x103 bad)

/-- DM_DELTA (05 R131 to R136). -/
def execDmDelta (q : Nat) (bad : Silicon) (s : State) : Host.Outcome State Fault Refusal := s.upd (Dev.dmRow q 0x140 bad)

/-- DM_DENSE (05 R135, R136). -/
def execDmDense (q : Nat) (bad : Silicon) (s : State) : Host.Outcome State Fault Refusal := s.upd (Dev.dmRow q 0x141 bad)

end Sys2Proof.Machine
end

