-- ==== Sys2Proof/Machine/Access.lean ====
section
/-! DEFINITION. Who may read and write a control-space register (15 R434 to R438 and the access rule of each chapter), and which
registers exist (01 R16, 16 R442, R453). -/

namespace Sys2Proof.Machine

/-- 15 R438: queue `q` is one of job code `k`'s queues: its CQ_BIND names the control core, bound or not. -/
def Dev.jobQueue (d : Dev) (k q : Nat) : Bool := d.qCcore q == k

/-- The queues whose CQ_BIND a record has set, and one of the others, whose CQ_BIND all read zero, if there is any. -/
def Dev.bindQs (d : Dev) : List Nat :=
  let qs := d.regs.filterMap (fun p => match p.1 with
    | .cqBind q => some q
    | _ => none)
  qs ++ ((List.range 4096).find? (fun q => !qs.contains q)).toList

/-- 09 R239: core `c` is the home core of one of job code `k`'s queues. -/
def Dev.jobCore (d : Dev) (k c : Nat) : Bool := d.bindQs.any (fun q => d.jobQueue k q && d.qHome q == c)

/-- 03 R107: core `c` is one that job code `k`'s queues use. -/
def Dev.jobUses (d : Dev) (k c : Nat) : Bool :=
  d.bindQs.any (fun q => d.jobQueue k q && decide (d.qKind q ≤ 4) && d.qTarget q == c)

/-- 15 R438: signal counter `n` lies in job code `k`'s range. -/
def Dev.jobCtr (d : Dev) (k n : Nat) : Bool :=
  d.flag (.ccJobPerm k) F.ccJobPerm_CTR_EN && decide (d.fld (.ccJobPerm k) F.ccJobPerm_CTR_BASE ≤ n) &&
    decide (n ≤ d.fld (.ccJobPerm k) F.ccJobPerm_CTR_LAST)

/-- CC_JOB_PERM.PERF, which reads 0 unless JOB_COUNTERS is locked (16 R453). -/
def Dev.jobPerf (d : Dev) (k : Nat) : Bool := d.feat 11 && d.flag (.ccJobPerm k) F.ccJobPerm_PERF

/-- The core, control core or queue whose block holds a register, where it has one. -/
def Reg.unit : Reg → Nat
  | .coreBind c | .coreSgStatus c | .coreSvStatus c | .coreVxStatus c | .coreVxFlags c | .coreRbank c | .coreXlatRoot c
  | .coreXlatInv c | .coreChkStatus c | .coreSound c => c
  | .coreRngKey c _ | .coreRngCtr c _ | .coreSig c _ | .coreDmFaddr c _ | .coreDmFser c _ | .corePmcSel c _
  | .corePmcValue c _ | .corePmcShadow c _ => c
  | .coreParam c _ _ | .corePstage c _ _ | .coreBank c _ _ => c
  | .ccStatus k | .ccTvec k | .ccTrapCause k | .ccTrapPc k | .ccTrapAddr k | .ccFlags k | .ccVstate k | .ccCycle k
  | .ccMboxIe k | .ccXlatRoot k | .ccXlatInv k | .ccJobPerm k | .ccCtl k | .ccCallStatus k => k
  | .ccMboxTag k _ | .ccMboxVal k _ => k
  | .cqDoorbell q | .cqCtl q | .cqStatus q | .cqSerial q | .cqBind q | .cqRing q | .cqCring q | .cqCread q => q
  | .cqSig n => n
  | _ => 0

/-- A register of a core block. -/
def Reg.isCore : Reg → Bool
  | .coreBind _ | .coreSgStatus _ | .coreSvStatus _ | .coreVxStatus _ | .coreVxFlags _ | .coreRbank _ | .coreXlatRoot _
  | .coreXlatInv _ | .coreChkStatus _ | .coreSound _ => true
  | .coreRngKey _ _ | .coreRngCtr _ _ | .coreSig _ _ | .coreDmFaddr _ _ | .coreDmFser _ _ | .corePmcSel _ _
  | .corePmcValue _ _ | .corePmcShadow _ _ => true
  | .coreParam _ _ _ | .corePstage _ _ _ | .coreBank _ _ _ => true
  | _ => false

/-- A register exists: its indices are in range, its feature is in force, and a core block's core is below N. -/
def Dev.exists (d : Dev) (r : Reg) : Bool :=
  r.inRange && (match r.info.feat with
    | some b => d.feat b
    | none => true) && (!r.isCore || decide (r.unit < d.nCores))

/-- The register that a control-space offset names, if it exists. -/
def Dev.regAt (d : Dev) (off : Nat) : Option Reg :=
  match Reg.locate off with
  | some r => if d.exists r then some r else none
  | none => none

/-- Whether a requester may write a register (the value matters to TG_CMD only, 02 R42). -/
def Dev.mayWrite (d : Dev) (req : Req) (r : Reg) (v : Word) : Bool :=
  let u := r.unit
  match req, r.info.acl with
  | .host, .bell | .host, .sig => true
  | .host, .ccOwn | .host, .hostDb => false
  | .host, .ccCtl => v.toNat &&& 4 == 0
  | .host, _ => true
  | .custodian, .bell | .custodian, .sig | .custodian, .rng => false
  | .custodian, .ccCtl => v.toNat &&& 4 == 0
  | .custodian, _ => true
  | .sup k, .ccOwn => k == u
  | .sup k, .ccCtl => k == u && v.toNat &&& 3 == 0
  | .sup _, .tide | .sup _, .tgJobR | .sup _, .tgPt | .sup _, .tgCmd => true
  | .sup _, .rng | .sup _, .param | .sup _, .qctl | .sup _, .bell | .sup _, .sig | .sup _, .xlat => true
  | .sup _, .pp | .sup _, .ppJobR | .sup _, .pmcSel | .sup _, .pmcVal | .sup _, .hostDb | .sup _, .sound => true
  | .sup _, _ => false
  | .job k, .tgPt => d.flag (.ccJobPerm k) F.ccJobPerm_PTIME
  | .job k, .tgCmd => d.flag (.ccJobPerm k) F.ccJobPerm_PTIME && v.toNat == 16
  | .job k, .rng => d.jobUses k u
  | .job k, .param => d.jobCore k u
  | .job k, .qctl | .job k, .bell => d.jobQueue k u
  | .job k, .sig => d.jobCtr k u
  | .job k, .sound => d.fld (.coreBind u) F.coreBind_CCORE == k
  | .job _, _ => false

/-- Whether a requester may read a register. -/
def Dev.mayRead (d : Dev) (req : Req) (r : Reg) : Bool :=
  let u := r.unit
  match req, r.info.acl with
  | .custodian, .rng => false
  | .job k, .qread | .job k, .qctl | .job k, .bell => d.jobQueue k u
  | .job _, .tgJobR | .job _, .sig | .job _, .ppJobR => true
  | .job k, .rng => d.jobUses k u
  | .job k, .param => d.jobCore k u
  | .job k, .pmcVal | .job k, .pmcShd => d.jobPerf k
  | .job _, _ => false
  | _, _ => true

end Sys2Proof.Machine
end

