-- ==== Sys2Proof/Machine/PlantOps.lean ====
section
/-! DEFINITION. Frames of the plant ports (14): the commit of a slot, sending at a mark, misses, keep-alive. The slot rows, mark
firing and STOP use these. -/

namespace Sys2Proof.Machine

/-- An image is loaded (15, GL_IMG_STATUS.STATE). -/
def Dev.loaded (d : Dev) : Bool := d.fld .glImgStatus F.glImgStatus_STATE == 2

/-- R407: duplicate mode. -/
def Dev.dup (d : Dev) : Bool := d.flag (.ppCfg 0) F.ppCfg_DUP

/-- The slot is enabled; port 1's slots are ignored in duplicate mode (R407). -/
def Dev.slotOn (d : Dev) (p n : Nat) : Bool :=
  d.lfld (.ppSlotTime p n) F.ppSlotTime_EN == 1 && !(d.dup && p == 1)

/-- The enabled slots of a port, ascending. -/
def Dev.slotsOn (d : Dev) (p : Nat) : List Nat := (List.range 64).filter (d.slotOn p)

/-- The mark a slot names. -/
def Dev.slotMark (d : Dev) (p n : Nat) : Nat := d.lfld (.ppSlotTime p n) F.ppSlotTime_MARK

/-- R399: LEN of a frame buffer. -/
def bufLen (buf : List Byte) : Nat := numAt buf 0 2

/-- R400: LEN is within 14 to 1,518. -/
def lenOk (n : Nat) : Bool := decide (14 ≤ n) && decide (n ≤ 1518)

/-- R399: the frame of a buffer without FCS. Only a free buffer can hold a LEN outside the range; it is cut to it (log entry 20). -/
def bufFrame (buf : List Byte) : List Byte :=
  let n := min (max (bufLen buf) 14) 1518
  padTo n ((buf.drop 64).take n)

/-- R399: padded with zeros to 60 bytes and with the FCS appended. -/
def wireFrame (f : List Byte) : List Byte := padTo 60 f ++ bytesOf 4 (fcs (padTo 60 f))

/-- The ports on which a slot of port `p` leaves (R407). -/
def Dev.outPorts (d : Dev) (p : Nat) : List Nat := if p = 0 ∧ d.dup then [0, 1] else [p]

/-- A scheduled frame leaves each of its ports, or is discarded and counted where the link is down (R408). -/
def Dev.sendFrame (ports : List Nat) (ev : Nat) (frame : List Byte) (d : Dev) : Dev :=
  ports.foldl (fun d p =>
    if d.flag (.ppStatus p) F.ppStatus_LINK then (d.emit (.frame p (wireFrame frame))).countCn ev 1
    else d.bump (.ppStatus p) F.ppStatus_TX_DOWN 1) d

/-- R404: the deadline miss of a slot that sends a fallback, with its cause. -/
def Dev.frameMiss (p n cause : Nat) (d : Dev) : Dev :=
  let d := ((d.bump (.ppStatus p) F.ppStatus_MISSES 1).setFld (.ppStatus p) F.ppStatus_MISS_EV 1).setFld
    (.ppStatus p) F.ppStatus_LCAUSE cause
  let d := d.wr (.ppMissSlots p) (d.rd (.ppMissSlots p) ||| BitVec.ofNat 64 (2 ^ n))
  (d.event (source 4 p) 0x30 (n + cause * 2 ^ 8 + d.tide.no % 2 ^ 48 * 2 ^ 16) false).choiceBit 4

/-- The fallback of a slot enabled after load that nothing has filled: its bytes are free values (log entry 20). -/
def Dev.freeBuf (d : Dev) : List Byte := (List.range 2048).map (Config.freeByte d.free)

/-- R406: the fallback that applies to a slot. -/
def Dev.fallbackOf (d : Dev) (p n : Nat) : List Byte := tget d.freeBuf n (d.plant p).fallback

/-- R398, R399: the address of the primary buffer. -/
def Dev.primaryAt (d : Dev) (p n : Nat) : Nat :=
  d.lfld (.ppSlotBuf p n) F.ppSlotBuf_PADDR * 64 +
    (if d.lfld (.ppSlotTime p n) F.ppSlotTime_DBL = 1 then 2048 * (d.tide.no % 2) else 0)

/-- The uncorrectable words that the fetch of a buffer reads: its first word, and its frame if LEN is in range. -/
def Dev.badBuf (d : Dev) (a : Nat) : List BadWord :=
  let n := ofBytes (d.physRead a 2)
  d.badIn a (if lenOk n then 64 + n else 8)

/-- R410: KA of a port clears when no enabled slot waits for its commit point. -/
def Dev.kaCheck (p : Nat) (d : Dev) : Dev :=
  let x := d.plant p
  let left := x.kaSlots.filter (d.slotOn p)
  if x.kaOn && left.isEmpty then
    (d.setPlant p { x with kaOn := false, kaSlots := [] }).setFld (.ppStatus p) F.ppStatus_KA 0
  else d.setPlant p { x with kaSlots := left }

/-- R398, R400, R404, R406, R410: what a slot's commit point does. `held` says whether the whole primary will be held in the port
when the mark fires. -/
def Dev.commitSlot (p n : Nat) (held : Bool) (d : Dev) : Dev :=
  let x := d.plant p
  let x := match thas n x.loaded with
    | true => { x with fallback := tset n (tget [] n x.loaded) x.fallback, loaded := tdel n x.loaded }
    | false => x
  let d := d.setPlant p { x with committed := n :: x.committed, kaSlots := x.kaSlots.filter (· != n) }
  let thr := d.live (.ppSlotThr p n)
  let met := geTest (d.sig (d.lfld (.ppSlotTime p n) F.ppSlotTime_CTR)) thr.toNat
  let thr' := (thr.toNat + d.lfld (.ppSlotBuf p n) F.ppSlotBuf_INC) % 2 ^ 32
  let d := match thas (Reg.ppSlotThr p n) d.held with
    | true => { d with held := tset (Reg.ppSlotThr p n) (BitVec.ofNat 64 thr') d.held }
    | false => d.wr (.ppSlotThr p n) (BitVec.ofNat 64 thr')
  let fb := d.fallbackOf p n
  let choose (c : Chosen) (d : Dev) : Dev := d.setPlant p { d.plant p with chosen := tset n c (d.plant p).chosen }
  let d :=
    if d.flag (.ppCtl p) F.ppCtl_FORCE_FB then choose ⟨0, false, fb⟩ d
    else if !met then choose ⟨1, false, fb⟩ d
    else
      let a := d.primaryAt p n
      let bad := d.badBuf a
      let len := ofBytes (d.physRead a 2)
      let d := d.touch ⟨0, 1⟩ false a (if lenOk len then 64 + len else 8)
      if !bad.isEmpty then choose ⟨4, false, fb⟩ (d.uncorrAll bad)
      else if !lenOk (ofBytes (d.physRead a 2)) then choose ⟨3, false, fb⟩ d
      else if !held then choose ⟨2, false, fb⟩ d
      else choose ⟨0, true, d.physRead a 2048⟩ d
  let d := d.kaCheck p
  if d.dup && p == 0 then d.kaCheck 1 else d

/-- R401, R402, R404: a slot whose armed mark fires sends exactly one frame; a slot still in keep-alive sends none here (R410). -/
def Dev.fireSlot (p n : Nat) (d : Dev) : Dev :=
  let x := d.plant p
  if x.kaSlots.contains n then d
  else
    let c := tget ⟨0, false, d.fallbackOf p n⟩ n x.chosen
    let d := if c.cause = 0 then d else d.frameMiss p n c.cause
    let d := d.sendFrame (d.outPorts p) (if c.prim then 0x0B else 0x0C) (bufFrame c.buf)
    let x := d.plant p
    d.setPlant p { x with
      chosen := tdel n x.chosen
      lastTx := tset n (d.ptime + d.fld (.ppCfg p) F.ppCfg_TXLAT * nsUnit) x.lastTx }

/-- R55, R397: the slots that name a mark with FRAME are armed and send in ascending order. -/
def Dev.armFrames (m : Nat) (d : Dev) : Dev :=
  [0, 1].foldl (fun d p =>
    (d.slotsOn p).foldl (fun d n => if d.slotMark p n = m then d.fireSlot p n else d) d) d

/-- R409: a port enters keep-alive: KA is set, and each enabled slot keeps its place in the schedule t + P, t + 2P, and so on. -/
def Dev.enterKa (d : Dev) : Dev :=
  if !d.loaded then d
  else
    let P := match d.tide.lastLen with
      | some l => max 1 l
      | none => d.lfld .tgLoss F.tgLoss_KAP * floor20
    [0, 1].foldl (fun d p =>
      let x := d.plant p
      let ons := d.slotsOn p
      let last := ons.foldl (fun l n =>
        let t := tget d.ptime n x.lastTx
        tset n (if t ≤ d.ptime then t + (d.ptime - t) / P * P else t) l) []
      (d.setPlant p { x with kaOn := true, kaPeriod := P, kaSlots := ons, chosen := [], kaAt := last }).setFld
        (.ppStatus p) F.ppStatus_KA 1) d

/-- R409: when a slot's next keep-alive frame falls due. -/
def Dev.kaNext (d : Dev) (p n : Nat) : Nat := tget 0 n (d.plant p).kaAt + (d.plant p).kaPeriod

/-- R409, R410: the slots in keep-alive whose next frame is due. -/
def Dev.kaDues (d : Dev) (p : Nat) : List Nat :=
  let x := d.plant p
  if x.kaOn then x.kaSlots.filter (fun n => d.slotOn p n && decide (d.kaNext p n ≤ d.ptime)) else []

/-- R409: the slot's frame is due, and no frame that goes before it: one due earlier, or at the same time for a lower slot. -/
def Dev.kaDue (d : Dev) (p n : Nat) : Bool :=
  (d.kaDues p).contains n && (d.kaDues p).all (fun m =>
    decide (d.kaNext p n < d.kaNext p m) || (d.kaNext p n == d.kaNext p m && decide (n ≤ m)))

/-- R409: one keep-alive frame of a slot; it is no miss. -/
def Dev.kaSend (p n : Nat) (d : Dev) : Dev :=
  let x := d.plant p
  let t := d.kaNext p n
  let d := d.setPlant p { x with kaAt := tset n t x.kaAt, lastTx := tset n t x.lastTx }
  d.sendFrame (d.outPorts p) 0x0C (bufFrame (d.fallbackOf p n))

/-- A new cycle: no slot has passed its commit point in it; slots disabled from this cycle on leave keep-alive. -/
def Dev.plantCycle (d : Dev) : Dev :=
  [0, 1].foldl (fun d p => (d.setPlant p { d.plant p with committed := [], chosen := [] }).kaCheck p) d

end Sys2Proof.Machine
end

