-- ==== Sys2Proof/Machine/FolioOps.lean ====
section
/-! DEFINITION. The folio point (19 R530, R534 to R536): the header that it captures, and the count of FOLIO marks. -/

namespace Sys2Proof.Machine

/-- Sparse bytes of pieces (offset, bytes). -/
def pieces (ps : List (Nat × List Byte)) : List Host.Cell := ps.foldl (fun m p => Mem.write p.1 p.2 m) []

/-- The SHA-256 over GL_FOLIO_MEMBERS, GL_FOLIO_CFG and every GL_FOLIO_REG_n (R530). -/
def Dev.folioDigest (d : Dev) : List Byte :=
  sha256 (bytesOf 8 (d.rd .glFolioMembers).toNat ++ bytesOf 8 (d.rd .glFolioCfg).toNat ++
    (List.range 16).flatMap (fun n => bytesOf 8 (d.rd (.glFolioReg n)).toNat))

/-- The place of an open loop in a queue record: a ring slot, or a segment index with bit 15 set (log entry 21). -/
def loopPlace (l : Loop) : Nat := match l.replay with
  | some r => r.idx + 32768
  | none => l.pos % 32768

/-- R530, R536: the 96-byte record of a queue; HEAD is the slot of its first command that has not started. -/
def Dev.queueRecord (d : Dev) (q : Nat) : List Byte :=
  let y := d.queue q
  let ls := y.loops.reverse
  bytesOf 4 y.pos ++ bytesOf 4 (d.qTail q) ++ bytesOf 4 (d.fld (.cqCread q) F.cqCread_WRITTEN) ++
    bytesOf 6 (d.fld (.cqSerial q) ⟨47, 0⟩) ++ bytesOf 2 ((y.replay.map Replay.idx).getD 0) ++ zeros 4 ++
    bytesOf 8 ((y.replay.map Replay.addr).getD 0 + ls.length + (if y.replay.isSome then 8 else 0)) ++
    (List.range 4).flatMap (fun j => bytesOf 2 (((ls[j]?).map loopPlace).getD 0)) ++
    (List.range 4).flatMap (fun j => bytesOf 8 (((ls[j]?).map Loop.left).getD 0))

/-- The generator state of a core as a folio takes it: a value held under 03 R106 in place of the live one (R536). -/
def Dev.rngRecord (d : Dev) (c : Nat) : List Byte :=
  let v (r : Reg) : List Byte := bytesOf 8 (tget (d.rd r) r (d.core c).rngHeld).toNat
  v (.coreRngKey c 0) ++ v (.coreRngKey c 1) ++ v (.coreRngCtr c 0) ++ v (.coreRngCtr c 1)

/-- A vector command of the core is running. -/
def Dev.vectorRuns (d : Dev) (c : Nat) : Bool :=
  d.queues.any (fun p => d.qKind p.1 == 2 && d.qTarget p.1 == c &&
    p.2.runs.any (fun r => r.agent && dRtn r.desc != 0x900))

/-- R530: the header leaves, but for the generator states of cores whose vector engine runs a command. -/
def Dev.folioHeader (d : Dev) : List Host.Cell :=
  let first := bytesOf 4 0x31464C46 ++ bytesOf 2 1 ++ bytesOf 1 d.folioG ++ bytesOf 1 d.rank ++ bytesOf 8 d.folio.gen ++
    bytesOf 8 (d.rd .glFolioMembers).toNat ++ bytesOf 2 d.nCores ++ bytesOf 4 d.folioL ++ zeros 2 ++
    bytesOf 8 d.tide.count.toNat ++ bytesOf 8 d.tide.no ++ bytesOf 8 d.ns ++ zeros 8 ++ d.folioDigest ++
    (List.range 4).flatMap (fun n => bytesOf 8 (d.rd (.glImgDigest n)).toNat)
  let qs := d.queues.map (fun p => (256 + 96 * p.1, d.queueRecord p.1))
  let sigs := d.regs.filterMap (fun p => match p.1 with
    | .cqSig n => some (393472 + 4 * n, bytesOf 4 (F.cqSig_VALUE.get p.2))
    | .coreSig c n =>
      if F.coreSig_VALID.get p.2 = 1 then some (661760 + 4 * (16 * c + n), bytesOf 4 (F.coreSig_ID.get p.2)) else none
    | _ => none)
  let gens := ((List.range d.nCores).filter (fun c => !d.vectorRuns c)).map (fun c => (655616 + 32 * c, d.rngRecord c))
  let ws := [0, 1].flatMap (fun p => (List.range 4).map (fun r => (674048 + 8 * (4 * p + r), bytesOf 8 (tget 0 r (d.plant p).rxW))))
  pieces ((0, first) :: qs ++ sigs ++ gens ++ ws ++
    [(674112, bytesOf 8 (d.rd .cnRecWptr).toNat ++ bytesOf 8 (d.rd .cnRecRdptr).toNat ++ bytesOf 8 (d.rd .cnRplStatus).toNat)])

/-- R536: the generator state of a core whose command boundary comes after the folio point. -/
def Dev.takeGen (c : Nat) (d : Dev) : Dev :=
  if d.folio.genWait.contains c then
    { d with folio := { d.folio with
        genWait := d.folio.genWait.filter (· != c)
        header := Mem.write (655616 + 32 * c) (d.rngRecord c) d.folio.header } }
  else d

/-- R532: the geometry of a group of G members with L leaves: HS. -/
def halfSize (g l : Nat) : Nat := 65536 * (g * ((l + (g - 2) - 1) / (g - 2)) + 1)

/-- R541: the generation that the commit leaf of half `h` shows valid, for a group of `g` members with `l` leaves each: `g`
well-formed records of one GEN. -/
def Dev.halfGen (d : Dev) (g l h : Nat) : Option Nat :=
  let hs := halfSize g l
  let base := expandPa (d.fld .glFolioCfg F.glFolioCfg_RBASE * 65536) + h * hs + (hs - 65536)
  let rcd (r : Nat) : List Byte := d.physRead (base + 64 * r) 64
  let gen := numAt (rcd 0) 8 8
  if decide (4 ≤ g) && (List.range g).all (fun r =>
      let b := rcd r
      numAt b 0 4 == 0x31434C46 && numAt b 4 1 == r && numAt b 5 1 == g && numAt b 8 8 == gen &&
        numAt b 60 4 == crc32c (b.take 60)) then some gen else none

/-- The half that holds the highest valid generation up to `top`, with that generation. -/
def Dev.validHalf (d : Dev) (g l : Nat) (top : Option Nat) : Option (Nat × Nat) :=
  let ok (x : Nat) : Bool := match top with
    | some t => decide (x ≤ t)
    | none => true
  match (d.halfGen g l 0).filter ok, (d.halfGen g l 1).filter ok with
  | some a, some b => if a < b then some (1, b) else some (0, a)
  | some a, none => some (0, a)
  | none, some b => some (1, b)
  | none, none => none

/-- R536, R540, R542: the folio point: GEN advances, the header is captured, the copy starts in the half that does not hold the
last valid generation. -/
def Dev.folioPoint (d : Dev) : Dev :=
  let half := match d.validHalf d.folioG d.folioL (some d.folio.gen) with
    | some (0, _) => 1
    | _ => 0
  let d := { d with folio := { d.folio with
    requested := none
    gen := d.folio.gen + 1
    half := half
    steps := 0
    lastAt := d.ptime
    tideAt := d.tide.count
    copied := []
    par := []
    sent := []
    genWait := (List.range d.nCores).filter d.vectorRuns } }
  let d := { d with folio := { d.folio with header := d.folioHeader } }
  (d.setFld .glFolioStatus F.glFolioStatus_STATE 2).wr .glFolioProg 0

/-- R534 to R536, in the place of the FOLIO action of 02 R55. -/
def Dev.folioMark (d : Dev) : Dev :=
  let d := { d with folio := { d.folio with steps := d.folio.steps + 1 } }
  match d.folio.requested with
  | some x => if d.fld .glFolioStatus F.glFolioStatus_STATE = 1 ∧ x ≤ d.tide.count.toNat then d.folioPoint else d
  | none => d

end Sys2Proof.Machine
end

