-- ==== Sys2Proof/Machine/TideOps.lean ====
section
/-! DEFINITION. What the tide gate does (02): source loss, coast and STOP, lock and re-base, phases, marks and cycles, free tide,
the tide inputs and the relay. The tide rows, the replay and the tide commands use these. -/

namespace Sys2Proof.Machine

/-! ## States -/

/-- TG_STATUS.STATE set. -/
def Dev.setTideState (n : Nat) (d : Dev) : Dev := (d.setFld .tgStatus F.tgStatus_STATE n).healthDue

/-- R61, R568: a source loss while locked enters coast at the last measured rate. Elsewhere it changes nothing. -/
def Dev.sourceLoss (cause : Nat) (d : Dev) : Dev :=
  if d.tideState ≠ 2 then d
  else
    let rate := d.tideRate
    let d := d.setTide { d.tide with
      coastNum := rate.1, coastDen := rate.2, coastAt := d.cycle, coastBase := d.tide.count
      coastLeft := d.lfld .tgLoss F.tgLoss_COAST + 1 }
    let d := ((d.setTideState 3).setFld .tgStatus F.tgStatus_CAUSE cause).setFld .tgStatus F.tgStatus_COAST_EV 1
    ((d.event (source 3 0) 0x10 cause false).choiceTime 7).allTideIrq

/-- R62, R64: the gate enters STOP: the tide count halts, the plant ports enter keep-alive (14 R409). -/
def Dev.enterStop (d : Dev) : Dev :=
  let d := (d.setTideState 4).setFld .tgStatus F.tgStatus_STOP_EV 1
  (((d.event (source 3 0) 0x11 0 false).choiceTime 7).allTideIrq).enterKa

/-- R64: FORCE_STOP acts in LOCKED and COAST only. -/
def Dev.forceStop (d : Dev) : Dev := if d.tideState = 2 ∨ d.tideState = 3 then d.enterStop else d

/-- Start-up step 9 (16): the custodian reports ready. -/
def Dev.reportReady (d : Dev) : Dev :=
  if d.fld .glBootStatus F.glBootStatus_STAGE = 6 then
    (((d.setFld .glBootStatus F.glBootStatus_STAGE 7).setFld .hlEvent F.hlEvent_BOOT 1).irq).healthDue
  else d

/-! ## Phases (R26, R28, R48 to R53, R569) -/

/-- R52: the running command of a gated engine is frozen; one of an engine that the phase runs resumes. -/
def Dev.freezeRun (q : Nat) (d : Dev) : Dev :=
  match d.agentRun q with
  | some r =>
    if dRtn r.desc == 0x900 || decide (1 < d.qKind q) then d
    else if !d.gates (d.qKind q) then d.setRunN q r.serial (fun r => { r with frozen := false })
    else if r.frozen then d
    else
      let d := ((d.setRunN q r.serial (fun r => { r with frozen := true })).countTg 3 1).setFld .tgStatus F.tgStatus_OVERRUN 1
      if d.tide.overrunLogged then d
      else
        (d.setTide { d.tide with overrunLogged := true }).event (source 3 0) 0x13
          (d.fld .tgStatus F.tgStatus_PHASE + d.tide.no % 2 ^ 48 * 2 ^ 8) false
  | none => d

/-- The cap in force at a phase entry (01 R27; 17 R501, R502). -/
def Dev.planCap (d : Dev) : Nat :=
  if d.flag .glErrStatus F.glErrStatus_SUPPLY_WARN && d.flag .glImgInfo F.glImgInfo_SUPPLY_CAP
  then d.fld .glPwrCap F.glPwrCap_FLOOR else d.fld .glPwrCap F.glPwrCap_CAP

/-- R48, R49: phase entry `e` comes into force, with its kind and planned clock; no completion of it has been reported yet (R59). An
OPEN phase begins at its CLOCK, the upper limit of its engine clock (DESIGN CHOICE, log entry 57). -/
def Dev.phaseStart (e : Nat) (d : Dev) : Dev :=
  let r := Reg.tgPhase e
  let d := d.setTide { d.tide with
    phase := some e, cut := 0, openClk := d.lfld r F.tgPhase_CLOCK, phaseDone := d.tide.phaseDone.filter (fun p => p.2 != e) }
  let d := (d.setFld .tgStatus F.tgStatus_PHASE e).setFld .tgStatus F.tgStatus_KIND (d.lfld r F.tgPhase_KIND)
  let d := d.reach .phase
  let d := { d with capInForce := d.planCap }
  d.queues.foldl (fun d p => d.freezeRun p.1) d

/-- R569: no phase entry is in force. -/
def Dev.noPhase (d : Dev) : Dev :=
  let d := d.setTide { d.tide with phase := none, cut := 0, openClk := 16 }
  (d.setFld .tgStatus F.tgStatus_PHASE 0).setFld .tgStatus F.tgStatus_KIND 2

/-- The entries in use whose starting marks fire (R569), from the earliest offset; among equals the higher-numbered last. -/
def Dev.startOrder (d : Dev) : List Nat :=
  let le (a b : Nat) : Bool := decide (d.markOff (d.phaseMark a) < d.markOff (d.phaseMark b)) ||
    (d.markOff (d.phaseMark a) == d.markOff (d.phaseMark b) && decide (a ≤ b))
  sortBy le (d.phasesInUse.filter d.phaseOk)

/-! ## Marks (R46, R54, R55) -/

/-- Whether mark `a` fires before mark `b`, or is it. -/
def Dev.markLe (d : Dev) (a b : Nat) : Bool :=
  decide (d.markOff a < d.markOff b) || (d.markOff a == d.markOff b && decide (a ≤ b))

/-- The mark has been reached and has not fired in this cycle. -/
def Dev.markDue (d : Dev) (m : Nat) : Bool :=
  d.markOn m && decide (d.markOff m ≤ d.tidePos) && !d.tide.fired.contains m

/-- The marks that are due, in the order in which they fire. -/
def Dev.dueMarks (d : Dev) : List Nat := sortBy d.markLe ((List.range 256).filter d.markDue)

/-- R48: the phase entries that start with mark `m`: with the first mark of an offset, every entry that names a mark of that
offset, ascending. -/
def Dev.startsWith (d : Dev) (m : Nat) : List Nat :=
  if d.tide.fired.any (fun x => d.markOff x == d.markOff m) then []
  else d.phasesInUse.filter (fun e => d.phaseOk e && d.markOff (d.phaseMark e) == d.markOff m)

/-- R55: the actions of a mark in their order. The counters latch what stood before the mark's cycle (18 R525), so their copy is
taken before the events of this one are counted. -/
def Dev.fireMark (m : Nat) (d : Dev) : Dev :=
  let r := d.live (.tgMark m)
  let d := if F.tgMark_SNAP.get r = 1 then d.latchCounters 0 m else d
  let starts := d.startsWith m
  let d := (d.countTg 2 1).setTide { d.tide with fired := m :: d.tide.fired }
  let d := starts.foldl (fun d e => d.phaseStart e) d
  let d := if F.tgMark_FOLIO.get r = 1 then d.folioMark else d
  let d := if F.tgMark_RELEASE.get r = 1 then d.releaseMark m else d
  if F.tgMark_FRAME.get r = 1 then d.armFrames m else d

/-- Every due mark up to and with `m` fires, in order (R46). -/
def Dev.fireUpTo (m : Nat) (d : Dev) : Dev :=
  if d.markDue m then (d.dueMarks.filter (fun x => d.markLe x m)).foldl (fun d x => d.fireMark x) d else d

/-- Every due mark fires. -/
def Dev.fireAll (d : Dev) : Dev := d.dueMarks.foldl (fun d x => d.fireMark x) d

/-! ## Lock, re-base, cycles (R45, R47, R63, the lock sequence) -/

/-- Step 2 of the lock sequence: the acquire test of the source. -/
def Dev.acquired (d : Dev) : Bool :=
  let t := d.tide
  match d.tideSrc with
  | 0 => t.levelA && t.levelB && (t.levelZ || !d.flag .tgSrcCfg F.tgSrcCfg_ZCHECK) &&
      decide (max t.acqAt t.okSince + 2000000 ≤ d.cycle)
  | 1 => decide (8 ≤ t.pllGood)
  | 2 => d.flag .tgPtimeAdj F.tgPtimeAdj_SYNC && t.ppsSeen
  | 3 | 4 => true
  | 5 => t.hop.isSome && decide (3 ≤ t.relayMsgs)
  | _ => false

/-- The source count at this instant, 48.16: the tide count with no offset. -/
def Dev.srcCount (d : Dev) : Word :=
  match d.tideSrc with
  | 0 => d.tide.src
  | 2 => d.ptpCount
  | 4 => d.tide.src
  | _ => ({ d with tide := { d.tide with offset := 0 } }.setTideState 2).tideNow

/-- R45: TG_OFFSET takes up the difference, so that the tide count continues from its present value; the reverse debt ends (R36)
and the counting of R568 begins again. -/
def Dev.rebase (d : Dev) : Dev :=
  let off := if d.tideSrc = 4 then d.tide.offset else d.tide.count - d.srcCount
  d.setTide { d.tide with
    offset := off, debt := 0, arrived := 0, fracAt := d.cycle, coastBase := d.tide.count, coastAt := d.cycle }

/-- R57: the completion target of entry `e` at a cycle start; `old` is TG_PHASE_e before it. -/
def Dev.newTarget (e : Nat) (old : Word) (add : Bool) (d : Dev) : Dev :=
  let r := d.live (.tgPhase e)
  let inc := F.tgPhase_DONE_INC.get r
  let changed := F.tgPhase_DONE_CTR.get r != F.tgPhase_DONE_CTR.get old || F.tgPhase_DONE_EN.get r != F.tgPhase_DONE_EN.get old
  let t := if changed then (d.sig (F.tgPhase_DONE_CTR.get r) + inc) % 2 ^ 32
    else if add then (tget 0 e d.tide.targets + inc) % 2 ^ 32
    else tget 0 e d.tide.targets
  d.setTide { d.tide with targets := tset e t d.tide.targets }

/-- R57: the targets at image load. -/
def Dev.loadTargets (d : Dev) : Dev :=
  (List.range 8).foldl (fun d e =>
    let r := d.live (.tgPhase e)
    let t := (d.sig (F.tgPhase_DONE_CTR.get r) + F.tgPhase_DONE_INC.get r) % 2 ^ 32
    d.setTide { d.tide with targets := tset e t d.tide.targets }) d

/-- The written values of the tide-cycle registers come into force, and the completion targets follow. -/
def Dev.latchCycle (add : Bool) (d : Dev) : Dev :=
  let old := (List.range 8).map (fun e => (e, d.live (.tgPhase e)))
  let d := d.reach .cycle
  old.foldl (fun d p => d.newTarget p.1 p.2 add) d

/-- Steps 3 and 4 of the lock sequence. A reverse debt run up before the lock is kept: a lock is no re-base (DESIGN CHOICE, log entry
57). -/
def Dev.lockNow (d : Dev) : Dev :=
  let d := d.latchCycle false
  let d := d.setTide { d.tide with epoch := none, offset := 0 }
  let c := d.srcCount
  let d := d.setTide { d.tide with
    count := c, cycStart := c, len := d.lfld .tgCtl F.tgCtl_LEN, no := 0, cycAt := d.ptime, lastLen := none, hold := false
    arrived := 0, fracAt := d.cycle, fired := [], overrunLogged := false, noPos := false, ownLoss := false, phaseDone := []
    hop := d.tide.hopNew.or d.tide.hop, hopNew := none }
  let d := [0, 1].foldl (fun d p => d.setPlant p { d.plant p with lastTx := [] }) d
  let d := { d with fabric := { d.fabric with lineAtoms := [] } }
  let d := d.plantCycle
  let d := match d.startOrder.getLast? with
    | some e => d.phaseStart e
    | none => d.noPhase
  ((d.setTideState 2).countTg 1 1).reportReady

/-- R47, R57, R71: a new cycle begins at the end of the last; a source that is already further takes the tide count on within it. -/
def Dev.newCycle (d : Dev) : Dev :=
  let t := d.tide
  let d := d.setTide { t with
    cycStart := t.cycStart + BitVec.ofNat 64 d.tideLen, no := (t.no + 1) % 2 ^ 48, cycAt := d.ptime
    lastLen := some (d.ptime - t.cycAt), fired := [], overrunLogged := false
    hop := t.hopNew.or t.hop, hopNew := none
    coastLeft := if d.tideState = 3 then t.coastLeft - 1 else t.coastLeft }
  let d := d.latchCycle true
  let d := d.setTide { d.tide with len := d.lfld .tgCtl F.tgCtl_LEN }
  let d := match d.tide.hop with
    | some h => d.setFld .tgRelay F.tgRelay_HOP h
    | none => d
  let d := { d with fabric := { d.fabric with lineAtoms := [] } }
  let d := (d.plantCycle).countTg 1 1
  let d := if d.tideState = 3 then d.countTg 5 1 else d
  d.tideTo d.tideNow

/-- The position has reached the cycle end and the next cycle may begin. -/
def Dev.cycleDue (d : Dev) : Bool :=
  (d.tideState == 2 || d.tideState == 3) && decide (d.tideLen ≤ d.tidePos) && !d.tide.hold && decide (0 < d.tide.len)

/-- The position has reached the cycle end that ends coast (R61). -/
def Dev.coastDue (d : Dev) : Bool := d.tideState == 3 && decide (d.tide.coastLeft ≤ 1) && d.cycleDue

/-- R63, R68: RESUME in coast or STOP while the source is valid; a follower's master must have left coast and STOP. -/
def Dev.tideResume (d : Dev) : Dev :=
  if (d.tideState = 3 ∨ d.tideState = 4) ∧ d.acquired ∧ (d.tideSrc = 5 → d.tide.relayState = 2) then
    if d.tide.noPos then
      let d := d.lockNow
      (d.kaCheck 0).kaCheck 1
    else
      let d := ((d.rebase).setTide { d.rebase.tide with ownLoss := false }).setTideState 2
      (d.kaCheck 0).kaCheck 1
  else d

/-! ## Free tide (R57 to R59) -/

/-- Where a free-tide advance goes: the next starting mark, or the cycle end. -/
def Dev.nextStop (d : Dev) : Nat :=
  match (d.startOrder.map (fun e => d.markOff (d.phaseMark e))).find? (fun o => decide (d.tidePos < o)) with
  | some o => o
  | none => d.tideLen

/-- The jump of a free-tide advance. -/
def Dev.advance (d : Dev) : Dev :=
  (d.setTide { d.tide with phaseDone := [] }).tideTo (d.tide.cycStart + BitVec.ofNat 64 d.nextStop)

/-- R57: TG_CMD.STEP acts while LOCKED in FREE mode. -/
def Dev.tideStep (d : Dev) : Dev := if d.tideState = 2 ∧ d.tideSrc = 4 then d.advance else d

/-- R57: the phase in force completes by its counter. -/
def Dev.phaseComplete (d : Dev) : Bool :=
  match d.tide.phase with
  | some e =>
    let r := d.live (.tgPhase e)
    F.tgPhase_DONE_EN.get r == 1 && geTest (d.sig (F.tgPhase_DONE_CTR.get r)) (tget 0 e d.tide.targets)
  | none => false

/-- The number of packages that follow this master: every other package of the machine (R65; log entry 22). -/
def Dev.followers (d : Dev) : Nat :=
  if d.flag .tgStatus F.tgStatus_MASTER then
    d.fld .fbTorusId F.fbTorusId_DX * d.fld .fbTorusId F.fbTorusId_DY * d.fld .fbTorusId F.fbTorusId_DZ - 1
  else 0

/-- R59: every follower has reported the phase in force. -/
def Dev.allReported (d : Dev) : Bool :=
  match d.tide.phase with
  | some e => decide (d.followers ≤ (d.tide.phaseDone.filter (fun p => p.2 == e)).length)
  | none => true

/-- R57, R59: the master, or a package alone, advances when the phase is complete everywhere; a follower reports. -/
def Dev.tryAdvance (d : Dev) : Dev :=
  if d.tideState = 2 ∧ d.phaseComplete then
    if d.tideSrc = 4 then (if d.allReported then d.advance else d)
    else if d.tideSrc = 5 then
      (match d.tide.phase with
       | some e =>
         if d.tide.phaseDone.contains (0, e) then d
         else (d.setTide { d.tide with phaseDone := [(0, e)] }).emit (.phaseReport e)
       | none => d)
    else d
  else d

/-! ## Inputs (R35 to R39) -/

/-- R567: a valid level stands on A and B again. -/
def Dev.encLevels (d : Dev) : Dev :=
  let t := d.tide
  d.setTide { t with levelA := true, levelB := true, okSince := if t.levelA && t.levelB then t.okSince else d.cycle }

/-- R35, R36, R568: a decoded encoder edge, or an illegal transition. Edges of either direction count between two Z edges (R37; DESIGN
CHOICE, log entry 12). -/
def Dev.edgeIn (fwd both : Bool) (d : Dev) : Dev :=
  if d.tideSrc ≠ 0 ∨ d.tideState = 0 then d
  else
    let d := d.encLevels
    let t := d.tide
    let bad := both || (t.anySeen && decide (d.cycle - t.lastAny < 40))
    let fwd := fwd != d.flag .tgSrcCfg F.tgSrcCfg_DIR
    let d := d.setTide { t with lastAny := d.cycle, anySeen := true }
    if bad then ((d.recTide 3).setTide { d.tide with okSince := d.cycle }).sourceLoss 2
    else
      let d := (d.recTide (if fwd then 0 else 1)).countTg 4 1
      let d := d.setTide { d.tide with zCounts := d.tide.zCounts + 1 }
      let t := d.tide
      if !fwd then
        let d := d.setTide { t with debt := t.debt + 1 }
        if d.fld .tgSrcCfg F.tgSrcCfg_REV_LIMIT < d.tide.debt then d.sourceLoss 2 else d
      else if 0 < t.debt then d.setTide { t with debt := t.debt - 1 }
      else
        let d := d.setTide { t with
          src := t.src + 65536
          ivals := if t.src = 0 then t.ivals else ((d.cycle - t.lastAt) :: t.ivals).take 8
          lastAt := d.cycle, fracAt := d.cycle, arrived := t.arrived + 1 }
        if d.tideState = 2 then d.tideTo (d.tide.src + d.tide.offset) else d

/-- R35: an input that has held its level for `keep` samples passes the glitch filter: FILT × 10 ns, 20 samples each, and at least the
one sample that sees it. -/
def Dev.filtered (d : Dev) (keep : Nat) : Bool := decide (max 1 (20 * d.fld .tgSrcCfg F.tgSrcCfg_FILT) ≤ keep)

/-- Whether a change of one filtered line is a decoded edge: ×4 decodes every change, ×2 those of A, ×1 the rising ones of A
(PRESUMED, log entry 12). -/
def Dev.decodes (d : Dev) (onA rise : Bool) : Bool :=
  match d.fld .tgSrcCfg F.tgSrcCfg_DECODE with
  | 0 => onA && rise
  | 1 => onA
  | _ => true

/-- R35: A and B stand at these levels and have done so for `keep` samples. What the filter passes is decoded: A ahead of B is forward
(PRESUMED, log entry 12), a change of both in one filtered sample is illegal. -/
def Dev.encIn (a b : Bool) (keep : Nat) (d : Dev) : Dev :=
  if d.tideSrc ≠ 0 ∨ d.tideState = 0 then d
  else
    let d := d.encLevels
    if !d.filtered keep then d
    else
      let ca := a != d.tide.encA
      let cb := b != d.tide.encB
      let d := d.setTide { d.tide with encA := a, encB := b }
      if ca && cb then d.edgeIn true true
      else if ca then (if d.decodes true a then d.edgeIn (a != b) false else d)
      else if cb then (if d.decodes false b then d.edgeIn (a == b) false else d)
      else d

/-- R37: a Z edge. -/
def Dev.zIn (d : Dev) : Dev :=
  if d.tideSrc ≠ 0 ∨ d.tideState = 0 then d
  else
    let d := d.recTide 2
    let t := d.tide
    let n := t.zCounts
    let check := d.flag .tgSrcCfg F.tgSrcCfg_ZCHECK && t.zSeen && n != d.fld .tgSrcCfg F.tgSrcCfg_ZCOUNT
    let d := d.setTide { t with
      zlatch := t.count, zCounts := 0, zSeen := true
      okSince := if t.levelZ then t.okSince else d.cycle
      levelZ := true }
    if check then (d.setFld .tgStatus F.tgStatus_ZERR 1).event (source 3 0) 0x14 (n % 2 ^ 32) false else d

/-- R38: a mains pulse: M counts, and the PLL's lock. `small` says that the phase error of the cycle stayed below 1/64 count: a cycle
in which it did not, or a period outside 45 to 65 Hz, ends the lock. The measured rate stays that of the last period within them. -/
def Dev.mainsIn (small : Bool) (d : Dev) : Dev :=
  if d.tideSrc ≠ 1 ∨ d.tideState = 0 then d
  else
    let d := d.recTide 4
    let t := d.tide
    let m := d.lfld .tgSrcRate F.tgSrcRate_RATE
    let p := d.cycle - t.mainsAt
    let ok := decide (2000000000 ≤ 65 * p) && decide (45 * p ≤ 2000000000)
    if !t.mainsSeen then d.setTide { t with mainsSeen := true, mainsAt := d.cycle }
    else
      let d := (d.setTide { t with
        src := t.src + BitVec.ofNat 64 (m * 65536), mainsAt := d.cycle, mainsPeriod := if ok then p else t.mainsPeriod
        arrived := t.arrived + m, pllGood := if ok && small then t.pllGood + 1 else 0 }).countTg 4 m
      let d := if d.tideState = 2 then d.tideTo (d.tide.src + d.tide.offset) else d
      if ok && small then d else d.sourceLoss 3

/-- R39: a 1 PPS edge. -/
def Dev.ppsIn (d : Dev) : Dev :=
  if d.tideSrc ≠ 2 ∨ d.tideState = 0 then d
  else
    let d := d.recTide 5
    let t := d.tide
    d.setTide { t with
      ppsSeen := true, ppsAt := d.cycle
      epoch := if t.epoch.isNone && (d.tideState == 2 || d.tideState == 3) then some d.ptime else t.epoch }

/-- R39, R42: a PTP loss declared through TG_CMD.LOSS. -/
def Dev.ptpLossIn (d : Dev) : Dev :=
  let d := d.recTide 7
  if d.tideSrc = 2 then (d.setTide { d.tide with ppsSeen := false }).sourceLoss 3 else d

/-- A tide relay message as 32 bytes: count, interval, state (log entry 23). -/
def relayBytes (m : RelayMsg) : List Byte := bytesOf 8 m.count ++ bytesOf 8 m.rate ++ bytesOf 8 m.state ++ zeros 8

/-- The relay message that 32 recorded bytes hold. -/
def relayOf (l : List Byte) : RelayMsg := ⟨numAt l 0 8, numAt l 8 8, numAt l 16 8⟩

/-- R66 to R68: a follower receives a relay message, with the hop compensation added to the master's count. -/
def Dev.relayIn (m : RelayMsg) (d : Dev) : Dev :=
  if d.tideSrc ≠ 5 ∨ d.tideState = 0 then d
  else
    let d := (d.recInput 5 0 0 (relayBytes m)).countTg 6 1
    let hop := d.tide.hop.getD 0
    let base := BitVec.ofNat 64 (m.count + if m.rate = 0 then 0 else hop * 65536 * 8 / (2 * m.rate))
    let own := d.tide.count
    let d := d.setTide { d.tide with
      relayMsgs := d.tide.relayMsgs + 1, relayState := m.state, relayAt := d.cycle, relayPt := d.ptime, relayRate := m.rate, relayBase := base }
    let err := (base + d.tide.offset - own).toInt * (2 * m.rate : Nat) / (65536 * 8)
    let d := if d.tideState = 2 then d.setFld .tgRelay F.tgRelay_RESID (scode 16 err) else d
    if d.tideState = 2 then
      let d := d.tideTo d.tideNow
      if m.state = 4 then d.enterStop else if m.state = 3 then d.sourceLoss 3 else d
    else if d.tideState = 3 ∧ m.state = 4 then d.enterStop
    else if (d.tideState = 3 ∨ d.tideState = 4) ∧ m.state = 2 ∧ !d.tide.ownLoss ∧ !d.tide.noPos then
      (((d.rebase).setTideState 2).kaCheck 0).kaCheck 1
    else d

/-- R66: the measured round trip gives the hop compensation, in force from the next cycle; during lock, before any cycle, at once. -/
def Dev.measureHop (rtt : Nat) (d : Dev) : Dev :=
  if d.tideSrc ≠ 5 then d
  else
    let h := rtt / 2 % 2 ^ 16
    if 2 ≤ d.tideState ∧ !d.tide.noPos then d.setTide { d.tide with hopNew := some h }
    else (d.setTide { d.tide with hop := some h, hopNew := none }).setFld .tgRelay F.tgRelay_HOP h

/-- R41: a step of package time; while the tide is locked in PTP mode it is a re-base. -/
def Dev.stepPtime (v : Word) (d : Dev) : Dev :=
  let d := { d with ptime := (((d.ptime : Int) + v.toInt * (nsUnit : Nat)) % ((2 ^ 113 : Nat) : Int)).toNat }
  if d.tideState = 2 ∧ d.tideSrc = 2 ∧ d.tide.epoch.isSome then d.rebase else d

/-- A write that a requester may make to a register that exists has effect `f`. -/
def Dev.guarded (req : Req) (r : Reg) (v : Word) (f : Dev → Dev) (d : Dev) : Dev :=
  if d.exists r && d.mayWrite req r v then f d else d

end Sys2Proof.Machine
end

