-- ==== Sys2Proof/Machine/Fabric.lean ====
section
/-! DEFINITION. The rack memory plane, its atomics, paths and dead targets, the torus, and the fabric commands and messages (12). -/

namespace Sys2Proof.Machine

/-! ## Sequence numbers at the target (R350) -/

/-- A packet numbered `n` from slot `s` has been applied here. -/
def Dev.seqDone (d : Dev) (s n : Nat) : Bool :=
  decide (diff32 (tget 0 s d.fabric.ackRx) n < 2 ^ 31) || d.fabric.applied.contains (s, n)

/-- The acknowledged number moves on over every number applied after it, with fuel. -/
def seqAdvance (s : Nat) (done : List (Nat × Nat)) : Nat → Nat → Nat
  | 0, n => n
  | k + 1, n => if done.contains (s, (n + 1) % 2 ^ 32) then seqAdvance s done k ((n + 1) % 2 ^ 32) else n

/-- A packet's number is recorded as applied. -/
def Dev.seqApply (s n : Nat) (d : Dev) : Dev :=
  let done := (s, n) :: d.fabric.applied
  let m := seqAdvance s done done.length (tget 0 s d.fabric.ackRx)
  { d with fabric := { d.fabric with
    ackRx := tset s m d.fabric.ackRx
    applied := done.filter (fun p => !(p.1 == s && decide (diff32 m p.2 < 2 ^ 31))) } }

/-! ## Incoming accesses (R339, R341, R342) -/

/-- R339, 10 R279: an incoming rack-plane access goes through the cove's cache, in the normal class with hint NORMAL. -/
def Dev.rackTouch (write : Bool) (a n : Nat) (d : Dev) : Dev := (d.countCv (d.lineCove a) 0x0D 1).touch ⟨1, 0⟩ write a n

/-- The die at which a packet from slot `q` to offset `o` arrives. -/
def dieOf (q o : Nat) : Nat := pathOf q o / 4

/-- R345, R347: the oldest waiting atomic is performed, through its cove's cache (R339), answered and recorded. -/
def Dev.atomNext (d : Dev) : Dev :=
  match d.fabric.atoms with
  | [] => d
  | x :: t =>
    let d := { d with fabric := { d.fabric with atoms := t } }
    let d := d.lineChoice x.addr x.src
    let d := (d.uncorrAll (d.badIn x.addr 8)).rackTouch true x.addr 8
    let r := d.atomicAt x.addr x.op x.opa.toNat x.opb.toNat
    let d := match x.seq with
      | some n => r.1.seqApply x.src n
      | none => r.1
    if x.reply then d.emit (.response x.src (x.seq.getD 0) (bytesOf 8 r.2)) else d

/-- Every waiting atomic is performed, in order of arrival. -/
def Dev.atomAll (d : Dev) : Dev := d.fabric.atoms.foldl (fun d _ => d.atomNext) d

/-- How many of the waiting atomics stand up to the last one whose word `n` bytes at `a` touch. -/
def atomsTo (a n : Nat) : List AtomReq → Nat
  | [] => 0
  | x :: t =>
    if 0 < atomsTo a n t then atomsTo a n t + 1 else if x.addr < a + n ∧ a < x.addr + 8 then 1 else 0

/-- R345, 10 R273: the atomics that reached the words before an access are performed before it. -/
def Dev.atomsFirst (a n : Nat) (d : Dev) : Dev := (List.range (atomsTo a n d.fabric.atoms)).foldl (fun d _ => d.atomNext) d

/-- The length of an access. -/
def mpLen : MpKind → Nat
  | .read n => n
  | .write bs => bs.length
  | .atomic _ _ _ => 8

/-- The right an access needs: 0 load, 1 store, 2 atomic. -/
def mpNeed : MpKind → Nat
  | .read _ => 0
  | .write _ => 1
  | .atomic _ _ _ => 2

/-- R341 to R343, 19 R533: an incoming access is applied or rejected; a packet whose number has been applied already, or waits to
be, changes nothing (log entry 37). -/
def Dev.mpReceive (m : MpPacket) (d : Dev) : Dev :=
  let ok := m.folio || d.exportOk m.region m.key m.off (mpLen m.kind) (mpNeed m.kind)
  let d0 := if ok then d else d.keyRej (dieOf m.src m.off)
  let known := d.seqDone m.src m.seq || d.fabric.atoms.any (fun x => x.src == m.src && x.seq == some m.seq)
  let a := windowAddr m.off
  match m.kind with
  | .read n =>
    match ok, a with
    | true, some a =>
      let d := d.atomsFirst a n
      ((d.uncorrAll (d.badIn a n)).rackTouch false a n).emit (.response m.src m.seq (d.physRead a n))
    | _, _ => d0.emit (.response m.src m.seq (zeros n))
  | .write bs =>
    if known then d
    else match ok, a with
    | true, some a =>
      let d := d.atomsFirst a bs.length
      let bad := ((runsOf a bs).flatMap (fun r => d.badPart r.1 r.2.length)).eraseDups
      (((d.uncorrAll bad).countCv (d.lineCove a) 0x0D 1).storeWindow m.off bs).seqApply m.src m.seq
    | _, _ => d0.seqApply m.src m.seq
  | .atomic op x y =>
    if known then d
    else match ok && m.off % 8 == 0 && atomicOk op, a with
    | true, some a =>
      { d with fabric := { d.fabric with
        atoms := d.fabric.atoms ++ [⟨m.src, a, op, x, y, atomicFetches op, some m.seq⟩] } }
    | _, _ =>
      let d := d0.seqApply m.src m.seq
      if atomicFetches op then d.emit (.response m.src m.seq (zeros 8)) else d

/-- MEMORY_PLANE_ACCESS_RECEIVE (R341). -/
def execMemoryPlaneAccessReceive (m : MpPacket) (s : State) : Host.Outcome State Fault Refusal := s.upd (Dev.mpReceive m)

/-- REMOTE_ATOMIC (R345, R347). -/
def execRemoteAtomic (s : State) : Host.Outcome State Fault Refusal := s.upd Dev.atomNext

/-- ACKNOWLEDGEMENT_SEND (R350). -/
def execAcknowledgementSend (slot : Nat) (s : State) : Host.Outcome State Fault Refusal :=
  s.upd (fun d => d.emit (.ack slot (tget 0 slot d.fabric.ackRx)))

/-- R351, R352: an acknowledgement frees the trackers it covers; a fetching atomic keeps its tracker until its answer. -/
def Dev.ackReceive (slot n : Nat) (d : Dev) : Dev :=
  let covered (t : Tracker) : Bool := t.dst == slot && !t.stalled && (match t.seq with
    | some m => decide (diff32 n m < 2 ^ 31)
    | none => false)
  let old := tget 0 slot d.fabric.ackTx
  { d with fabric := { d.fabric with
    ackTx := if diff32 n old < 2 ^ 31 then tset slot n d.fabric.ackTx else d.fabric.ackTx
    trackers := (d.fabric.trackers.filter (fun t => !(covered t && !t.fetch))).map
      (fun t => if covered t then { t with seq := none } else t) } }.unstalls (d.fabric.trackers.countP covered)

/-- ACKNOWLEDGEMENT_RECEIVE (R351). -/
def execAcknowledgementReceive (slot n : Nat) (s : State) : Host.Outcome State Fault Refusal := s.upd (Dev.ackReceive slot n)

/-! ## Answers (R352) -/

/-- An answer reaches the run of a queue that waits for it: a mover goes on once it has all its bytes, an `fb.amo` writes its returned
value. -/
def Dev.answerRun (q id : Nat) (data : List Byte) (d : Dev) : Dev :=
  match (d.queue q).runs.find? (fun r => r.await.any (fun p => p.1 == id)) with
  | none => d
  | some r =>
    let a := ((r.await.find? (fun p => p.1 == id)).map (·.2)).getD 0
    let left := r.await.filter (fun p => p.1 != id)
    let d := d.setRunN q r.serial (fun r => { r with await := left, rdata := r.rdata ++ [(a, data)] })
    if d.qKind q = 6 then (d.store a data (d.who q)).noteDsts q r.serial d.fabric.seqTx
    else if left.isEmpty then d.dmGo q r.serial r.failAt
    else d

/-- An answer reaches a control core whose load or fetching atomic waits for it. -/
def Dev.answerCc (k id : Nat) (data : List Byte) (d : Dev) : Dev :=
  match (d.cc k).wait with
  | .load rd sgn ps => d.loadEnd k rd sgn (partsFill id data ps)
  | .vload vd pg ps => d.vloadEnd k vd pg (partsFill id data ps)
  | _ => d

/-- REMOTE_READ_RESPONSE (R352): the tracker is freed, unless its atomic still awaits its acknowledgement (R351); an answer without a
tracker is discarded (16 R452). -/
def Dev.readResponse (id : Nat) (data : List Byte) (d : Dev) : Dev :=
  match d.fabric.trackers.find? (fun t => t.id == id && t.fetch && !t.stalled) with
  | none => d
  | some t =>
    let ts := d.fabric.trackers
    let d := Dev.unstalls 1 { d with fabric := { d.fabric with
      trackers := if t.seq.isSome then ts.map (fun t => if t.id = id then { t with fetch := false } else t)
        else ts.filter (fun t => t.id != id) } }
    match t.queue, t.cc with
    | some q, _ => d.answerRun q id data
    | none, some k => d.answerCc k id data
    | none, none => d

/-- REMOTE_READ_RESPONSE. -/
def execRemoteReadResponse (id : Nat) (data : List Byte) (s : State) : Host.Outcome State Fault Refusal :=
  s.upd (Dev.readResponse id data)

/-! ## Paths and ports (R348, R349, R358, R359) -/

/-- A port of a fabric die goes down: DOWN_EV, a colophon entry, and a summary. -/
def Dev.portDown (die port : Nat) (d : Dev) : Dev :=
  let r := Reg.fbPort die port
  let d := ((d.setFld r F.fbPort_UP 0).setFld r F.fbPort_LANES 0).setFld r F.fbPort_DOWN_EV 1
  (d.event (source 5 die) 0x70 port false).healthDue

/-- R349: the unacknowledged packets of path `p` are sent again, with their numbers, on the next path up. -/
def Dev.resendPath (p : Nat) (d : Dev) : Dev :=
  d.fabric.trackers.foldl (fun d t =>
    if t.path = p then
      match d.pathFor t.pkt.off with
      | some n =>
        let ts := d.fabric.trackers.map (fun (x : Tracker) => if x.id = t.id then { x with path := n } else x)
        let d : Dev := { d with fabric := { d.fabric with trackers := ts } }
        if t.stalled then d else d.emit (.packet t.dst t.pkt)
      | none => d
    else d) d

/-- RACK_PATH_DOWN (R349): the path stays down until the next start-up. -/
def execRackPathDown (path : Nat) (s : State) : Host.Outcome State Fault Refusal :=
  s.upd (fun d =>
    let p := path % 8
    if d.pathUp p then (d.portDown (p / 4) (6 + p % 4)).resendPath p else d)

/-- TORUS_PORT_DOWN (R359): the other die's port carries the traffic after every unacknowledged packet is sent again on it. -/
def execTorusPortDown (die port : Nat) (s : State) : Host.Outcome State Fault Refusal :=
  s.upd (fun d =>
    if die < 2 ∧ port < 6 ∧ d.flag (.fbPort die port) F.fbPort_UP then
      let d := d.portDown die port
      if d.flag (.fbPort (1 - die) port) F.fbPort_UP then d.emit (.retransmit (1 - die) port) else d
    else d)

/-- LINK_LEVEL_RETRANSMISSION (R359). -/
def execLinkLevelRetransmission (die port : Nat) (s : State) : Host.Outcome State Fault Refusal :=
  s.upd (fun d =>
    if die < 2 ∧ port < 10 ∧ d.flag (.fbPort die port) F.fbPort_UP then
      ((d.bump (.fbPort die port) F.fbPort_RETRY 1).countFb die (0x40 + port) 1).emit (.retransmit die port)
    else d)

/-- R358: the hop in one dimension of size `n` from position `a` to position `b`: 0 in the + direction, 1 in the −, or none. -/
def hopDir (n a b : Nat) : Option Nat :=
  let δ := (b + n - a % max n 1) % max n 1
  if δ = 0 then none else if 2 * δ ≤ n then some 0 else some 1

/-- This package's torus identifier (R356). -/
def Dev.torusId (d : Dev) : Nat :=
  d.fld .fbTorusId F.fbTorusId_X + 32 * d.fld .fbTorusId F.fbTorusId_Y + 1024 * d.fld .fbTorusId F.fbTorusId_Z

/-- R356: an identifier lies inside the machine. -/
def Dev.torusIn (d : Dev) (t : Nat) : Bool :=
  decide (t < 2 ^ 14) && decide (t % 32 < d.fld .fbTorusId F.fbTorusId_DX) && decide (t / 32 % 32 < d.fld .fbTorusId F.fbTorusId_DY) &&
    decide (t / 1024 < d.fld .fbTorusId F.fbTorusId_DZ)

/-- R358: the direction (0 +X, 1 −X, 2 +Y, 3 −Y, 4 +Z, 5 −Z) of a packet's next hop; none at its destination. -/
def Dev.torusDir (d : Dev) (dst : Nat) : Option Nat :=
  match hopDir (d.fld .fbTorusId F.fbTorusId_DX) (d.fld .fbTorusId F.fbTorusId_X) (dst % 32) with
  | some s => some s
  | none =>
    match hopDir (d.fld .fbTorusId F.fbTorusId_DY) (d.fld .fbTorusId F.fbTorusId_Y) (dst / 32 % 32) with
    | some s => some (2 + s)
    | none => (hopDir (d.fld .fbTorusId F.fbTorusId_DZ) (d.fld .fbTorusId F.fbTorusId_Z) (dst / 1024)).map (4 + ·)

/-- R376, R393: the direction of a collective packet's next hop: its stream's, or the other one in the closing transfer of a ring that does
not span its axis. -/
def Dev.streamDir (d : Dev) (m : TorusPacket) (stream : Nat) : Option Nat :=
  let at' (t a : Nat) : Nat := if a = 0 then t % 32 else if a = 1 then t / 32 % 32 else t / 1024 % 16
  ((List.range 3).find? (fun a => at' d.torusId a != at' m.dst a)).map (fun a =>
    let n := max 1 (d.fld .fbTorusId (if a = 0 then F.fbTorusId_DX else if a = 1 then F.fbTorusId_DY else F.fbTorusId_DZ))
    let step := if stream % 2 = 0 then at' m.dst a + n - at' m.src a % n else at' m.src a + n - at' m.dst a % n
    2 * a + (if step % n = 1 then stream % 2 else 1 - stream % 2))

/-- The direction of a packet's next hop (R358, 13 R376, R393). -/
def Dev.packetDir (d : Dev) (m : TorusPacket) : Option Nat :=
  match m.stream with
  | some s => d.streamDir m s
  | none => d.torusDir m.dst

/-- R359: the die whose ports a packet uses: the parity of (source xor destination), or its stream's (13 R376). -/
def torusDie (m : TorusPacket) : Nat :=
  match m.stream with
  | some s => s / 2 % 2
  | none => popcount (m.src ^^^ m.dst) 14 % 2

/-- R359: the port of a packet's next hop: the chosen die's, else the other die's, else none. -/
def Dev.torusPort (d : Dev) (m : TorusPacket) (dir : Nat) : Option Nat :=
  let f := torusDie m
  if d.flag (.fbPort f dir) F.fbPort_UP then some f
  else if d.flag (.fbPort (1 - f) dir) F.fbPort_UP then some (1 - f)
  else none

/-- TORUS_PACKET_HOP (R358, R359): a packet for another package leaves on its next port, or waits where both ports are down. -/
def execTorusPacketHop (m : TorusPacket) (s : State) : Host.Outcome State Fault Refusal :=
  s.upd (fun d =>
    match d.packetDir m with
    | none => d
    | some dir =>
      match d.torusPort m dir with
      | some f => d.emit (.torus f dir m)
      | none => { d with fabric := { d.fabric with waiting := d.fabric.waiting ++ [m] } })

/-! ## A dead target (R353, R354) -/

/-- R354: a tracker of a write or non-fetching atomic is discarded; a fence of its core that has not reported reports FAILED
(17 R493). -/
def Dev.dropWrite (t : Tracker) (d : Dev) : Dev :=
  let d := { d with fabric := { d.fabric with trackers := d.fabric.trackers.filter (fun x => x.id != t.id) } }.unstalls 1
  let d := d.bump (.fbMpStatus (pathOf d.slot t.pkt.off / 4)) F.fbMpStatus_DROPPED 1
  match t.core with
  | some c =>
    match (d.core c).fence with
    | some f => d.setCore c { d.core c with fence := some { f with lost := true } }
    | none => d
  | none => d

/-- R354: the slots of a mask are declared dead; a folio under way with such a member is abandoned (19 R542). -/
def Dev.peerDead (v : Word) (d : Dev) : Dev :=
  let d := d.wr .fbPeerDead (d.rd .fbPeerDead ||| v)
  let d := if d.folioSlots.any (fun s => bit v.toNat s) then d.folioAbandon 1 true else d
  let d := (d.fabric.trackers.filter (fun t => bit v.toNat t.dst && t.seq.isSome && !t.fetch)).foldl (fun d t => d.dropWrite t) d
  d.queues.foldl (fun d p =>
    let rs := (d.queue p.1).runs.map (fun r =>
      if r.status = 0 ∧ r.dsts.any (fun x => bit v.toNat x.1) then { r with status := stFailed } else r)
    d.setQueue p.1 { d.queue p.1 with runs := rs }) d

/-- FB_PEER_DEAD_WRITE (R354, R369). -/
def execFbPeerDeadWrite (req : Req) (v : Word) (s : State) : Host.Outcome State Fault Refusal :=
  s.upd (Dev.guarded req .fbPeerDead v (Dev.peerDead v))

/-! ## Atomics of this package (R344 to R347, R362) -/

/-- What an atomic of this package comes to: its returned value at once, an identifier whose answer brings it, or discarded. -/
inductive AmoRes where
  | value (old : Nat)
  | await (id : Nat)
  | dropped
  deriving DecidableEq, Repr

/-- An atomic on this package's own memory, after those that reached the cove before it. -/
def Dev.localAtomic (issuer a op opa opb : Nat) (d : Dev) : Dev × Nat :=
  (d.atomAll.lineChoice a issuer).atomicAt a op opa opb

/-- An atomic on offset `o` of a rack window (R336, R340, R341, R353, R354). -/
def Dev.rackAtomic (s o op opa opb issuer : Nat) (who : Issuer) (d : Dev) : Dev × AmoRes :=
  let die := d.dieFor o
  match d.importFor s o 8 with
  | none => (d.bump (.fbMpStatus die) F.fbMpStatus_IMP_MISS 1, .value 0)
  | some k =>
    let key := d.fld (.fbImpKey k) F.fbImpKey_KEY
    let region := d.fld (.fbImpKey k) F.fbImpKey_REGION
    let fetch := atomicFetches op
    if d.slotDead s && !fetch then (d.bump (.fbMpStatus die) F.fbMpStatus_DROPPED 1, .dropped)
    else if s = d.slot then
      match windowAddr o, d.exportOk region key o 8 2 with
      | some a, true =>
        let r := d.localAtomic issuer a op opa opb
        (r.1, .value r.2)
      | _, _ => (d.keyRej die, .value 0)
    else
      let id := d.fabric.nextId
      let d := d.sendMp s o region key (.atomic op (BitVec.ofNat 64 opa) (BitVec.ofNat 64 opb)) true fetch who
      (d, if fetch then .await id else .value 0)

/-- R361: bits that a fabric command's block does not list. -/
def fbRsv (ws : List Word) (masks : List Nat) : Bool :=
  (List.zipWith (fun (w : Word) m => w.toNat &&& m != w.toNat) ws (masks ++ List.replicate (16 - masks.length) 0)).any id

/-- FB_AMO: status and detail of the checks, and the physical addresses of the target and of the returned value. -/
def Dev.amoCheck (d : Dev) (root : Nat) (ws : List Word) : Except (Nat × Nat) (Nat × Nat) :=
  let op := bits (wd ws 4) 3 0
  let f := 2 ^ 64 - 1
  if fbRsv ws [f, f, f, f, 15] || !atomicOk op || wd ws 0 % 8 != 0 || (atomicFetches op && wd ws 3 % 8 != 0) then .error (0x700, 0)
  else
    match d.walk root (wd ws 0) with
    | .error e => .error (stAddrFault, e * 2 ^ 28)
    | .ok l =>
      if !l.u then .error (stAddrFault, 3 * 2 ^ 28)
      else if !l.w then .error (stAddrFault, 2 * 2 ^ 28)
      else
        let place := d.locate l.pa
        let good := match place with
          | .stack _ => true
          | .rack s o => d.slotPresent s && (windowAddr o).isSome
          | _ => false
        match place with
        | .ctl _ | .nowhere => .error (stAddrFault, 4 * 2 ^ 28)
        | _ =>
          if !good then .error (0x701, 0)
          else if atomicFetches op then
            match d.xlate root (wd ws 3) true with
            | .ok b => .ok (l.pa, b)
            | .error e => .error (stAddrFault, e * 2 ^ 28)
          else .ok (l.pa, 0)

/-- R285: the uncorrectable words that a fabric command has read are reported, and its status is MEM_UNCORR. -/
def Dev.readBad (q : Nat) (bad : List BadWord) (d : Dev) : Dev :=
  if bad.isEmpty then d
  else (d.uncorrAll bad.eraseDups).setRun q (fun r => if r.status = 0 then { r with status := stMemUncorr } else r)

/-- FB_AMO: the atomic. -/
def Dev.amoRun (q : Nat) (d : Dev) : Dev :=
  let ws := d.runParams q
  let root := d.rootOf (d.qHome q)
  match d.amoCheck root ws with
  | .error e => d.finish q e.1 e.2
  | .ok (pa, ra) =>
    let op := bits (wd ws 4) 3 0
    let n := d.newest q
    let before := d.fabric.seqTx
    let ret (v : Nat) (d : Dev) : Dev := if atomicFetches op then d.store ra (bytesOf 8 v) (d.who q) else d
    let tables := d.tableBad root (wd ws 0) 8 ++ (if atomicFetches op then d.tableBad root (wd ws 3) 8 else [])
    match d.locate pa with
    | .rack s o =>
      let r := d.rackAtomic s o op (wd ws 1) (wd ws 2) d.slot (d.who q)
      let d := match r.2 with
        | .value v => ret v r.1
        | .await id => r.1.setRun q (fun r => { r with await := [(id, ra)] })
        | .dropped => r.1.setRun q (fun r => { r with status := stFailed })
      (d.noteDsts q n before).readBad q tables
    | _ =>
      let bad := tables ++ d.badIn pa 8
      let r := d.localAtomic d.slot pa op (wd ws 1) (wd ws 2)
      ((ret r.2 r.1).noteDsts q n before).readBad q bad

/-- FB_AMO (R362). -/
def execFbAmo (q : Nat) (s : State) : Host.Outcome State Fault Refusal := s.upd (Dev.startCmd q 0x600 (fun _ => Dev.amoRun q))

/-! ## Messages (R363 to R367) -/

/-- The pages of `n` bytes at a virtual address, or the cause of the first that faults, with fuel. -/
def Dev.vaPieces (d : Dev) (root va : Nat) (write : Bool) : Nat → Nat → Except Nat (List (Nat × Nat))
  | 0, _ => .ok []
  | k + 1, n =>
    if n = 0 then .ok []
    else
      let m := min n (4096 - va % 4096)
      match d.xlate root va write with
      | .error e => .error e
      | .ok pa =>
        match Dev.vaPieces d root (va + m) write k (n - m) with
        | .error e => .error e
        | .ok t => .ok ((pa, m) :: t)

/-- Bytes stored over translated pieces. -/
def Dev.storePieces (who : Issuer) : List (Nat × Nat) → List Byte → Dev → Dev
  | [], _, d => d
  | (a, n) :: t, bs, d => Dev.storePieces who t (bs.drop n) (d.store a (bs.take n) who)

/-- Translates a range of a fabric command: the cause of a fault as its status detail. -/
def Dev.vaFault (d : Dev) (root va n : Nat) (write : Bool) : Option Nat :=
  match d.vaPieces root va write (n / 4096 + 2) n with
  | .error e => some (e * 2 ^ 28)
  | .ok _ => none

/-- One piece that this package reads for another one, or for a plant port. What a rack window of another package holds is asked for, and
its bytes are free values (log entry 38). -/
def Dev.pullPiece (x : Option Access) (a : Dev × List Byte) (p : Nat × Nat) : Dev × List Byte :=
  let d := a.1
  match d.locate p.1 with
  | .rack s o =>
    (cut256 (p.2 / 256 + 2) o p.2).foldl (fun (a : Dev × List Byte) u =>
      match a.1.rackLoad [] s u.1 u.2 with
      | some bs => (a.1.rackLoadCount s u.1 u.2, a.2 ++ bs)
      | none =>
        let w := wordSpan u.1 u.2
        let j := (a.1.importFor s w.1 w.2).getD 0
        let c := a.1.sendMp s w.1 (a.1.fld (.fbImpKey j) F.fbImpKey_REGION) (a.1.fld (.fbImpKey j) F.fbImpKey_KEY) (.read w.2) false true {}
        ({ c with free := c.free + 1 }, a.2 ++ (List.range u.2).map (Config.freeByte c.free))) a
  | _ =>
    let bs := d.physRead p.1 p.2
    (match x with
     | some x => d.touch x false p.1 p.2
     | none => d, a.2 ++ bs)

/-- Translated pieces read in order. -/
def Dev.pullPieces (x : Option Access) (ps : List (Nat × Nat)) (d : Dev) : Dev × List Byte := ps.foldl (Dev.pullPiece x) (d, [])

/-- R363: the destination has accepted the header of a message from queue `q`. -/
def Dev.sendAccepted (q n : Nat) (d : Dev) : Dev :=
  match d.runN q n with
  | none => d
  | some r =>
    let len := bits (wd r.params 1) 31 0
    let ssig := bits (wd r.params 2) 47 32
    let d := d.setRunN q n (fun r => { r with done := true })
    if len = 0 then d.sigAdd ssig 1
    else { d with fabric := { d.fabric with sends := d.fabric.sends ++ [⟨r.unit, q, bits (wd r.params 1) 45 32, r.root, wd r.params 0, len, ssig, 1⟩] } }

/-- R359: the port on which a packet of this package leaves: none where it stays, or where both ports of its direction are down. -/
def Dev.torusOut (d : Dev) (m : TorusPacket) : Option (Nat × Nat) :=
  match d.packetDir m with
  | none => none
  | some dir => (d.torusPort m dir).map (fun f => (f, dir))

/-- R359: a packet of this package has to wait for a port. -/
def Dev.torusShut (d : Dev) (m : TorusPacket) : Bool := (d.packetDir m).isSome && (d.torusOut m).isNone

/-- The torus packet of a message's header (R359; VC3). -/
def Dev.headerPacket (d : Dev) (r : Run) : TorusPacket := ⟨d.torusId, bits (wd r.params 1) 45 32, 3, none, r.unit⟩

/-- The header of the message of run `n`; `unit` of the run holds the message identifier. -/
def Dev.sendHeader (q n : Nat) (d : Dev) : Dev :=
  match d.runN q n with
  | none => d
  | some r =>
    let m := d.headerPacket r
    if d.torusShut m then
      if d.fabric.waiting.contains m then d else { d with fabric := { d.fabric with waiting := d.fabric.waiting ++ [m] } }
    else
      let d := d.emit (.header m.dst (d.qTarget q) (BitVec.ofNat 32 (wd r.params 2)) (bits (wd r.params 1) 31 0) r.unit)
      match d.torusOut m with
      | some p => d.emit (.torus p.1 p.2 m)
      | none => d

/-- R363, R367: the header of run `n` goes out, and its destination accepts it or not; one that waits for a port is not accepted. -/
def Dev.sendOut (q n : Nat) (accepted : Bool) (d : Dev) : Dev :=
  match d.runN q n with
  | none => d
  | some r => if accepted && !d.torusShut (d.headerPacket r) then (d.sendHeader q n).sendAccepted q n else d.sendHeader q n

/-- FB_SEND. -/
def Dev.sendRun (q : Nat) (accepted : Bool) (d : Dev) : Dev :=
  let ws := d.runParams q
  let len := bits (wd ws 1) 31 0
  if fbRsv ws [2 ^ 64 - 1, 0x3FFFFFFFFFFF, 0xFFFFFFFFFFFF] then d.finish q 0x700 0
  else if !d.torusIn (bits (wd ws 1) 45 32) then d.finish q 0x701 0
  else
    match d.vaFault (d.rootOf (d.qHome q)) (wd ws 0) len false with
    | some e => d.finish q stAddrFault e
    | none =>
      let bad := d.tableBad (d.rootOf (d.qHome q)) (wd ws 0) len
      let id := d.fabric.nextId
      let d := { d with fabric := { d.fabric with nextId := id + 1 } }
      let d := d.setRun q (fun r => { r with unit := id, done := false })
      ((d.countFb (d.qTarget q) 0x57 1).sendOut q (d.newest q) accepted).readBad q bad

/-- FB_SEND (R363, R367): `accepted` is the destination's answer to the header. -/
def execFbSend (q : Nat) (accepted : Bool) (s : State) : Host.Outcome State Fault Refusal :=
  s.upd (Dev.startCmd q 0x601 (fun _ => Dev.sendRun q accepted))

/-- HEADER_RESEND (R367): the oldest refused header of the queue is sent again. -/
def execHeaderResend (q : Nat) (accepted : Bool) (s : State) : Host.Outcome State Fault Refusal :=
  s.upd (fun d =>
    match (d.queue q).runs.find? (fun r => dRtn r.desc == 0x601 && !r.done) with
    | some r => d.sendOut q r.serial accepted
    | none => d)

/-- R363: the destination has read the payload of a message from its buffer, and the buffer is free. The translations were checked when
the command started; one that fails now gives no bytes (log entry 38). -/
def Dev.payloadOut (x : SendRun) (d : Dev) : Dev :=
  let d := { d with fabric := { d.fabric with sends := d.fabric.sends.filter (fun y => y.id != x.id) } }
  let d := match d.vaPieces x.root x.addr false (x.len / 4096 + 2) x.len with
    | .error _ => d.emit (.payload x.dst x.id [])
    | .ok ps =>
      let d := d.uncorrAll (ps.flatMap (fun p : Nat × Nat => d.badIn p.1 p.2))
      let r := d.pullPieces none ps
      r.1.emit (.payload x.dst x.id r.2)
  d.sigAdd x.ssig x.sinc

/-- SEND_PAYLOAD_DONE (R363). -/
def execSendPayloadDone (id : Nat) (s : State) : Host.Outcome State Fault Refusal :=
  s.upd (fun d =>
    match d.fabric.sends.find? (fun x => x.id == id) with
    | some x => d.payloadOut x
    | none => d)

/-- R365: a posted receive takes a header. -/
def Recv.takes (r : Recv) (h : Hdr) : Bool :=
  r.die == h.die && (r.anysrc || r.src == h.src) && ((r.tag ^^^ h.tag) &&& r.mask) == 0

/-- R365, R366: a receive and a header are matched, and the payload is asked for. -/
def Dev.matchMsg (r : Recv) (h : Hdr) (d : Dev) : Dev :=
  let d := if r.anysrc then d.choiceBit 2 else d
  { d with fabric := { d.fabric with matched := d.fabric.matched ++ [(⟨r, h⟩ : Match)] } }.emit (.pull h.src h.id)

/-- The list without the first element that satisfies a test. -/
def dropFirst {α : Type} (f : α → Bool) : List α → List α
  | [] => []
  | x :: t => if f x then t else x :: dropFirst f t

/-- The posted receive of an `fb.recv`. -/
def Dev.recvOf (d : Dev) (q : Nat) (ws : List Word) : Recv where
  queue := q
  serial := d.newest q
  die := d.qTarget q
  src := bits (wd ws 1) 45 32
  anysrc := bit (wd ws 1) 48
  tag := BitVec.ofNat 32 (wd ws 2)
  mask := BitVec.ofNat 32 (wd ws 2 / 2 ^ 32)
  addr := wd ws 0
  len := bits (wd ws 1) 31 0
  rep := some (wd ws 3)
  rsig := bits (wd ws 4) 15 0
  rinc := 1
  root := d.rootOf (d.qHome q)

/-- FB_RECV. -/
def Dev.recvRun (q : Nat) (d : Dev) : Dev :=
  let ws := d.runParams q
  let x := d.recvOf q ws
  if fbRsv ws [2 ^ 64 - 1, 0x13FFFFFFFFFFF, 2 ^ 64 - 1, 2 ^ 64 - 1, 0xFFFF] || wd ws 3 % 16 != 0 then d.finish q 0x700 0
  else if !x.anysrc && !d.torusIn x.src then d.finish q 0x701 0
  else
    let d := d.readBad q (d.tableBad x.root x.addr x.len ++ d.tableBad x.root (wd ws 3) 16)
    match d.vaFault x.root x.addr x.len true, d.vaFault x.root (wd ws 3) 16 true with
    | some e, _ | none, some e => d.finish q stAddrFault e
    | none, none =>
      if 4096 ≤ (d.fabric.recvs.filter (fun r => r.die == x.die)).length then d.finish q 0x702 0
      else
        match d.fabric.unexp.find? (Recv.takes x) with
        | some h => { d with fabric := { d.fabric with unexp := dropFirst (Recv.takes x) d.fabric.unexp } }.matchMsg x h
        | none => { d with fabric := { d.fabric with recvs := d.fabric.recvs ++ [x] } }

/-- FB_RECV (R364, R365, R367). -/
def execFbRecv (q : Nat) (s : State) : Host.Outcome State Fault Refusal := s.upd (Dev.startCmd q 0x602 (fun _ => Dev.recvRun q))

/-- MESSAGE_HEADER_ARRIVAL (R365, R367): matched, put on the unexpected list, or refused. -/
def execMessageHeaderArrival (die src : Nat) (tag : BitVec 32) (len id : Nat) (s : State) : Host.Outcome State Fault Refusal :=
  s.upd (fun d =>
    let h : Hdr := ⟨die, src, tag, len, id⟩
    let f (r : Recv) : Bool := r.takes h
    match d.fabric.recvs.find? f with
    | some r => ({ d with fabric := { d.fabric with recvs := dropFirst f d.fabric.recvs } }.emit (.accepted src id)).matchMsg r h
    | none =>
      if (d.fabric.unexp.filter (fun x => x.die == die)).length < 4096 then
        ({ d with fabric := { d.fabric with unexp := d.fabric.unexp ++ [h] } }.countFb die 0x58 1).emit (.accepted src id)
      else d.emit (.nak src id))

/-- R364: the receive report. -/
def recvReport (r : Recv) (h : Hdr) : List Byte :=
  let n := min r.len h.len
  bytesOf 8 (h.src % 2 ^ 14 + b2n (decide (r.len < h.len)) * 2 ^ 16 + h.tag.toNat * 2 ^ 32) ++ bytesOf 8 (h.len + n * 2 ^ 32)

/-- R364: the payload of a matched message is written, then its report, then its counter is incremented. -/
def Dev.receiveMsg (m : Match) (data : List Byte) (d : Dev) : Dev :=
  let n := min m.recv.len m.hdr.len
  let put (va : Nat) (bs : List Byte) (d : Dev) : Dev :=
    match d.vaPieces m.recv.root va true (bs.length / 4096 + 2) bs.length with
    | .ok ps => Dev.storePieces {} ps bs d
    | .error _ => d
  let d := put m.recv.addr (padTo n (data.take n)) d
  let d := put (m.recv.rep.getD 0) (recvReport m.recv m.hdr) d
  d.sigAdd m.recv.rsig m.recv.rinc

/-- MESSAGE_RECEIVE_DONE (R364): the oldest matched message of the die. -/
def execMessageReceiveDone (die : Nat) (data : List Byte) (s : State) : Host.Outcome State Fault Refusal :=
  s.upd (fun d =>
    let f (m : Match) : Bool := m.hdr.die == die
    match d.fabric.matched.find? f with
    | some m => { d with fabric := { d.fabric with matched := dropFirst f d.fabric.matched } }.receiveMsg m data
    | none => d)

/-- FB_NOP (R361). -/
def execFbNop (q : Nat) (s : State) : Host.Outcome State Fault Refusal := s.upd (Dev.startCmd q 0x603 (fun _ d => d))

end Sys2Proof.Machine
end

