-- ==== Sys2Proof/Machine/RegValue.lean ====
section
/-! DEFINITION. Which values a register takes (00 R9 and the ranges of each chapter), and what a software write makes of a register's
fields (00 R5). The image load and register writes use these. -/

namespace Sys2Proof.Machine

/-- A field holds a value its table lists as used. -/
def FieldInfo.inUse (f : FieldInfo) (v : Nat) : Bool :=
  let x := bits v f.hi f.lo
  f.used.isEmpty || f.used.any (fun p => decide (p.1 ≤ x) && decide (x ≤ p.2))

/-- A field that software may write. -/
def FieldInfo.writable (f : FieldInfo) : Bool := f.acc != .ro

/-- The bits that fields name. -/
def Reg.fieldMask (r : Reg) : Nat := r.info.fields.foldl (fun m f => m + (2 ^ (f.hi + 1) - 2 ^ f.lo)) 0

/-- Every reserved bit of a value is zero. -/
def Reg.reservedOk (r : Reg) (v : Nat) : Bool := v &&& r.fieldMask == v

/-- 01, GL_PWR_CAP: a cap value in use. -/
def capOk (n : Nat) : Bool := n % 25 == 0 && decide (2400 ≤ n) && decide (n ≤ 3800)

/-- 09 R240: a ring of `unit << log` bytes lies in stacked memory at a multiple of its size. -/
def ringOk (base log unit : Nat) : Bool :=
  let size := unit * 2 ^ log
  base % size == 0 && decide (base + size ≤ stackSize)

/-- 15 R420: the kind has an agent with this number; a core number may be one of no core in service. -/
def agentOk (kind target : Nat) : Bool :=
  match kind with
  | 5 => decide (target ≤ 31)
  | 6 | 7 => decide (target ≤ 1)
  | 8 => decide (target ≤ 47)
  | _ => true

/-- 12 R356: a machine dimension. -/
def dimOk (n : Nat) : Bool := n == 1 || n == 2 || (n % 4 == 0 && n != 0)

/-- 02 R72: the range of RATE in the source mode in force. -/
def Dev.rateOk (d : Dev) (n : Nat) : Bool :=
  match d.tideSrc with
  | 1 => decide (16 ≤ n) && decide (n ≤ 4096)
  | 2 => decide (1 ≤ n) && decide (n ≤ 50000000)
  | 3 => decide (n ≤ 107374182)
  | _ => true

/-- Rules of a register's table that one used-value list does not say: ranges across fields, and values that a feature left out of
the locked vector makes unused (16 R453). -/
def Dev.relOk (d : Dev) (r : Reg) (w : Word) : Bool :=
  match r with
  | .glPwrCap =>
    capOk (F.glPwrCap_CAP.get w) && capOk (F.glPwrCap_FLOOR.get w) && decide (F.glPwrCap_FLOOR.get w ≤ F.glPwrCap_CAP.get w)
  | .glSupplyCfg =>
    let a := F.glSupplyCfg_WARN.get w
    let b := F.glSupplyCfg_RESET.get w
    decide (176 ≤ a) && decide (a ≤ 191) && decide (160 ≤ b) && decide (b ≤ 180) && decide (b + 4 ≤ a)
  | .tgSrcCfg => decide (2 < F.tgSrcCfg_SRC.get w) || d.feat 1
  | .tgSrcRate => d.rateOk (F.tgSrcRate_RATE.get w)
  | .tgPtimeAdj => decide ((sval 40 (F.tgPtimeAdj_ADJ.get w)).natAbs ≤ 140737488355)
  | .fbVcWeight _ =>
    let v := w.toNat
    decide (8 ≤ bits v 7 0) && bits v 7 0 + bits v 15 8 + bits v 23 16 + bits v 31 24 == 256
  | .fbTorusId =>
    let dims := [F.fbTorusId_DX.get w, F.fbTorusId_DY.get w, F.fbTorusId_DZ.get w]
    dims.all dimOk && (d.feat 5 || dims.all (· == 1))
  | .ccJobPerm _ => decide (F.ccJobPerm_CTR_BASE.get w ≤ F.ccJobPerm_CTR_LAST.get w)
  | .cqBind _ =>
    agentOk (F.cqBind_KIND.get w) (F.cqBind_TARGET.get w) && (F.cqBind_KIND.get w != 6 || d.feat 5)
  | .cqRing _ => ringOk (expandPa (F.cqRing_BASE.get w * 64)) (F.cqRing_LOG2SIZE.get w) 64
  | .cqCring _ => ringOk (expandPa (F.cqCring_BASE.get w * 64)) (F.cqCring_LOG2SIZE.get w) 16
  | .ppRxRing _ _ => ringOk (F.ppRxRing_BASE.get w * 2048) (F.ppRxRing_LOG2SIZE.get w) 2048
  | .cnRecRing => ringOk (F.cnRecRing_BASE.get w * 64) (F.cnRecRing_LOG2SIZE.get w) 1
  | .cnRplRing => ringOk (F.cnRplRing_BASE.get w * 64) (F.cnRplRing_LOG2SIZE.get w) 1
  | .cnRdRing => ringOk (F.cnRdRing_BASE.get w * 16384) (F.cnRdRing_LOG2SLOTS.get w) 16384
  | _ => true

/-- A value that a register can hold after an image load (15 R419): no reserved bit, no unused field value, no broken range. -/
def Dev.imgValueOk (d : Dev) (r : Reg) (w : Word) : Bool :=
  r.info.fields.all (fun f => f.inUse w.toNat) && d.relOk r w

/-- A value that one record may give a register (15 R419): the rings of R240 and the dimensions of R356 are checked with the other
cross-checks, in load step 8; the extents of a group (13, FB_GROUP_n) here, so that a group without a record stays undefined. -/
def Dev.recordOk (d : Dev) (r : Reg) (w : Word) : Bool :=
  r.info.fields.all (fun f => f.inUse w.toNat) &&
    (match r with
     | .cqRing _ | .cqCring _ | .fbTorusId => true
     | .fbGroup _ => [F.fbGroup_EX, F.fbGroup_EY].all (fun f => decide (1 ≤ f.get w) && decide (f.get w ≤ 32)) &&
        decide (1 ≤ F.fbGroup_EZ.get w) && decide (F.fbGroup_EZ.get w ≤ 16)
     | _ => d.relOk r w)

/-- 12 R336, R343: an export range lies wholly within one of the two mapped ranges of a window. -/
def expRangeOk (w : Word) : Bool :=
  let base := bits w.toNat 29 0 * 4096
  let size := bits w.toNat 59 30 * 4096
  size == 0 || (match windowAddr base, windowAddr (base + size - 1) with
    | some a, some b => b == a + (size - 1)
    | _, _ => false)

/-- 12 R343: two import entries in use name one slot and overlap; an empty range overlaps none. -/
def impClash (n m : Nat × Word × Word) : Bool :=
  F.fbImpCtl_EN.get n.2.2 == 1 && F.fbImpCtl_EN.get m.2.2 == 1 && F.fbImpCtl_SLOT.get n.2.2 == F.fbImpCtl_SLOT.get m.2.2 &&
    n.1 != m.1 && bits n.2.1.toNat 59 30 != 0 && bits m.2.1.toNat 59 30 != 0 &&
    decide (bits n.2.1.toNat 29 0 < bits m.2.1.toNat 29 0 + bits m.2.1.toNat 59 30) &&
    decide (bits m.2.1.toNat 29 0 < bits n.2.1.toNat 29 0 + bits n.2.1.toNat 59 30)

/-- The import entries in use. -/
def Dev.imports (d : Dev) : List (Nat × Word × Word) :=
  ((List.range 4096).map (fun n => (n, d.rd (.fbImpRange n), d.rd (.fbImpCtl n)))).filter (fun e => F.fbImpCtl_EN.get e.2.2 == 1)

/-- 12 R343: the import entry `n`, with these values, overlaps no other. -/
def Dev.importOk (d : Dev) (n : Nat) (range ctl : Word) : Bool := !d.imports.any (impClash (n, range, ctl))

/-- 14 R397: LEAD does not exceed the offset of the slot's mark, of those last written. -/
def Dev.leadOk (d : Dev) (w : Word) : Bool :=
  let m := d.rd (.tgMark (F.ppSlotTime_MARK.get w))
  decide (F.ppSlotTime_LEAD.get w ≤ F.tgMark_WHOLE.get m * 65536 + F.tgMark_FRAC.get m)

/-- 02 R50: an image of the time class. -/
def Dev.timeClass (d : Dev) : Bool := d.fld .glImgInfo F.glImgInfo_CLASS == 2

/-- 00 R9 and the rules by which a chapter ignores a write whole: a write that a register takes. Only fields that software writes
count. -/
def Dev.writeTaken (d : Dev) (r : Reg) (w : Word) : Bool :=
  r.info.fields.all (fun f => !f.writable || f.inUse w.toNat) && d.relOk r w &&
    (match r with
     | .tgPhase _ => F.tgPhase_KIND.get w != 3 || !d.timeClass
     | .tgSrcRate => d.tideSrc == 3
     | .ppSlotTime _ _ => d.leadOk w
     | .fbExpRange _ => expRangeOk w
     | .fbImpRange n => d.importOk n w (d.rd (.fbImpCtl n))
     | .fbImpCtl n => d.importOk n (d.rd (.fbImpRange n)) w
     | _ => true)

/-- 00 R5: one field after a software write of `w` to a register that held `v`. -/
def writeField (w v : Word) (f : FieldInfo) (acc : Nat) : Nat :=
  let new := bits w.toNat f.hi f.lo
  let old := bits v.toNat f.hi f.lo
  let x := match f.acc with
    | .rw => new
    | .ro => old
    | .wo => 0
    | .w1c => old &&& (2 ^ (f.hi + 1 - f.lo) - 1 - new)
    | .w1s => old ||| new
    | .w1p => 0
  acc + x * 2 ^ f.lo

/-- 00 R5: a register's new value; reserved bits stay zero. A value that is only written (WO) is not held here. -/
def Reg.written (r : Reg) (w v : Word) : Word :=
  BitVec.ofNat 64 (r.info.fields.foldl (fun a f => writeField w v f a) 0)

/-- The block that reads a register at its starts is at work (00 R11, next block start). -/
def Dev.blockBusy (d : Dev) (r : Reg) : Bool :=
  match r with
  | .cnRdRing => d.snap.isSome
  | .cnRecRing => d.recd.on
  | .cnRplRing => d.recd.rplOn
  | .cvScrub _ => true
  | _ => false

/-- A register with an effect point later than the write keeps the value in force until then (00 R11, 15 R432). A command reads
its registers at its start, so a write that applies from the next command start needs no second value. A register that an image load
puts in force is written only while none is held (15 R430), and its value waits for the load. -/
def Dev.wrAt (r : Reg) (w : Word) (d : Dev) : Dev :=
  let later := match r.info.eff with
    | .imm | .cmd => false
    | .block => d.blockBusy r
    | _ => true
  if later then ({ d with held := if thas r d.held then d.held else tset r (d.rd r) d.held }).wr r w
  else d.wr r w

end Sys2Proof.Machine
end

