-- ==== Sys2Proof/Machine/Image.lean ====
section
/-! DEFINITION. The Tameel image (15): its checks, applying its sections, the cross-checks, the start, and unloading. -/

namespace Sys2Proof.Machine

/-- A failing load: GL_IMG_STATUS.CODE, SECT, DETAIL. -/
abbrev ImgFail := Nat × Nat × Nat

/-- SECT for the header, signature or requirements. -/
def noSect : Nat := 0x7FF

/-! ## Registers of an image (R418) -/

/-- R418: the section type that may set a register. -/
def Reg.section : Reg → Option Nat
  | .glMemMap | .ftSet _ | .cvHintQuota _ | .cvPrio _ | .cvScrub _ => some 1
  | .coreBind _ | .coreRngKey _ _ | .coreRngCtr _ _ | .coreXlatRoot _ | .coreParam _ _ _ | .corePstage _ _ _ => some 3
  | .cqBind _ | .cqRing _ | .cqCring _ | .cqSig _ => some 4
  | .ccTvec _ | .ccXlatRoot _ | .ccMboxIe _ | .ccJobPerm _ => some 5
  | .fbTorusId | .fbVcWeight _ | .fbGroup _ | .fbExpRange _ | .fbExpKey _ | .fbImpRange _ | .fbImpKey _ | .fbImpCtl _ => some 6
  | .glFolioMembers | .glFolioCfg | .glFolioReg _ | .glFolioTrig => some 7
  | .corePmcSel _ _ | .cvPmcSel _ _ | .fbPmcSel _ _ | .cnPmcSel _ | .tgPmcSel _ => some 8
  | .glPwrCap => some 9
  | .ppCfg _ | .ppRxRing _ _ | .ppRxf _ _ | .ppSlotTime _ _ | .ppSlotBuf _ _ | .ppSlotThr _ _ => some 12
  | .tgSrcCfg | .tgSrcRate | .tgLoss | .tgCtl | .tgRelay | .tgPhase _ | .tgMark _ => some 14
  | _ => none

/-- R418, R419: the fields that a record sets; those left out keep their values. -/
def Reg.imgMask (r : Reg) : Nat :=
  match r with
  | .fbTorusId => 2 ^ 41 - 2 ^ 24
  | .tgRelay => 2 ^ 46 - 2 ^ 32
  | _ => 2 ^ 64 - 1

/-- The fields of a register that act when they are written and hold nothing (00 R5): a record leaves them 0. -/
def Reg.pulseMask (r : Reg) : Nat :=
  r.info.fields.foldl (fun m f => if f.acc = .wo ∨ f.acc = .w1p then m + (2 ^ (f.hi + 1) - 2 ^ f.lo) else m) 0

/-- The registers for which zero is an unused value (R421), TG_SRC_CFG where a feature is not locked (16 R453). -/
def zeroUnused : List Reg :=
  [.tgCtl, .tgSrcCfg, .tgLoss, .tgSrcRate, .fbTorusId, .fbVcWeight 0, .fbVcWeight 1] ++ (List.range 32).map Reg.cvPrio ++
    [0, 1].flatMap (fun p => (List.range 4).map (Reg.ppRxRing p)) ++ [0, 1].flatMap (fun p => (List.range 64).map (Reg.ppSlotBuf p)) ++
    (List.range 4096).flatMap (fun q => [Reg.cqRing q, Reg.cqCring q])

/-! ## No image (R427) -/

/-- A register's offset lies in a range. -/
def Reg.within (r : Reg) (lo hi : Nat) : Bool := decide (lo ≤ r.off) && decide (r.off < hi)

/-- A register that goes back to its reset value when the package holds no image: those an image sets or locks, and those of the tide
gate, the plant ports, the counters with their reader, recorder and replay, the fabric dies, the queues, the cores, the control cores
and the running folio. -/
def Reg.ofImage (r : Reg) : Bool :=
  r.section.isSome || (r.info.eff == .load && r != .glImgInfo) || decide (0x10000000 ≤ r.off) || r.within 0x10000 0x30000 ||
    r.within 0x50000 0x60000 || r.within 0x2000000 0x2180000 ||
    (match r with
     | .fbPort _ _ => false
     | .cvBmeStatus _ | .cvPmcSel _ _ | .cvPmcValue _ _ | .cvPmcShadow _ _ | .glFolioStatus | .glFolioProg => true
     | r => r.within 0x100000 0x200000)

/-- R427: the package keeps no image. Memory, the host's side, links, errors, logs and package time stay (log entry 42); the caches
are empty, and the board position returns. -/
def Dev.noImage (d : Dev) : Dev :=
  let t : Tide := { levelA := d.tide.levelA, levelB := d.tide.levelB, levelZ := d.tide.levelZ, okSince := d.tide.okSince }
  let up := [0, 1].filter (fun p => d.flag (.ppStatus p) F.ppStatus_LINK)
  let d := { d with regs := d.regs.filter (fun p => !p.1.ofImage), held := [], tide := t, fabric := {}, cores := [], ccs := [] }
  let d := { d with queues := [], plants := [], folio := {}, snap := none, cache := [] }
  let d := { d with badWords := d.badWords.filter (fun w => decide (w.kind ≤ 1) || w.kind == 3) }
  let d := up.foldl (fun d p => d.setFld (.ppStatus p) F.ppStatus_LINK 1) d
  let d := d.wr .glImgInfo (F.glImgInfo_LOADS.put (d.fld .glImgInfo F.glImgInfo_LOADS) 0)
  let d := d.setFld .glCoreCount F.glCoreCount_LOGICAL 0
  let d := (d.setFld .glFenceCtl F.glFenceCtl_BUSY 0).setFld .glChkCtl F.glChkCtl_INJ_PEND 0
  let d := { d with capInForce := 3400, recd := {} }
  match d.board with
  | some b => if b.posOk then d.readPosition b else d
  | none => d

/-! ## Header, digest, requirements (R415 to R417, R423, R424; load steps 2 to 5) -/

/-- Where GL_IMG_ADDR points. -/
def Dev.imgAddr (d : Dev) : Nat := d.fld .glImgAddr F.glImgAddr_ADDR * 4096

/-- The first byte of `n` at the image's address that cannot be read. -/
def Dev.imgUnread (d : Dev) (n : Nat) : Option Nat :=
  let a := d.imgAddr
  match d.badIn a n with
  | w :: _ => some (w.addr - a)
  | [] => if stackSize < a + n then some (stackSize - a) else none

/-- A section table entry. -/
structure ImgSect where
  ix : Nat
  type : Nat
  version : Nat
  off : Nat
  len : Nat
  crc : Nat
  mch : Nat
  mask : Nat
  deriving DecidableEq, Repr

/-- Entry `i` of the section table. -/
def imgSect (b : List Byte) (i : Nat) : ImgSect :=
  let o := 256 + 32 * i
  ⟨i, numAt b o 2, numAt b (o + 2) 2, numAt b (o + 4) 4, numAt b (o + 8) 4, numAt b (o + 12) 4, numAt b (o + 16) 2, numAt b (o + 18) 2⟩

/-- The section table. -/
def imgSects (b : List Byte) : List ImgSect := (List.range (numAt b 6 2)).map (imgSect b)

/-- The first of some checks that fails, with its byte offset. -/
def firstBreach : List (Bool × Nat) → Option Nat
  | [] => none
  | (bad, x) :: t => if bad then some x else firstBreach t

/-- Offset of the first non-zero byte of a run. -/
def firstSet (b : List Byte) (o n : Nat) : Option Nat := (addrs o n).find? (fun i => b.getD i 0 != 0)

/-- R416: a section table entry: alignment, place, reserved bytes. -/
def sectFault (b : List Byte) (s : ImgSect) : Option Nat :=
  let tend := 256 + 32 * numAt b 6 2
  firstBreach [(s.off % 64 != 0 || decide (s.off < tend) || decide (numAt b 12 4 < s.off + s.len), 4),
    (decide (2 ^ 14 ≤ s.mch), 16), (decide (2 ^ 14 ≤ s.mask), 18), ((firstSet b (256 + 32 * s.ix + 20) 12).isSome, 20)]

/-- R416: a section shares a byte with an earlier entry's. -/
def sectOverlap (ss : List ImgSect) (s : ImgSect) : Bool :=
  ss.any (fun t => decide (t.ix < s.ix) && decide (0 < s.len) && decide (0 < t.len) && decide (t.off < s.off + s.len) && decide (s.off < t.off + t.len))

/-- Load step 2 on the header alone. -/
def imgHeaderFault (h : List Byte) : Option Nat :=
  let size := numAt h 8 4
  let off := numAt h 12 4
  let tend := 256 + 32 * numAt h 6 2
  firstBreach [(numAt h 0 4 != 0x31474D49, 0), (numAt h 4 2 != 1, 4), (numAt h 6 2 == 0 || decide (1024 < numAt h 6 2), 6),
    (size % 64 != 0 || decide (268435456 < size) || decide (size < tend), 8),
    (off % 64 != 0 || decide (off < tend) || decide (size < off), 12), (off + numAt h 16 4 != size, 16)]

/-- Load step 2 on the whole: HCRC, header values, the section table. -/
def imgTableFault (b : List Byte) : Option (Nat × Nat) :=
  let tend := 256 + 32 * numAt b 6 2
  let ss := imgSects b
  match firstBreach [(crc32c (b.take 20 ++ zeros 4 ++ (b.take tend).drop 24) != numAt b 20 4, 20), (decide (2 < numAt b 24 1), 24),
    (decide (8 ≤ numAt b 25 1), 25), (numAt b 26 2 == 0 || decide (184 < numAt b 26 2), 26),
    ((firstSet b 120 136).isSome, (firstSet b 120 136).getD 120)] with
  | some x => some (noSect, x)
  | none =>
    match ss.findSome? (fun s => (sectFault b s).map (fun x => (s.ix, x))) with
    | some e => some e
    | none => (ss.find? (sectOverlap ss)).map (fun s => (s.ix, 4))

/-- The length of an HSS signature with `n` signed keys, at most the bytes there are. -/
def hssSigLen : Nat → List Byte → Option Nat
  | 0, sig => (lmsHeight (beNum sig 2184 4)).map lmsSigLen
  | n + 1, sig =>
    match lmsHeight (beNum sig 2184 4) with
    | none => none
    | some h => (hssSigLen n (sig.drop (lmsSigLen h + 56))).map (fun m => lmsSigLen h + 56 + m)

/-- R424: the signature block verifies over the digest under the owner's key. DESIGN CHOICE (log 54): SIGLEN is 60 plus the
signature's length rounded up to a multiple of 64, since R415 makes SIZE and SIGOFF multiples of 64 and no HSS signature gives one. -/
def Dev.imgAuth (d : Dev) (b : List Byte) : Bool :=
  let blk := b.drop (numAt b 12 4)
  let key := blk.take 60
  let sig := blk.drop 60
  match hssSigLen (beNum sig 0 4) (sig.drop 4) with
  | none => false
  | some n => d.ownerKey == some key && (60 + 4 + n + 63) / 64 * 64 == numAt b 16 4 &&
    hssVerify key (sig.take (4 + n)) (sha256 (b.take (numAt b 12 4)))

/-- R15: the physical cores that take logical numbers. -/
def Dev.usable (d : Dev) : List Nat := (List.range 192).filter (fun p => d.physEnabled p && !d.physFenced p)

/-- Step 5: the lowest feature that FEATREQ needs and that is not locked. -/
def Dev.featMissing (d : Dev) (b : List Byte) : Option Nat := (List.range 128).find? (fun j => bit (numAt b 32 16) j && !d.feat j)

/-- Steps 2 to 5 of the image load (also 16 R471, R474): the image, or why it fails. -/
def Dev.imgVerify (d : Dev) : Except ImgFail (List Byte) :=
  let a := d.imgAddr
  match d.imgUnread 256 with
  | some x => .error (10, noSect, x)
  | none =>
    let h := d.physRead a 256
    match imgHeaderFault h with
    | some x => .error (2, noSect, x)
    | none =>
      match d.imgUnread (numAt h 8 4) with
      | some x => .error (10, noSect, x)
      | none =>
        let b := d.physRead a (numAt h 8 4)
        match imgTableFault b with
        | some e => .error (2, e.1, e.2)
        | none =>
          if !d.imgAuth b then .error (3, noSect, 0)
          else
            match (imgSects b).find? (fun s => crc32c (sliceB b s.off s.len) != s.crc) with
            | some s => .error (4, s.ix, 0)
            | none =>
              match d.featMissing b with
              | some j => .error (5, noSect, j)
              | none =>
                if d.fld .glBootStatus F.glBootStatus_FWVER < numAt b 28 4 then .error (5, noSect, 0xFFFFFFFF)
                else if d.usable.length < numAt b 26 2 then .error (6, noSect, 0)
                else .ok b

/-! ## Applying sections (R418 to R422; load steps 6 and 7) -/

/-- What applying has noted: where each register was set, the cores that CORE_BIND records name, and PRELOAD ranges and FRAMES entries so
far. -/
structure ImgAcc where
  dev : Dev
  sets : List (Reg × (Nat × Nat))
  binds : List Nat
  pre : List (Nat × Nat)
  frames : List (Nat × Nat)
  deriving DecidableEq, Repr

/-- A step of applying: what is noted, and the failure that ends it. -/
abbrev ImgRes := ImgAcc × Option ImgFail

/-- Steps over a list until one fails. -/
def imgEach {α : Type} (f : α → ImgAcc → ImgRes) : List α → ImgAcc → ImgRes
  | [], x => (x, none)
  | a :: t, x =>
    match f a x with
    | (y, none) => imgEach f t y
    | r => r

/-- R419, R420: one record. -/
def applyRecord (s : ImgSect) (b : List Byte) (o : Nat) (x : ImgAcc) : ImgRes :=
  let d := x.dev
  let fail : ImgRes := (x, some (7, s.ix, o))
  let off := numAt b o 8
  let v := numAt b (o + 8) 8
  match (if off % 8 = 0 then Reg.locate off else none) with
  | none => fail
  | some r =>
    let ok := r.inRange && r.section == some s.type && (match r.info.feat with
      | some f => d.feat f
      | none => true)
    if r.isCore && decide (d.nCores ≤ r.unit) then (x, none)
    else if !ok || !r.reservedOk v then fail
    else
      let w := BitVec.ofNat 64 ((d.rd r).toNat - ((d.rd r).toNat &&& r.imgMask) + (v &&& r.imgMask))
      let kept := BitVec.ofNat 64 (w.toNat - (w.toNat &&& r.pulseMask))
      let binds : List Nat := match r with
        | .coreBind c => c :: x.binds
        | _ => x.binds
      if d.recordOk r w then ({ x with dev := d.wr r kept, sets := tset r (s.ix, o) x.sets, binds := binds }, none) else fail

/-- R419: a records section. -/
def applyRecords (s : ImgSect) (b : List Byte) (x : ImgAcc) : ImgRes :=
  if s.len % 16 ≠ 0 then (x, some (7, s.ix, s.len / 16 * 16))
  else imgEach (applyRecord s b) ((List.range (s.len / 16)).map (16 * ·)) x

/-- R422: the entries of a blob section: offset, address word, data; or the offset of one that breaks the layout. -/
def blobEntries (b : List Byte) : Nat → Nat → Except Nat (List (Nat × Nat × List Byte))
  | 0, _ => .ok []
  | n + 1, o =>
    if b.length ≤ o then .ok []
    else
      let len := numAt b (o + 8) 4
      let next := o + 64 + (len + 63) / 64 * 64
      if b.length < next ∨ (firstSet b (o + 12) 52).isSome ∨ (firstSet b (o + 64 + len) (next - (o + 64 + len))).isSome then .error o
      else
        match blobEntries b n next with
        | .error e => .error e
        | .ok t => .ok ((o, numAt b o 8, sliceB b (o + 64) len) :: t)

/-- R422: one PRELOAD entry. -/
def applyPreload (s : ImgSect) (e : Nat × Nat × List Byte) (x : ImgAcc) : ImgRes :=
  let a := e.2.1
  let n := e.2.2.length
  if a % 64 ≠ 0 ∨ n = 0 ∨ stackSize < a + n ∨ x.pre.any (fun p => meets a n p.1 p.2) then (x, some (7, s.ix, e.1))
  else ({ x with dev := x.dev.storeStack a e.2.2, pre := (a, n) :: x.pre }, none)

/-- R422: one BANKS entry; its bundle passes the check of 09 R266 where `banks` names its directory. -/
def applyBank (banks : List (Nat × List (Nat × Nat × Nat))) (s : ImgSect) (e : Nat × Nat × List Byte) (x : ImgAcc) : ImgRes :=
  let c := e.2.1 % 2 ^ 16
  let bs := e.2.2
  if 2 ^ 16 ≤ e.2.1 ∨ 262144 < bs.length then (x, some (7, s.ix, e.1))
  else if x.dev.nCores ≤ c then (x, none)
  else
    match banks.find? (fun p => p.1 == c) with
    | none => (x, some (9, s.ix, e.1))
    | some p =>
      let d := (List.range ((bs.length + 7) / 8)).foldl (fun d j => d.wr (.coreBank c 0 j) (BitVec.ofNat 64 (numAt bs (8 * j) 8))) x.dev
      let d := (d.setFld (.coreRbank c) F.coreRbank_ACTIVE 0).setFld (.coreRbank c) F.coreRbank_VERIFIED 0
      ({ x with dev := d.setCore c { d.core c with dirs := tset 0 p.2 (d.core c).dirs } }, none)

/-- R422: one SIGS entry (06 R166). -/
def applySig (s : ImgSect) (e : Nat × Nat × List Byte) (x : ImgAcc) : ImgRes :=
  let c := e.2.1 % 2 ^ 16
  let slot := e.2.1 / 2 ^ 16
  if 16 ≤ slot ∨ 65536 < e.2.2.length then (x, some (7, s.ix, e.1))
  else if x.dev.nCores ≤ c then (x, none)
  else
    let r := x.dev.sigInstall c slot (padTo 65536 e.2.2)
    if r.2.1 ≠ 0 then (x, some (8, s.ix, r.2.1 % 2 ^ 16 + c * 2 ^ 16)) else ({ x with dev := r.1 }, none)

/-- R422: one FRAMES entry. -/
def applyFrame (s : ImgSect) (e : Nat × Nat × List Byte) (x : ImgAcc) : ImgRes :=
  let p := e.2.1 % 256
  let n := e.2.1 / 256
  if 2 ≤ p ∨ 64 ≤ n ∨ e.2.2.length ≠ 2048 ∨ !x.dev.feat 2 then (x, some (7, s.ix, e.1))
  else
    let y := x.dev.plant p
    let d := x.dev.setPlant p { y with fallback := tset n e.2.2 y.fallback }
    ({ x with dev := d, frames := (p, n) :: x.frames }, none)

/-- R418: one section. -/
def applySect (banks : List (Nat × List (Nat × Nat × Nat))) (b : List Byte) (s : ImgSect) (x : ImgAcc) : ImgRes :=
  let body := sliceB b s.off s.len
  let blobs (f : Nat × Nat × List Byte → ImgAcc → ImgRes) : ImgRes :=
    match blobEntries body (body.length / 64 + 1) 0 with
    | .error o => (x, some (7, s.ix, o))
    | .ok es => imgEach f es x
  match s.type with
  | 2 => blobs (applyPreload s)
  | 10 => blobs (applyBank banks s)
  | 11 => blobs (applySig s)
  | 13 => blobs (applyFrame s)
  | _ => applyRecords s body x

/-- R417, R418: the sections that apply to this package, in their order. -/
def Dev.sectOrder (d : Dev) (b : List Byte) : List ImgSect :=
  let mine := (imgSects b).filter (fun s => (d.fld .fbTorusId ⟨13, 0⟩ ^^^ s.mch) &&& s.mask == 0)
  sortBy (fun s t => decide (s.type < t.type) || (s.type == t.type && decide (s.ix ≤ t.ix))) mine

/-- R415, R418: an entry with an unused type or version. -/
def sectUnused (s : ImgSect) : Option ImgFail :=
  if s.type = 0 ∨ 14 < s.type then some (7, s.ix, 0) else if s.version ≠ 1 then some (7, s.ix, 2) else none

/-- Step 6: logical numbers, and the header's fields. -/
def Dev.numberCores (b : List Byte) (d : Dev) : Dev :=
  let us := d.usable
  let d := (List.range us.length).foldl (fun d n =>
    (d.setFld (.glLog2phys n) F.glLog2phys_PHYS (us.getD n 0)).setFld (.glLog2phys n) F.glLog2phys_VALID 1) d
  let d := d.setFld .glCoreCount F.glCoreCount_LOGICAL us.length
  let d := (d.setFld .glImgInfo F.glImgInfo_CLASS (numAt b 24 1)).setFld .glImgInfo ⟨4, 2⟩ (numAt b 25 1)
  d.setFld .glImgInfo F.glImgInfo_MINCORES (numAt b 26 2)

/-! ## Cross-checks (load step 8) -/

/-- 10 R306: the far-tier sets. -/
def Dev.farSetBad (d : Dev) : Option Nat :=
  let size (n : Nat) : Nat := d.fld (.ftSet n) F.ftSet_SIZE
  let base (n : Nat) : Nat := d.fld (.ftSet n) F.ftSet_BASE
  let ways (n : Nat) : Nat := 2 ^ d.fld (.ftSet n) F.ftSet_WAYS
  (List.range 4).find? (fun n => size n != 0 &&
    (decide (4096 < base n + size n) ||
     (d.farPorts n).any (fun p => decide (ways n * d.fld (.ftPort p) F.ftPort_CAP < size n)) ||
     !decide ((d.farPorts n).eraseDups.length = (d.farPorts n).length) ||
     (List.range n).any (fun m => size m != 0 && (meets (base n) (size n) (base m) (size m) ||
        (d.farPorts n).any (fun p => (d.farPorts m).contains p)))))

/-- 13 R372: a group that is defined. -/
def Dev.groupBad (d : Dev) (g : Nat) : Bool :=
  d.flag (.fbGroup g) F.fbGroup_VALID &&
    (d.fld (.fbGroup g) F.fbGroup_AXES == 0 ||
     [(F.fbGroup_EX, F.fbTorusId_DX), (F.fbGroup_EY, F.fbTorusId_DY), (F.fbGroup_EZ, F.fbTorusId_DZ)].any (fun x =>
       d.fld (.fbGroup g) x.1 == 0 || decide (d.fld .fbTorusId x.2 < d.fld (.fbGroup g) x.1)))

/-- 19 R532: an export range overlaps the reserve of the folio group. -/
def Dev.exportOnReserve (d : Dev) (n : Nat) : Bool :=
  let w := d.rd (.fbExpRange n)
  match windowAddr (bits w.toNat 29 0 * 4096) with
  | some a => d.fld .glFolioMembers F.glFolioMembers_MASK != 0 && meets a (bits w.toNat 59 30 * 4096) (d.reserveAt 0) (2 * d.folioHS)
  | none => false

/-- The members of the folio group number 4 to 64 where the image defines one (19 R528). -/
def Dev.folioBad (d : Dev) : Bool :=
  let n := popcount (d.fld .glFolioMembers F.glFolioMembers_MASK) 64
  decide (0 < n) && decide (n < 4)

/-- The register whose cross-check fails first (R50, R72, R240, R306, R343, R356, R372, R397, R421, R528, R532). -/
def Dev.crossFault (x : ImgAcc) (d : Dev) : Option Reg :=
  let find (rs : List Reg) (bad : Reg → Bool) : Option Reg := rs.find? bad
  let cores := (List.range d.nCores).map Reg.coreBind
  let bound (c : Nat) : Nat × Nat := (d.fld (.coreBind c) F.coreBind_CCORE, d.fld (.coreBind c) F.coreBind_LOCAL)
  let slots := [0, 1].flatMap (fun p => (List.range 64).map (fun n => (p, n)))
  let exps := if d.feat 4 then List.range 4096 else []
  let first (l : List (Option Reg)) : Option Reg := l.findSome? id
  first [
    if d.timeClass then find ((List.range 8).map Reg.tgPhase) (fun r => bits (d.rd r).toNat 9 8 == 3) else none,
    find (zeroUnused.filter d.exists) (fun r => !d.imgValueOk r (d.rd r)),
    if d.feat 3 then d.farSetBad.map Reg.ftSet else none,
    find (exps.map Reg.fbExpRange) (fun r => !expRangeOk (d.rd r) || d.exportOnReserve r.unit),
    (d.imports.find? (fun e => !d.importOk e.1 e.2.1 e.2.2)).map (fun e => Reg.fbImpRange e.1),
    if d.feat 6 then ((List.range 64).find? d.groupBad).map Reg.fbGroup else none,
    if d.feat 2 then (slots.find? (fun s => !d.leadOk (d.rd (.ppSlotTime s.1 s.2)))).map (fun s => Reg.ppSlotTime s.1 s.2) else none,
    find cores (fun r => x.binds.count r.unit != 1 || cores.any (fun s => s != r && bound s.unit == bound r.unit)),
    if d.feat 2 then (slots.find? (fun s => d.flag (.ppSlotTime s.1 s.2) F.ppSlotTime_EN && !x.frames.contains s)).map
      (fun s => Reg.ppSlotTime s.1 s.2) else none,
    if d.feat 7 && d.folioBad then some .glFolioMembers else none]

/-! ## The start (load step 9) -/

/-- 16 R452, load step 9: a control core starts in supervisor mode at CC_TVEC. -/
def Dev.ccStart (k : Nat) (d : Dev) : Dev :=
  let r := Reg.ccStatus k
  let d := ((d.setFld r F.ccStatus_PRIV 1).setFld r F.ccStatus_IE 0).setFld r F.ccStatus_TRAP 0
  let d := (d.setFld r F.ccStatus_HALT 0).wr (.ccTrapCause k) 0
  let d := (d.setFld (.ccVstate k) F.ccVstate_VL 0).setFld (.ccVstate k) F.ccVstate_ILL 1
  d.setCc k { d.cc k with pc := d.rd (.ccTvec k) &&& ~~~(3 : Word), wait := .run }

/-- R420: the queues as bound: one whose record names a core that is not in service is unbound, and its KIND reads all ones. -/
def Dev.bindQueues (d : Dev) : Dev :=
  (List.range 4096).foldl (fun d q =>
    if d.qKind q = 15 then d
    else if d.qKind q ≤ 4 ∧ d.nCores ≤ d.qTarget q then d.setFld (.cqBind q) F.cqBind_KIND 15
    else d.setQueue q { mode := .on }) d

/-- Step 9, and 18 R515. -/
def Dev.imgStart (b : List Byte) (x : ImgAcc) (d : Dev) : Dev :=
  let dig := sha256 (b.take (numAt b 12 4))
  let d := (List.range 4).foldl (fun d j => d.wr (.glImgDigest j) (BitVec.ofNat 64 (numAt dig (8 * j) 8))) d
  let d := d.setFld .tgStatus F.tgStatus_MASTER (b2n (d.fld .tgRelay F.tgRelay_MASTER_ID == d.fld .fbTorusId ⟨13, 0⟩))
  let d := d.bindQueues
  let d := (List.range 48).foldl (fun d k => if thas (Reg.ccTvec k) x.sets then d.ccStart k else d) d
  let d := ((d.wr .cnChoiceBit 0).wr .cnChoiceTime 0).wr .fbPeerDead 0
  let d := { d with held := [], capInForce := d.planCap, folio := { lastAt := d.ptime } }
  let d := (d.setFld .glImgInfo F.glImgInfo_LOADS (d.fld .glImgInfo F.glImgInfo_LOADS + 1)).wr .glImgStatus (BitVec.ofNat 64 (2 + 1 * 16))
  let t : Tide := { d.tide with acqAt := d.cycle }
  let d : Dev := (d.setTide t).setFld .tgStatus F.tgStatus_STATE 1
  let d := if d.fld .glBootStatus F.glBootStatus_STAGE < 6 then d.setFld .glBootStatus F.glBootStatus_STAGE 6 else d
  d.loadTargets.recAtLoad

/-- HL_EVENT.IMAGE and vector 0. -/
def Dev.imgEnded (d : Dev) : Dev := ((d.setFld .hlEvent F.hlEvent_IMAGE 1).irq).healthDue

/-- R427: a failing load. -/
def Dev.imgFailed (e : ImgFail) (d : Dev) : Dev :=
  let d := d.noImage
  let st := 3 + e.1 * 2 ^ 4 + e.2.1 % 2 ^ 11 * 2 ^ 16 + e.2.2 % 2 ^ 32 * 2 ^ 32
  ((d.wr .glImgStatus (BitVec.ofNat 64 st)).event (source 0 0) 0x80 st false).imgEnded

/-- Steps 6 to 9 on a verified image. -/
def Dev.imgApply (banks : List (Nat × List (Nat × Nat × Nat))) (b : List Byte) (d : Dev) : Dev :=
  match (imgSects b).findSome? sectUnused with
  | some e => d.imgFailed e
  | none =>
    let d := (d.noImage.setFld .fbTorusId ⟨40, 24⟩ 0).numberCores b
    match imgEach (applySect banks b) (d.sectOrder b) ⟨d, [], [], [(d.imgAddr, b.length)], []⟩ with
    | (x, some e) => x.dev.imgFailed e
    | (x, none) =>
      match x.dev.crossFault x with
      | some r =>
        let o := tget (noSect, 0) r x.sets
        x.dev.imgFailed (7, o.1, o.2)
      | none => (x.dev.imgStart b x).imgEnded

/-- R426, 16 R456, R458: a load may begin. -/
def Dev.mayLoad (d : Dev) : Bool :=
  let st := d.fld .glImgStatus F.glImgStatus_STATE
  (st == 0 || st == 3) && d.flag .hlFeatCtl F.hlFeatCtl_LOCKED && d.fld .glBootStatus F.glBootStatus_STAGE != 8

/-- The load, from step 1 to its end. -/
def Dev.loadImage (banks : List (Nat × List (Nat × Nat × Nat))) (d : Dev) : Dev :=
  if d.mayLoad then
    (match d.imgVerify with
     | .error e =>
       let d := if e.1 = 10 then d.uncorrAll (d.badIn (d.imgAddr + e.2.2) 8) else d
       d.imgFailed e
     | .ok b => d.imgApply banks b)
  else d

/-- IMG_LOAD (R426). -/
def execImgLoad (req : Req) (banks : List (Nat × List (Nat × Nat × Nat))) (s : State) : Host.Outcome State Fault Refusal :=
  s.upd (Dev.guarded req .glImgCtl 1 (Dev.loadImage banks))

/-- R429: an unload is accepted. -/
def Dev.mayUnload (d : Dev) : Bool :=
  d.fld .glImgStatus F.glImgStatus_STATE == 2 &&
    d.queues.all (fun p => p.2.runs.isEmpty && [0, 1, 4, 5].contains (d.qState p.1))

/-- R429: the package keeps no image, and STATE is EMPTY. -/
def Dev.unloadImage (d : Dev) : Dev := if d.mayUnload then (d.noImage.wr .glImgStatus 0).healthDue else d

/-- UNLOAD (R429). -/
def execUnload (req : Req) (s : State) : Host.Outcome State Fault Refusal := s.upd (Dev.guarded req .glImgCtl 2 Dev.unloadImage)

end Sys2Proof.Machine
end

