-- ==== Sys2Proof/Machine/Bcast.lean ====
section
/-! DEFINITION. The broadcast of an image down the torus (16 R470 to R479), with the management commands that change its tree
(20 R564). -/

namespace Sys2Proof.Machine

/-- Where a receiving package stores the image (R473). -/
def bcastBase : Nat := 0x11FF0000000

/-- GL_BCAST_STATUS.STATE: 0 IDLE, 1 ROOT_VERIFY, 2 SENDING, 3 RECEIVING, 4 WAITING, 5 ORPHAN, 6 VERIFIED, 7 ACKED, 8 STARTED, 9 SHORT,
10 FAILED. -/
def Dev.bcastState (d : Dev) : Nat := d.fld .glBcastStatus F.glBcastStatus_STATE

/-- The broadcast state set. -/
def Dev.setBcastState (n : Nat) (d : Dev) : Dev := d.setFld .glBcastStatus F.glBcastStatus_STATE n

/-- The package's view of the broadcast changed. -/
def Dev.setBcast (b : Bcast) (d : Dev) : Dev := { d with bcast := b }

/-- One coordinate a step back: against direction 0 (+) or 1 (−) in a ring of size `n`. -/
def stepBack (n dir x : Nat) : Nat := if dir = 0 then (x + n - 1) % max n 1 else (x + 1) % max n 1

/-- R472: the package that precedes `t` on the route of R358 from the root. -/
def Dev.defaultParent (d : Dev) (root t : Nat) : Option Nat :=
  let nx := d.fld .fbTorusId F.fbTorusId_DX
  let ny := d.fld .fbTorusId F.fbTorusId_DY
  let nz := d.fld .fbTorusId F.fbTorusId_DZ
  let x := t % 32
  let y := t / 32 % 32
  let z := t / 1024
  match hopDir nz (root / 1024) z, hopDir ny (root / 32 % 32) y, hopDir nx (root % 32) x with
  | some s, _, _ => some (x + 32 * y + 1024 * stepBack nz s z)
  | none, some s, _ => some (x + 32 * stepBack ny s y + 1024 * z)
  | none, none, some s => some (stepBack nx s x + 32 * y + 1024 * z)
  | none, none, none => none

/-- The neighbours of this package. -/
def Dev.neighbours (d : Dev) : List Nat :=
  let nx := d.fld .fbTorusId F.fbTorusId_DX
  let ny := d.fld .fbTorusId F.fbTorusId_DY
  let nz := d.fld .fbTorusId F.fbTorusId_DZ
  let x := d.fld .fbTorusId F.fbTorusId_X
  let y := d.fld .fbTorusId F.fbTorusId_Y
  let z := d.fld .fbTorusId F.fbTorusId_Z
  ([stepBack nx 1 x + 32 * y + 1024 * z, stepBack nx 0 x + 32 * y + 1024 * z, x + 32 * stepBack ny 1 y + 1024 * z,
    x + 32 * stepBack ny 0 y + 1024 * z, x + 32 * y + 1024 * stepBack nz 1 z, x + 32 * y + 1024 * stepBack nz 0 z]).eraseDups

/-- R472: the children of this package. -/
def Dev.children (d : Dev) : List Nat :=
  let b := d.bcast
  let own := d.neighbours.filter (fun t => d.defaultParent b.root t == some d.torusId)
  (own ++ b.extra.filter (fun t => !own.contains t)).filter (fun t => !b.dropped.contains t)

/-- Something sent to every child. -/
def Dev.toChildren (f : Nat → Out) (d : Dev) : Dev := d.children.foldl (fun d c => d.emit (f c)) d

/-- The parent that GL_BCAST_STATUS names. -/
def Dev.parent (d : Dev) : Nat := d.fld .glBcastStatus F.glBcastStatus_PARENT

/-- The parent set, and PVALID. -/
def Dev.setParent (t : Nat) (d : Dev) : Dev :=
  (d.setFld .glBcastStatus F.glBcastStatus_PARENT t).setFld .glBcastStatus F.glBcastStatus_PVALID 1

/-- Chunks of the image stored so far, sent to one child from chunk 0 (R474, R476). -/
def Dev.sendAll (c : Nat) (d : Dev) : Dev :=
  (List.range d.bcast.chunks).foldl (fun d n => d.emit (.chunk c d.bcast.root d.bcast.size n)) d

/-- R475: the package's own count and those of its children that have acknowledged. -/
def Dev.bcastCount (d : Dev) : Nat :=
  b2n d.bcast.verified + d.children.foldl (fun a c => a + tget 0 c d.bcast.acks) 0

/-- R479: the end of a broadcast on the root. -/
def Dev.bcastEnd (st : Nat) (d : Dev) : Dev := ((d.setBcastState st).setFld .hlEvent F.hlEvent_BCAST 1).irq

/-- RESHAPE in the header of the root's image. -/
def Dev.reshapable (d : Dev) : Bool := bit (numAt (d.physRead d.imgAddr 256) 25 1) 0

/-- R475, R477: with its own verification ended and every child acknowledged or dropped, a package acknowledges to its parent, again
where its count has changed since; the root sends START, or ends the broadcast SHORT. -/
def Dev.bcastTry (d : Dev) : Dev :=
  let b := d.bcast
  let old := d.fld .glBcastStatus F.glBcastStatus_COUNT
  let n := d.bcastCount
  let st := d.bcastState
  let d := d.setFld .glBcastStatus F.glBcastStatus_COUNT n
  if !((b.verified || b.failedSelf) && d.children.all (fun c => thas c b.acks)) then d
  else if d.flag .glBcastStatus F.glBcastStatus_ROOT then
    if st ≠ 2 then d
    else
      let full := d.fld .fbTorusId F.fbTorusId_DX * d.fld .fbTorusId F.fbTorusId_DY * d.fld .fbTorusId F.fbTorusId_DZ
      if n = full ∨ d.reshapable then ((d.toChildren .bcastStart).bcastEnd 8).loadImage b.dirs else d.bcastEnd 9
  else if st = 6 ∨ st = 10 ∨ (st = 7 ∧ n ≠ old) then (d.setBcastState 7).emit (.bcastAck d.parent n)
  else d

/-- R471: the root's broadcast. -/
def Dev.bcastSend (banks : List (Nat × List (Nat × Nat × Nat))) (d : Dev) : Dev :=
  if !d.mayLoad then d
  else
    let r := Reg.glBcastStatus
    let d := (((d.setBcastState 1).setFld r F.glBcastStatus_ROOT 1).setFld r F.glBcastStatus_PVALID 0).setFld r
      F.glBcastStatus_COUNT 0
    match d.imgVerify with
    | .error e =>
      let s := Reg.glImgStatus
      let d := if e.1 = 10 then d.uncorrAll (d.badIn (d.imgAddr + e.2.2) 8) else d
      let d := ((d.setFld s F.glImgStatus_CODE e.1).setFld s F.glImgStatus_SECT e.2.1).setFld s F.glImgStatus_DETAIL e.2.2
      (d.setBcast { d.bcast with verified := false, chunks := 0 }).bcastEnd 10
    | .ok b =>
      let d := d.setBcast { d.bcast with
        chunks := (b.length + 65535) / 65536
        size := b.length
        root := d.torusId
        acks := []
        verified := true
        failedSelf := false
        startHeld := false
        dirs := banks }
      let d := d.setBcastState 2
      (d.children.foldl (fun d c => d.sendAll c) d).bcastTry

/-- SEND (R471): `banks` holds the directories of the image's routine bundles that verify. -/
def execBcastSend (req : Req) (banks : List (Nat × List (Nat × Nat × Nat))) (s : State) : Host.Outcome State Fault Refusal :=
  s.upd (Dev.guarded req .glBcastCtl (BitVec.ofNat 64 (1 + 256 * s.dev.fld .glBcastCtl F.glBcastCtl_TIMEOUT)) (Dev.bcastSend banks))

/-- Chunk 0: the reception begins; the parent is the default one unless a REPARENT named another (R472, R473). -/
def Dev.bcastBegin (root size : Nat) (d : Dev) : Dev :=
  let again := d.bcastState = 3 ∧ d.bcast.chunks = 0 ∧ d.bcast.resent = true
  let d := d.setBcast { d.bcast with
    chunks := 0
    size := size
    root := root
    acks := []
    resent := decide again
    verified := false
    failedSelf := false
    startHeld := false }
  let d := match d.bcast.reparent, d.defaultParent root d.torusId with
    | some p, _ => d.setParent p
    | none, some p => d.setParent p
    | none, none => d
  let r := Reg.glBcastStatus
  let d := ((d.setBcastState 3).setFld r F.glBcastStatus_ROOT 0).setFld r F.glBcastStatus_COUNT 0
  d.setFld .glImgAddr F.glImgAddr_ADDR (bcastBase / 4096)

/-- R474: the verification after the last chunk. -/
def Dev.bcastVerify (d : Dev) : Dev :=
  match d.imgVerify with
  | .ok _ => ((d.setBcast { d.bcast with verified := true }).setBcastState 6).bcastTry
  | .error e =>
    let d := if e.1 = 10 then d.uncorrAll (d.badIn (d.imgAddr + e.2.2) 8) else d
    if d.bcast.resent then ((d.setBcast { d.bcast with failedSelf := true }).setBcastState 10).bcastTry
    else (d.setBcast { d.bcast with resent := true, chunks := 0 }).emit (.bcastResend d.parent)

/-- A chunk that follows those received, with the bytes that its place holds. -/
def Dev.chunkFits (d : Dev) (root size n len : Nat) : Bool :=
  let st := d.bcastState
  let place := decide (0 < size) && decide (size ≤ 268435456) && decide (65536 * n < size) && len == min 65536 (size - 65536 * n)
  place && (if n = 0 then st != 2 && st != 1 && st != 5
    else st == 3 && d.bcast.root == root && d.bcast.size == size && d.bcast.chunks == n)

/-- R473: a chunk is stored and forwarded; after the last one the image is verified. -/
def Dev.chunkIn (root size n : Nat) (data : List Byte) (d : Dev) : Dev :=
  if !d.chunkFits root size n data.length then d
  else
    let d := if n = 0 then d.bcastBegin root size else d
    let d := d.storeStack (bcastBase + 65536 * n) data
    let d := (d.setBcast { d.bcast with chunks := n + 1 }).toChildren (fun c => .chunk c root size n)
    if size ≤ 65536 * (n + 1) then d.bcastVerify else d

/-- CHUNK_RECEIVE (R473, R474). -/
def execChunkReceive (root size n : Nat) (data : List Byte) (s : State) : Host.Outcome State Fault Refusal :=
  s.upd (Dev.chunkIn root size n data)

/-- The partial image is discarded, and the children are told (R476). -/
def Dev.bcastDiscard (d : Dev) : Dev :=
  (d.setBcast { d.bcast with chunks := 0, resent := false }).toChildren .bcastDiscard

/-- CHUNK_TIMEOUT (R476). -/
def execChunkTimeout (s : State) : Host.Outcome State Fault Refusal :=
  s.upd (fun d => if d.bcastState = 3 then d.bcastDiscard.setBcastState 5 else d)

/-- BROADCAST_ACKNOWLEDGEMENT (R475, R477). -/
def execBroadcastAcknowledgement (child count : Nat) (s : State) : Host.Outcome State Fault Refusal :=
  s.upd (fun d =>
    let st := d.bcastState
    if d.children.contains child ∧ (st = 2 ∨ st = 3 ∨ st = 6 ∨ st = 7 ∨ st = 10) then
      (d.setBcast { d.bcast with acks := tset child count d.bcast.acks }).bcastTry
    else d)

/-- BROADCAST_RESEND_REQUEST (R474). -/
def execBroadcastResendRequest (child : Nat) (s : State) : Host.Outcome State Fault Refusal :=
  s.upd (fun d =>
    if d.children.contains child then (d.setBcast { d.bcast with acks := tdel child d.bcast.acks }).sendAll child else d)

/-- BROADCAST_DISCARD_NOTICE (R476): the package keeps its parent and waits. -/
def execBroadcastDiscardNotice (s : State) : Host.Outcome State Fault Refusal :=
  s.upd (fun d => if d.bcastState = 3 then d.bcastDiscard.setBcastState 4 else d)

/-- R456: the image of a START that came before the lock is loaded. -/
def Dev.heldStart (d : Dev) : Dev :=
  if d.bcast.startHeld then (d.setBcast { d.bcast with startHeld := false }).loadImage d.bcast.dirs else d

/-- R478: START travels on, and a package that holds a verified image loads it. -/
def Dev.bcastGo (banks : List (Nat × List (Nat × Nat × Nat))) (d : Dev) : Dev :=
  let st := d.bcastState
  if d.flag .glBcastStatus F.glBcastStatus_ROOT || !(st == 6 || st == 7 || st == 10) then d
  else
    let d := d.toChildren .bcastStart
    if !d.bcast.verified then d
    else
      let d := (d.setBcastState 8).setBcast { d.bcast with dirs := banks }
      if d.flag .hlFeatCtl F.hlFeatCtl_LOCKED then d.loadImage banks else d.setBcast { d.bcast with startHeld := true }

/-- START (R478). -/
def execBcastStart (banks : List (Nat × List (Nat × Nat × Nat))) (s : State) : Host.Outcome State Fault Refusal :=
  s.upd (Dev.bcastGo banks)

/-! ## Changes to the tree (R472, R476) -/

/-- REPARENT. -/
def Dev.reparentTo (t : Nat) (d : Dev) : Dev :=
  let st := d.bcastState
  let d := if st = 3 ∨ st = 5 then d.bcastDiscard.setBcastState 4 else d
  (d.setBcast { d.bcast with reparent := some t }).setParent t

/-- ADD_CHILD, on a package that holds a verified image: the child is sent the whole image and waited for. -/
def Dev.addChildTo (t : Nat) (d : Dev) : Dev :=
  let b := d.bcast
  let d := d.setBcast { b with
    extra := if b.extra.contains t then b.extra else b.extra ++ [t]
    dropped := b.dropped.filter (· != t)
    acks := tdel t b.acks }
  (if d.bcastState = 7 then d.setBcastState 6 else d).sendAll t

/-- DROP_CHILD. -/
def Dev.dropChildOf (t : Nat) (d : Dev) : Dev :=
  let b := d.bcast
  (d.setBcast { b with
    extra := b.extra.filter (· != t)
    dropped := if b.dropped.contains t then b.dropped else b.dropped ++ [t]
    acks := tdel t b.acks }).bcastTry

end Sys2Proof.Machine
end

