-- ==== Sys2Proof/Machine/Bme.lean ====
section
/-! DEFINITION. The beside-memory engines (11): the update commands, their validation, checks and faults. -/

namespace Sys2Proof.Machine

/-! ## Parameters (R311) -/

/-- The fields of the two parameter blocks of a `bme.` command. -/
structure BmePar where
  w : Nat
  m : Nat
  ms : Nat
  v : Nat
  vs : Nat
  g : Nat
  gs : Nat
  c : Nat
  cs : Nat
  first : Nat
  count : Nat
  mfmt : Nat
  gfmt : Nat
  gscaled : Bool
  copy : Bool
  nest : Bool
  wd : Bool
  nomom : Bool
  localw : Bool
  rmm : Nat
  rmc : Nat
  laddr : Nat
  rows : Nat
  width : Nat
  lcount : Nat
  rs : Nat
  lstart : Nat
  eta : Nat
  lambda : Nat
  beta1 : Nat
  omb1 : Nat
  beta2 : Nat
  omb2 : Nat
  eps : Nat
  gmul : Nat
  step : Nat
  key : Nat
  ctr : Nat
  deriving DecidableEq, Repr

/-- The parameters of blocks `a` (PBLK) and `b` (PBLK + 1). -/
def bmePar (a b : List Word) : BmePar where
  w := expandPa (bits (wd a 0) 51 0)
  m := expandPa (bits (wd a 1) 51 0)
  ms := expandPa (bits (wd a 2) 51 0)
  v := expandPa (bits (wd a 3) 51 0)
  vs := expandPa (bits (wd a 4) 51 0)
  g := expandPa (bits (wd a 5) 51 0)
  gs := expandPa (bits (wd a 6) 51 0)
  c := expandPa (bits (wd a 7) 51 0)
  cs := expandPa (bits (wd a 8) 51 0)
  first := bits (wd a 9) 31 0
  count := bits (wd a 9) 63 32
  mfmt := bits (wd a 10) 3 0
  gfmt := bits (wd a 10) 7 4
  gscaled := bit (wd a 10) 8
  copy := bit (wd a 10) 9
  nest := bit (wd a 10) 10
  wd := bit (wd a 10) 11
  nomom := bit (wd a 10) 12
  localw := bit (wd a 10) 13
  rmm := bits (wd a 10) 18 16
  rmc := bits (wd a 10) 22 20
  laddr := expandPa (bits (wd a 11) 51 0)
  rows := bits (wd a 12) 31 0
  width := bits (wd a 12) 46 32
  lcount := bits (wd a 12) 60 48
  rs := expandPa (bits (wd a 13) 51 0)
  lstart := bits (wd a 14) 12 0
  eta := bits (wd b 0) 31 0
  lambda := bits (wd b 0) 63 32
  beta1 := bits (wd b 1) 31 0
  omb1 := bits (wd b 1) 63 32
  beta2 := bits (wd b 2) 31 0
  omb2 := bits (wd b 2) 63 32
  eps := bits (wd b 3) 31 0
  gmul := bits (wd b 3) 63 32
  step := bits (wd b 4) 31 0
  key := wd b 5 + wd b 6 * 2 ^ 64
  ctr := wd b 7 + wd b 8 * 2 ^ 64

/-- The command keeps a momentum or first moment (NOMOM is a flag of `bme.sgd`). -/
def BmePar.mom (rtn : Nat) (p : BmePar) : Bool := !(rtn == 0x500 && p.nomom)

/-- The bits of the first block's words that a command uses; every other bit is reserved. An address that a flag leaves without a use is
such a field (R311, R319); a rounding attribute or a coefficient is none (log entry 62). -/
def bmeMaskA (rtn : Nat) (p : BmePar) : List Nat :=
  let a (used : Bool) : Nat := if used then 2 ^ 52 - 1 else 0
  let cs := p.mfmt == 2
  let tensors := [a true, a (p.mom rtn), a (p.mom rtn && cs), a (rtn == 0x501), a (rtn == 0x501 && cs), a true, a p.gscaled, a p.copy,
    a p.copy]
  tensors ++ (match rtn with
    | 0x500 => [2 ^ 64 - 1, 0x773FFF, 0, 0, 0, 0, 0]
    | 0x501 => [2 ^ 64 - 1, 0x772BFF, 0, 0, 0, 0, 0]
    | _ => [0, 0x770BFF, a true, 0x1FFF7FFFFFFFFFFF, a true, 0x1FFF, 0])

/-- The same for the second block. -/
def bmeMaskB (rtn : Nat) : List Nat :=
  let f := 2 ^ 64 - 1
  let lo := 2 ^ 32 - 1
  match rtn with
  | 0x500 => [f, lo, 0, f - lo, 0, f, f, f, f, 0, 0, 0, 0, 0, 0, 0]
  | 0x501 => [f, f, f, f, lo, f, f, f, f, 0, 0, 0, 0, 0, 0, 0]
  | _ => [f, f, f, f, 0, f, f, f, f, 0, 0, 0, 0, 0, 0, 0]

/-- Words with a bit outside their masks. -/
def maskBad (ws : List Word) (ms : List Nat) : Bool :=
  (List.zipWith (fun (w : Word) m => w.toNat &&& m != w.toNat) ws ms).any id

/-- R329, order 1. -/
def bmeParamBad (rtn : Nat) (a b : List Word) (p : BmePar) : Bool :=
  maskBad a (bmeMaskA rtn p) || maskBad b (bmeMaskB rtn) ||
    !(p.mfmt == 1 || p.mfmt == 2) || !(p.gfmt == 1 || p.gfmt == 2) || (p.gscaled && p.gfmt == 1) ||
    decide (5 < p.rmm) || decide (5 < p.rmc) || (p.rmm == 5 && (p.mfmt == 1 || !p.mom rtn)) || (p.rmc == 5 && !p.copy) ||
    (if rtn == 0x502 then
      decide (p.width < 32) || decide (16384 < p.width) || p.width % 32 != 0 || p.lcount == 0 || decide (4096 < p.lcount) ||
        decide (p.lcount ≤ p.lstart)
     else p.count == 0 || decide (2 ^ 32 < p.first + p.count) || (rtn == 0x501 && p.step == 0))

/-- Bytes of an element of a moment or gradient format. -/
def bmeBytes (fmt : Nat) : Nat := if fmt = 1 then 4 else 2

/-- The tensors that a command uses: base, alignment (R312), offset and length of the bytes it touches. -/
def bmeAreas (rtn : Nat) (p : BmePar) : List (Nat × Nat × Nat × Nat) :=
  let row := rtn == 0x502
  let f := if row then 0 else p.first
  let n := if row then p.rows * (p.width / 32) else p.count
  let gf := if row then 0 else p.first
  let gn := if row then p.lcount * (p.width / 32) else p.count
  let mb := 32 * bmeBytes p.mfmt
  let gb := 32 * bmeBytes p.gfmt
  let t (on : Bool) (base al f n k : Nat) : List (Nat × Nat × Nat × Nat) := if on then [(base, al, f * k, n * k)] else []
  let mom := p.mom rtn
  t true p.w 128 f n 128 ++ t mom p.m mb f n mb ++ t (mom && p.mfmt == 2) p.ms 1 f n 1 ++
    t (rtn == 0x501) p.v mb f n mb ++ t (rtn == 0x501 && p.mfmt == 2) p.vs 1 f n 1 ++
    t true p.g gb gf gn gb ++ t p.gscaled p.gs 1 gf gn 1 ++ t p.copy p.c 32 f n 32 ++ t p.copy p.cs 1 f n 1 ++
    t row p.laddr 8 0 p.lcount 4 ++ t row p.rs 8 0 p.rows 8

/-- Two ranges share a byte. -/
def rangesMeet (a b : Nat × Nat × Nat × Nat) : Bool :=
  let (x, _, xo, xn) := a
  let (y, _, yo, yn) := b
  decide (x + xo < y + yo + yn) && decide (y + yo < x + xo + xn) && decide (0 < xn) && decide (0 < yn)

/-- Some two elements of a list are related. -/
def anyPair {α : Type} (f : α → α → Bool) : List α → Bool
  | [] => false
  | x :: t => t.any (f x) || anyPair f t

/-- The row index list. -/
def Dev.bmeList (d : Dev) (p : BmePar) : List Nat := (List.range p.lcount).map (fun j => ofBytes (d.memRead (p.laddr + 4 * j) 4))

/-- R329: the first failing status of a command, with its detail; zero if it is valid. -/
def Dev.bmeCheck (d : Dev) (rtn pblk : Nat) (a b : List Word) (p : BmePar) : Nat × Nat :=
  let as := bmeAreas rtn p
  if pblk = 511 ∨ bmeParamBad rtn a b p then (0x600, 0)
  else if as.any (fun x => x.1 % x.2.1 != 0) then (0x601, 0)
  else if as.any (fun x => decide (stackSize < x.1 + x.2.2.1 + x.2.2.2)) then (0x602, 0xFFFFFFFF)
  else
    match (if rtn = 0x502 then (d.bmeList p).findIdx? (fun r => decide (p.rows ≤ r)) else none) with
    | some j => (0x602, j)
    | none => if anyPair rangesMeet as then (0x603, 0) else (0, 0)

/-! ## Elements and blocks (R312, R314, R318, R319) -/

/-- R314: an element read into binary32, with the flags of the conversion. -/
def bmeRead (fmt S code : Nat) : FRes :=
  if fmt = 1 then ⟨code, 0⟩
  else match shortOf 2 with
    | some F => F.toLong f32 0 S code
    | none => ⟨code, 0⟩

/-- Block `b` of a tensor read into binary32. -/
def Dev.bmeBlock (d : Dev) (base sbase fmt : Nat) (scaled : Bool) (b : Nat) : List FRes :=
  let k := bmeBytes fmt
  let S := if fmt = 2 ∧ scaled then (d.memByte (sbase + b)).toNat else 127
  (List.range 32).map (fun i => bmeRead fmt S (ofBytes (d.memRead (base + (32 * b + i) * k) k)))

/-- What a computation has written and the flags it has raised. -/
structure BmeOut where
  wr : List Wr
  flags : Nat
  deriving DecidableEq, Repr

/-- The OR of the flags of results. -/
def orFlags (rs : List FRes) : Nat := rs.foldl (fun a r => a ||| r.flags) 0

/-- R318, R319, R325: 32 binary32 values written to block `b` of a short-format output, with its new scale. -/
def bmeShort (fmt rm key ctr base sbase b : Nat) (xs : List Nat) : BmeOut :=
  match shortOf fmt with
  | none => ⟨[], 0⟩
  | some F =>
    let vs := xs.map f32.dec
    let S := scaleOf F vs
    let rs := vs.zipIdx.map (fun p => F.enc rm S (cgWord key ctr p.2) p.1)
    let n := fmtBytes fmt 32
    ⟨[⟨.phys, base + b * n, packCodes fmt (rs.map FRes.code)⟩, ⟨.phys, sbase + b, bytesOf 1 S⟩], orFlags rs⟩

/-- A moment block written in its format: `j` is its output number under R325. -/
def bmeMoment (p : BmePar) (base sbase j b : Nat) (xs : List Nat) : BmeOut :=
  if p.mfmt = 1 then ⟨[⟨.phys, base + b * 128, packCodes 1 xs⟩], 0⟩
  else bmeShort 2 p.rmm p.key ((p.ctr + 24 * b + 8 * j) % 2 ^ 128) base sbase b xs

/-- The inference copy of a block (R319). -/
def bmeCopy (p : BmePar) (b : Nat) (xs : List Nat) : BmeOut :=
  if p.copy then bmeShort 3 p.rmc p.key ((p.ctr + 24 * b + 16) % 2 ^ 128) p.c p.cs b xs else ⟨[], 0⟩

/-- A block written back: master, moments that the command has, copy. -/
def bmeBack (p : BmePar) (b : Nat) (w : List Nat) (m v : Option (List Nat)) : BmeOut :=
  let x := match m with
    | some xs => bmeMoment p p.m p.ms 0 b xs
    | none => ⟨[], 0⟩
  let y := match v with
    | some xs => bmeMoment p p.v p.vs 1 b xs
    | none => ⟨[], 0⟩
  let z := bmeCopy p b w
  ⟨⟨.phys, p.w + b * 128, packCodes 1 w⟩ :: x.wr ++ y.wr ++ z.wr, x.flags ||| y.flags ||| z.flags⟩

/-- 1.0 in binary32. -/
def one32 : Nat := 0x3F800000

/-! ## The updates (R315 to R317, R322) -/

/-- R315: `bme.sgd` for one element: the new weight and momentum, and flags. -/
def sgdElem (p : BmePar) (w m g : Nat) : Nat × Nat × Nat :=
  let a := f32.mul 0 p.gmul g
  let b := if p.wd then f32.fma 0 p.lambda w a.code else ⟨a.code, 0⟩
  let c := if p.nomom then ⟨b.code, 0⟩ else f32.fma 0 p.beta1 m b.code
  let e := if p.nest then f32.fma 0 p.beta1 c.code b.code else ⟨c.code, 0⟩
  let x := f32.fma 0 (f32.negc p.eta) e.code w
  (x.code, c.code, orFlags [a, b, c, e, x])

/-- R316: the loop of bpow from bit `j` on, with `n` bits left: r, p and flags. -/
def bpowFrom (t : Nat) : Nat → Nat → Nat → Nat → Nat → Nat × Nat
  | 0, _, r, _, fl => (r, fl)
  | n + 1, j, r, q, fl =>
    let x := if bit t j then f32.mul 0 r q else ⟨r, 0⟩
    let y := f32.mul 0 q q
    bpowFrom t n (j + 1) x.code y.code (fl ||| x.flags ||| y.flags)

/-- R316: a bias correction 1 − bpow(beta, t) and the flags raised. -/
def biasCorr (beta t : Nat) : FRes :=
  let r := bpowFrom t 32 0 one32 beta 0
  let x := f32.sub 0 one32 r.1
  ⟨x.code, r.2 ||| x.flags⟩

/-- The tail that both Adam forms share: u from the moment and the divisor, the weight decay, and the new weight. -/
def adamTail (p : BmePar) (w m c1 dn : Nat) : Nat × Nat :=
  let a := f32.div 0 m c1
  let b := f32.div 0 a.code dn
  let u := if p.wd then f32.fma 0 p.lambda w b.code else ⟨b.code, 0⟩
  let x := f32.fma 0 (f32.negc p.eta) u.code w
  (x.code, orFlags [a, b, u, x])

/-- R317: `bme.adamw` for one element: the new weight, first and second moment, and flags. -/
def adamElem (p : BmePar) (c1 c2 w m v g : Nat) : Nat × Nat × Nat × Nat :=
  let a := f32.mul 0 p.gmul g
  let a1 := f32.mul 0 p.omb1 a.code
  let m' := f32.fma 0 p.beta1 m a1.code
  let q := f32.mul 0 a.code a.code
  let a2 := f32.mul 0 p.omb2 q.code
  let v' := f32.fma 0 p.beta2 v a2.code
  let vh := f32.div 0 v'.code c2
  let s := f32.sqrt 0 vh.code
  let dn := f32.add 0 s.code p.eps
  let x := adamTail p w m'.code c1 dn.code
  (x.1, m'.code, v'.code, orFlags [a, a1, m', q, a2, v', vh, s, dn] ||| x.2)

/-- A NaN or an infinity. -/
def badF32 (c : Nat) : Bool := let v := f32.dec c; v.isNan || v.isInf

/-- One unit of a command: the place its DETAIL names, its writes, the flags it raises, whether its master has a non-finite value, and
what it reads. -/
structure BmeUnit where
  place : Nat
  wr : List Wr
  flags : Nat
  nonfin : Bool
  reads : List (Nat × Nat)
  deriving DecidableEq, Repr

/-- The read ranges of block `b` of a tensor and its scale byte. -/
def bmeReads (base sbase fmt : Nat) (scaled : Bool) (b : Nat) : List (Nat × Nat) :=
  let k := 32 * bmeBytes fmt
  (base + b * k, k) :: (if fmt = 2 ∧ scaled then [(sbase + b, 1)] else [])

/-- R315: block `b` of a `bme.sgd`. -/
def Dev.sgdBlock (d : Dev) (p : BmePar) (b : Nat) : BmeUnit :=
  let w := d.bmeBlock p.w 0 1 false b
  let m := if p.nomom then List.replicate 32 ⟨0, 0⟩ else d.bmeBlock p.m p.ms p.mfmt true b
  let g := d.bmeBlock p.g p.gs p.gfmt p.gscaled b
  let xs := List.zipWith (fun (x : FRes) (y : FRes × FRes) => sgdElem p x.code y.1.code y.2.code) w (m.zip g)
  let ws := xs.map (·.1)
  let o := bmeBack p b ws (if p.nomom then none else some (xs.map (·.2.1))) none
  ⟨b, o.wr, orFlags m ||| orFlags g ||| xs.foldl (fun a x => a ||| x.2.2) 0 ||| o.flags, ws.any badF32,
    bmeReads p.w 0 1 false b ++ (if p.nomom then [] else bmeReads p.m p.ms p.mfmt true b) ++
      bmeReads p.g p.gs p.gfmt p.gscaled b⟩

/-- R317: block `b` of a `bme.adamw`. -/
def Dev.adamBlock (d : Dev) (p : BmePar) (c1 c2 b : Nat) : BmeUnit :=
  let w := d.bmeBlock p.w 0 1 false b
  let m := d.bmeBlock p.m p.ms p.mfmt true b
  let v := d.bmeBlock p.v p.vs p.mfmt true b
  let g := d.bmeBlock p.g p.gs p.gfmt p.gscaled b
  let xs := List.zipWith (fun (x : FRes × FRes) (y : FRes × FRes) => adamElem p c1 c2 x.1.code x.2.code y.1.code y.2.code)
    (w.zip m) (v.zip g)
  let ws := xs.map (·.1)
  let o := bmeBack p b ws (some (xs.map (·.2.1))) (some (xs.map (·.2.2.1)))
  ⟨b, o.wr, orFlags m ||| orFlags v ||| orFlags g ||| xs.foldl (fun a x => a ||| x.2.2.2) 0 ||| o.flags, ws.any badF32,
    bmeReads p.w 0 1 false b ++ bmeReads p.m p.ms p.mfmt true b ++ bmeReads p.v p.vs p.mfmt true b ++
      bmeReads p.g p.gs p.gfmt p.gscaled b⟩

/-- R313: the blocks that a dense command processes on cove `cv`. -/
def Dev.bmeBlocks (d : Dev) (cv : Nat) (p : BmePar) : List Nat :=
  (addrs p.first p.count).filter (fun b => !p.localw || d.cove (p.w + b * 128) == cv)

/-- Gradient row `j` of the list. -/
def Dev.gradRow (d : Dev) (p : BmePar) (j : Nat) : List FRes :=
  (List.range (p.width / 32)).flatMap (fun k => d.bmeBlock p.g p.gs p.gfmt p.gscaled (j * (p.width / 32) + k))

/-- R321: the sum of gradient rows in list order, with flags. -/
def sumRows : List (List FRes) → List Nat × Nat
  | [] => ([], 0)
  | r :: t => t.foldl (fun acc x =>
      let ys := List.zipWith (fun a (b : FRes) => f32.add 0 a b.code) acc.1 x
      (ys.map FRes.code, acc.2 ||| orFlags x ||| orFlags ys)) (r.map FRes.code, orFlags r)

/-- R322: row `r`, first named at list position `pos`; `js` are the list positions that name it. -/
def Dev.rowUnit (d : Dev) (p : BmePar) (r pos : Nat) (js : List Nat) : BmeUnit :=
  let nb := p.width / 32
  let bs := addrs (r * nb) nb
  let st := ofBytes (d.memRead (p.rs + 8 * r) 8)
  let n0 := st / 2 ^ 32
  let n := if n0 < 0xFFFFFFFF then n0 + 1 else n0
  let gsum := sumRows (js.map (d.gradRow p))
  let gq := gsum.1.foldl (fun (acc : List Nat × Nat × Nat) x =>
    let a := f32.mul 0 p.gmul x
    let q := f32.fma 0 a.code a.code acc.2.1
    (a.code :: acc.1, q.code, acc.2.2 ||| a.flags ||| q.flags)) ([], 0, 0)
  let g := gq.1.reverse
  let q := f32.div 0 gq.2.1 (cvtOfInt f32 0 p.width).code
  let a2 := f32.mul 0 p.omb2 q.code
  let v := f32.fma 0 p.beta2 (st % 2 ^ 32) a2.code
  let c1 := biasCorr p.beta1 n
  let c2 := biasCorr p.beta2 n
  let vh := f32.div 0 v.code c2.code
  let s := f32.sqrt 0 vh.code
  let dn := f32.add 0 s.code p.eps
  let blocks := bs.zipIdx.map (fun bi =>
    let w := d.bmeBlock p.w 0 1 false bi.1
    let m := d.bmeBlock p.m p.ms p.mfmt true bi.1
    let xs := List.zipWith (fun (x : FRes × FRes) gk =>
      let a1 := f32.mul 0 p.omb1 gk
      let m' := f32.fma 0 p.beta1 x.2.code a1.code
      let u := adamTail p x.1.code m'.code c1.code dn.code
      (u.1, m'.code, a1.flags ||| m'.flags ||| u.2)) (w.zip m) (((g.drop (32 * bi.2))).take 32)
    let ws := xs.map (·.1)
    let o := bmeBack p bi.1 ws (some (xs.map (·.2.1))) none
    (o.wr, orFlags m ||| xs.foldl (fun a x => a ||| x.2.2) 0 ||| o.flags, ws.any badF32))
  ⟨pos, blocks.flatMap (·.1) ++ [⟨.phys, p.rs + 8 * r, bytesOf 8 (v.code + n * 2 ^ 32)⟩],
    gsum.2 ||| gq.2.2 ||| orFlags [q, a2, v, c1, c2, vh, s, dn] ||| blocks.foldl (fun a x => a ||| x.2.1) 0,
    blocks.any (·.2.2),
    bs.flatMap (fun b => bmeReads p.w 0 1 false b ++ bmeReads p.m p.ms p.mfmt true b) ++ [(p.rs + 8 * r, 8)] ++
      js.flatMap (fun j => (p.laddr + 4 * j, 4) ::
        (List.range nb).flatMap (fun k => bmeReads p.g p.gs p.gfmt p.gscaled (j * nb + k)))⟩

/-- R321, R324: the distinct rows in order of first appearance at LSTART or later, with the positions that name each. -/
def bmeRows (list : List Nat) (lstart : Nat) : List (Nat × Nat × List Nat) :=
  (list.zipIdx.filter (fun p => decide (lstart ≤ p.2) && list.idxOf p.1 == p.2)).map (fun p =>
    (p.1, p.2, (list.zipIdx.filter (fun x => x.1 == p.1)).map (·.2)))

/-- R317: the bias corrections of `bme.adamw`, computed once. -/
def bmeCorr (p : BmePar) : FRes × FRes := (biasCorr p.beta1 p.step, biasCorr p.beta2 p.step)

/-- The flags that a command raises before its first unit. -/
def bmeBaseFlags (rtn : Nat) (p : BmePar) : Nat := if rtn = 0x501 then (bmeCorr p).1.flags ||| (bmeCorr p).2.flags else 0

/-- The units of a valid command, in order. -/
def Dev.bmeUnits (d : Dev) (rtn cv : Nat) (p : BmePar) : List BmeUnit :=
  match rtn with
  | 0x500 => (d.bmeBlocks cv p).map (d.sgdBlock p)
  | 0x501 => (d.bmeBlocks cv p).map (d.adamBlock p (bmeCorr p).1.code (bmeCorr p).2.code)
  | _ => (bmeRows (d.bmeList p) p.lstart).map (fun x => d.rowUnit p x.1 x.2.1 x.2.2)

/-- R321: the list entries that a command reads, whether or not LSTART leaves their rows out: position and address. -/
def bmeEntries (rtn : Nat) (p : BmePar) : List (Nat × Nat) :=
  if rtn = 0x502 then (List.range p.lcount).map (fun j => (j, p.laddr + 4 * j)) else []

/-! ## Running (R326, R330, R331) -/

/-- Units written: CV_BME_STATUS.DONE and the cove's counter. -/
def Dev.bmeWrite (q : Nat) (us : List (List Wr)) (d : Dev) : Dev :=
  let cv := d.qTarget q
  ((d.applyUnits (d.who q) us).bumpWrap (.cvBmeStatus cv) F.cvBmeStatus_DONE us.length).countCv cv 0x0C us.length

/-- A `bme.` command whose blocks are `a` and `b`; `bad` is the unit whose check fails. -/
def Dev.bmeRun (q rtn : Nat) (bad : Option Nat) (ws : List Word) (d : Dev) : Dev :=
  let cv := d.qTarget q
  let h := d.qHome q
  let a := d.paramBlock h (dPblk ws)
  let b := d.paramBlock h (dPblk ws + 1)
  let p := bmePar a b
  let d := d.setFld (.cvBmeStatus cv) F.cvBmeStatus_DONE 0
  let st := d.bmeCheck rtn (dPblk ws) a b p
  if st.1 ≠ 0 then d.finish q st.1 st.2
  else
    let us := d.bmeUnits rtn cv p
    let isBad (u : BmeUnit) : Bool := u.reads.any (fun r => !(d.badIn r.1 r.2).isEmpty)
    let part (u : BmeUnit) : List BadWord := u.wr.flatMap (fun w => d.badPart w.addr w.data.length)
    let ok := us.filter (fun u => !isBad u)
    let es := bmeEntries rtn p
    let hits := (us.filter (fun u => isBad u || !(part u).isEmpty)).map BmeUnit.place ++
      (es.filter (fun e => !(d.badIn e.2 4).isEmpty)).map (·.1)
    let words := (us.flatMap (fun u => u.reads.flatMap (fun r => d.badIn r.1 r.2) ++ part u) ++
      es.flatMap (fun e => d.badIn e.2 4)).eraseDups
    let d := (us.flatMap BmeUnit.reads).foldl (fun d r => d.touch ⟨2, 1⟩ false r.1 r.2) (d.uncorrAll words)
    let flags := ok.foldl (fun f u => f ||| u.flags) (bmeBaseFlags rtn p)
    let detail := min 65535 (ok.filter BmeUnit.nonfin).length + flags * 2 ^ 16
    let d := if hits.isEmpty then d.setRun q (fun r => { r with detail := detail })
      else d.setRun q (fun r => { r with status := stMemUncorr, detail := hits.foldl min 0xFFFFFFFF })
    let wr := ok.map BmeUnit.wr
    match firstFail none bad wr.length with
    | none => d.bmeWrite q wr
    | some f =>
      let n := d.newest q
      let d := d.bmeWrite q (wr.take f)
      let d := d.setRunN q n (fun r =>
        { r with retrying := true, retried := true, todo := wr.drop f, places := (ok.map BmeUnit.place).drop f })
      d.retryEvent (source 2 cv) 0 q n false

/-- R330: the re-execution: the units left are written, or a second failure ends the command with BME_CHECK. -/
def Dev.bmeReexecute (q : Nat) (bad : Option Nat) (d : Dev) : Dev :=
  match d.retryRun q with
  | none => d
  | some r =>
    match firstFail none bad r.todo.length with
    | some f =>
      (d.bmeWrite q (r.todo.take f)).setRunN q r.serial (fun r =>
        { r with retrying := false, todo := [], status := 0x604, detail := r.places.getD f 0 })
    | none => (d.bmeWrite q r.todo).setRunN q r.serial (fun r => { r with retrying := false, todo := [] })

/-- BME_SGD (R315). -/
def execBmeSgd (q : Nat) (bad : Silicon) (s : State) : Host.Outcome State Fault Refusal :=
  s.upd (Dev.startHit q 0x500 bad (Dev.bmeRun q 0x500 bad.unit))

/-- BME_ADAMW (R316, R317). -/
def execBmeAdamw (q : Nat) (bad : Silicon) (s : State) : Host.Outcome State Fault Refusal :=
  s.upd (Dev.startHit q 0x501 bad (Dev.bmeRun q 0x501 bad.unit))

/-- BME_ROWADA (R321 to R324). -/
def execBmeRowada (q : Nat) (bad : Silicon) (s : State) : Host.Outcome State Fault Refusal :=
  s.upd (Dev.startHit q 0x502 bad (Dev.bmeRun q 0x502 bad.unit))

end Sys2Proof.Machine
end

