-- ==== Sys2Proof/Machine/Collective.lean ====
section
/-! DEFINITION. Collectives (13): groups, segments and streams, the order of a reduction, chains of triggered operations, failure. -/

namespace Sys2Proof.Machine

/-! ## Groups (R370, R371) -/

/-- Machine dimension of axis 0 X, 1 Y, 2 Z (12 R356). -/
def Dev.axisDim (d : Dev) (a : Nat) : Nat :=
  match a with
  | 0 => d.fld .fbTorusId F.fbTorusId_DX
  | 1 => d.fld .fbTorusId F.fbTorusId_DY
  | _ => d.fld .fbTorusId F.fbTorusId_DZ

/-- The coordinate of a torus identifier on an axis. -/
def torusCoord (t a : Nat) : Nat :=
  match a with
  | 0 => t % 32
  | 1 => t / 32 % 32
  | _ => t / 1024 % 16

/-- A group's origin on an axis. -/
def Dev.grpOrigin (d : Dev) (g a : Nat) : Nat :=
  match a with
  | 0 => d.fld (.fbGroup g) F.fbGroup_OX
  | 1 => d.fld (.fbGroup g) F.fbGroup_OY
  | _ => d.fld (.fbGroup g) F.fbGroup_OZ

/-- A group's extent on an axis. -/
def Dev.grpExt (d : Dev) (g a : Nat) : Nat :=
  match a with
  | 0 => d.fld (.fbGroup g) F.fbGroup_EX
  | 1 => d.fld (.fbGroup g) F.fbGroup_EY
  | _ => d.fld (.fbGroup g) F.fbGroup_EZ

/-- An axis of the group's AXES. -/
def Dev.grpAxis (d : Dev) (g a : Nat) : Bool := bit (d.fld (.fbGroup g) F.fbGroup_AXES) a

/-- R370: the position of a torus identifier on an axis. -/
def Dev.grpPos (d : Dev) (g t a : Nat) : Nat :=
  let n := max (d.axisDim a) 1
  (torusCoord t a + n - d.grpOrigin g a % n) % n

/-- R370: a torus identifier belongs to the group. -/
def Dev.grpMember (d : Dev) (g t : Nat) : Bool := (List.range 3).all (fun a => decide (d.grpPos g t a < d.grpExt g a))

/-- R370: two identifiers lie in one instance. -/
def Dev.sameInstance (d : Dev) (g t u : Nat) : Bool :=
  (List.range 3).all (fun a => d.grpAxis g a || torusCoord t a == torusCoord u a)

/-- R371: the axes that are run: in AXES, with an extent above 1. -/
def Dev.grpAxes (d : Dev) (g : Nat) : List Nat :=
  (List.range 3).filter (fun a => d.grpAxis g a && decide (1 < d.grpExt g a))

/-- This package's ring position on an axis. -/
def Dev.myPos (d : Dev) (g a : Nat) : Nat := d.grpPos g d.torusId a

/-- The identifier of the instance's member at position `p` on axis `a` of this package's ring. -/
def Dev.ringMember (d : Dev) (g a p : Nat) : Nat :=
  let x := (d.grpOrigin g a + p) % max (d.axisDim a) 1
  match a with
  | 0 => d.torusId / 32 * 32 + x
  | 1 => d.torusId % 32 + x * 32 + d.torusId / 1024 * 1024
  | _ => d.torusId % 1024 + x * 1024

/-- R376, R381: the position `k` steps along a stream's direction from `p` on a ring of `e`; `back` goes against it. -/
def ringStep (e stream p k : Nat) (back : Bool) : Nat :=
  if (stream % 2 == 0) != back then (p + k) % max e 1 else (p + (max e 1) - k % max e 1) % max e 1

/-- Steps along a stream's direction from position `p` to position `q`. -/
def ringDist (e stream p q : Nat) : Nat :=
  if stream % 2 = 0 then (q + max e 1 - p % max e 1) % max e 1 else (p + max e 1 - q % max e 1) % max e 1

/-! ## Streams, chunks and owners (R376, R378) -/

/-- Bytes of a segment. -/
def segSize : Nat := 2097152

/-- R380: element size. -/
def rtSize (t : Nat) : Nat := if t = 1 ∨ t = 2 ∨ t = 3 ∨ (8 ≤ t ∧ t ≤ 11) then 4 else 8

/-- The element size of a collective: 1 where it has none (`fb.bcast`, `fb.barrier`). -/
def Coll.es (c : Coll) : Nat := if c.routine ≤ 0x612 then rtSize c.rtype else 1

/-- Bytes of segment `seg`. -/
def Coll.segBytes (c : Coll) (seg : Nat) : Nat := min segSize (c.bytes - seg * segSize)

/-- Segments of a collective; a barrier runs one of no bytes. -/
def Coll.segs (c : Coll) : Nat := if c.routine = 0x614 then 1 else (c.bytes + segSize - 1) / segSize

/-- Bytes of stream `k` in a segment of `n` bytes. -/
def streamBytes (n k : Nat) : Nat := n / 1024 * 256 + min 256 (n % 1024 - 256 * k)

/-- Offset in the segment of byte `b` of stream `k`. -/
def streamOff (k b : Nat) : Nat := b / 256 * 1024 + k * 256 + b % 256

/-- R378: the elements `lo` to `hi` of chunk `p` of `e`. -/
def chunkRange (r : Nat × Nat) (e p : Nat) : Nat × Nat :=
  (r.1 + p * (r.2 - r.1) / max e 1, r.1 + (p + 1) * (r.2 - r.1) / max e 1)

/-- R378: the range that this package holds of `n` elements after the axes given. -/
def Dev.ownRange (d : Dev) (g n : Nat) (axes : List Nat) : Nat × Nat :=
  axes.foldl (fun r a => chunkRange r (d.grpExt g a) (d.myPos g a)) (0, n)

/-- The byte range within stream `k` of chunk `p` of axis `a`; a broadcast moves the whole stream. -/
def Dev.chunkBytes (d : Dev) (c : Coll) (seg k a p : Nat) : Nat × Nat :=
  let n := streamBytes (c.segBytes seg) k
  if c.routine = 0x613 then (0, n)
  else
    let r := d.ownRange c.group (n / c.es) ((d.grpAxes c.group).takeWhile (· != a))
    let s := chunkRange r (d.grpExt c.group a) p
    (s.1 * c.es, s.2 * c.es)

/-- A phase of a collective's chains: an axis, and whether it gathers (all-gather or broadcast) instead of reducing. -/
structure RPhase where
  axis : Nat
  gather : Bool
  deriving DecidableEq, Repr

/-- R379, R385: the phases in turn. -/
def Dev.phasesOf (d : Dev) (c : Coll) : List RPhase :=
  let ax := d.grpAxes c.group
  let rs := ax.map (fun a => (⟨a, false⟩ : RPhase))
  let ag := ax.reverse.map (fun a => (⟨a, true⟩ : RPhase))
  match c.routine with
  | 0x610 => rs ++ ag
  | 0x611 => rs
  | 0x612 => ag
  | 0x613 => ax.map (fun a => (⟨a, true⟩ : RPhase))
  | _ => rs

/-! ## The order of a reduction (R380, R381) -/

/-- R380: `a ⊕ b` and its IEEE flags. -/
def combine (t a b : Nat) : Nat × Nat :=
  let w := 8 * rtSize t
  let F := if rtSize t = 8 then f64 else f32
  let r (x : FRes) : Nat × Nat := (x.code, x.flags)
  match t with
  | 0 | 1 => r (F.add 0 a b)
  | 2 | 4 => ((a + b) % 2 ^ w, 0)
  | 3 | 5 => (scode w (max (-(2 ^ (w - 1) : Nat) : Int) (min ((2 ^ (w - 1) : Nat) - 1 : Int) (sval w a + sval w b))), 0)
  | 6 | 8 => r (F.minmax false a b)
  | 7 | 9 => r (F.minmax true a b)
  | 10 | 12 => (if sval w b < sval w a then b else a, 0)
  | _ => (if sval w a < sval w b then b else a, 0)

/-- A received part combined with this member's own input, element by element; the OR of the flags. -/
def combineAll (t : Nat) (xs ys : List Byte) : List Byte × Nat :=
  let n := rtSize t
  let rs := (List.range (ys.length / n)).map (fun i => combine t (numAt xs (n * i) n) (numAt ys (n * i) n))
  (rs.flatMap (fun r => bytesOf n r.1), rs.foldl (fun f r => f ||| r.2) 0)

/-! ## Access to SRC and DST -/

/-- What a read comes to: the bytes and the uncorrectable words met, or status and detail of a fault. -/
abbrev ReadRes := Dev × Except (Nat × Nat) (List Byte × List BadWord)

/-- 12 R361, 10 R303: the root that a collective translates through, that of its queue's home core when it started. -/
def Dev.collRoot (d : Dev) (c : Coll) : Nat :=
  match d.runN c.queue c.serial with
  | some r => r.root
  | none => d.rootOf (d.qHome c.queue)

/-- Reads runs of stream `k` of segment `seg` of the buffer at `base`. -/
def Dev.streamRead (c : Coll) (base seg k : Nat) : List (Nat × Nat) → Dev → ReadRes
  | [], d => (d, .ok ([], []))
  | (b, n) :: t, d =>
    let va := (base + seg * segSize + streamOff k b) % 2 ^ 64
    match d.vaPieces (d.collRoot c) va false 2 n with
    | .error e => (d, .error (stAddrFault, e * 2 ^ 28))
    | .ok ps =>
      let bad := d.tableBad (d.collRoot c) va n ++ ps.flatMap (fun p => d.badIn p.1 p.2)
      let r := d.pullPieces none ps
      match Dev.streamRead c base seg k t r.1 with
      | (d, .error e) => (d, .error e)
      | (d, .ok x) => (d, .ok (r.2 ++ x.1, bad ++ x.2))

/-- Writes bytes over runs of a stream; status and detail of a fault. Numbers of packets to other packages are noted (R387, 12 R351). -/
def Dev.streamWrite (c : Coll) (seg k : Nat) : List (Nat × Nat) → List Byte → Dev → Except (Nat × Nat) Dev
  | [], _, d => .ok d
  | (b, n) :: t, bs, d =>
    match d.vaPieces (d.collRoot c) ((c.dst + seg * segSize + streamOff k b) % 2 ^ 64) true 2 n with
    | .error e => .error (stAddrFault, e * 2 ^ 28)
    | .ok ps =>
      Dev.streamWrite c seg k t (bs.drop n) ((d.storePieces (d.who c.queue) ps bs).noteDsts c.queue c.serial d.fabric.seqTx)

/-- The runs of a byte range within units of 256. -/
def unitRuns (r : Nat × Nat) : List (Nat × Nat) := cut256 ((r.2 - r.1) / 256 + 2) r.1 (r.2 - r.1)

/-! ## Group status, the end of a collective (R387, R389, R390) -/

/-- The collective of a group with a sequence number. -/
def Dev.collOf (d : Dev) (g n : Nat) : Option Coll := d.fabric.colls.find? (fun c => c.group == g && c.seq == n)

/-- The list of running collectives changed. -/
def Dev.setColls (cs : List Coll) (d : Dev) : Dev := { d with fabric := { d.fabric with colls := cs } }

/-- One running collective changed. -/
def Dev.setColl (c : Coll) (d : Dev) : Dev :=
  d.setColls (d.fabric.colls.map (fun x => if x.group = c.group ∧ x.seq = c.seq then c else x))

/-- STATE follows the running collectives, and the registers of both dies the resources held (R383). -/
def Dev.collStatus (g : Nat) (d : Dev) : Dev :=
  let r := Reg.fbGstat g
  let run := d.fabric.colls.any (fun c => c.group == g)
  let d := if d.fld r F.fbGstat_STATE = 2 then d else d.setFld r F.fbGstat_STATE (b2n run)
  (List.range 2).foldl (fun d f =>
    let segs (c : Coll) : Nat := (((c.chains.filter (fun x => x.stream / 2 == f)).map (·.seg)).eraseDups).length
    let all := (d.fabric.colls.map segs).foldl (· + ·) 0
    let red := ((d.fabric.colls.filter (fun c => decide (c.routine ≤ 0x611))).map segs).foldl (· + ·) 0
    (d.setFld (.fbCollStatus f) F.fbCollStatus_RB_SEGS red).setFld (.fbCollStatus f) F.fbCollStatus_TC_FREE (2048 - 16 * all)) d

/-- R389, R390: every running collective of the group ends with a status (`first` for the one with sequence number `n`, FAILED for the
others), and the group is BROKEN with a cause; a group that is BROKEN keeps its cause. -/
def Dev.collBreak (g : Nat) (n : Option Nat) (status detail cause : Nat) (d : Dev) : Dev :=
  let r := Reg.fbGstat g
  let d : Dev := (d.fabric.colls.filter (fun c => c.group == g)).foldl (fun (d : Dev) c =>
    let mine := n == some c.seq
    d.finishN c.queue c.serial (if mine then status else stFailed) (if mine then detail else 0)) d
  let arrivals := d.fabric.arrivals.filter (fun m => m.group != g)
  let d : Dev := { d with fabric := { d.fabric with colls := d.fabric.colls.filter (fun c => c.group != g), arrivals := arrivals } }
  let d := if d.fld r F.fbGstat_STATE = 2 then d else (d.setFld r F.fbGstat_STATE 2).setFld r F.fbGstat_CAUSE cause
  d.collStatus g

/-- R389: a fault of this member's own command: it ends with its status and sends the token. -/
def Dev.collFault (c : Coll) (e : Nat × Nat) (cause : Nat) (d : Dev) : Dev :=
  (d.collBreak c.group (some c.seq) e.1 e.2 cause).emit (.abort c.group)

/-- R387: a collective with nothing left to admit or to do completes OK with the flags of its combines. -/
def Dev.collEnd (g n : Nat) (d : Dev) : Dev :=
  match d.collOf g n with
  | some c =>
    if c.segs ≤ c.next ∧ c.chains.isEmpty then
      let d := d.setColls (d.fabric.colls.filter (fun x => !(x.group == g && x.seq == n)))
      (d.finishN c.queue c.serial 0 c.flags).collStatus g
    else d.collStatus g
  | none => d.collStatus g

/-! ## Chains (R384, R385) -/

/-- A packet of a collective, cut from a chunk. -/
def collPkt (c : Coll) (x : Chain) (ph : RPhase) (chunk : Nat) (data : List Byte) (last : Bool) : CollPacket :=
  { group := c.group, cmd := c.routine, rtype := c.rtype, bytes := c.bytes, root := c.root, seq := c.seq, seg := x.seg,
    stream := x.stream, axis := ph.axis, phase := b2n ph.gather, chunk := chunk, data := data, last := last }

/-- R376, R377, R392: a packet leaves for the next position of its stream's ring, on its die's port in its direction or the other die's, or
waits where both are down. -/
def Dev.collSendOne (m : CollPacket) (d : Dev) : Dev :=
  let e := d.grpExt m.group m.axis
  let dst := d.ringMember m.group m.axis (ringStep e m.stream (d.myPos m.group m.axis) 1 false)
  match d.torusOut ⟨d.torusId, dst, 2, some m.stream, m.seq⟩ with
  | some p => d.emit (.coll p.1 p.2 dst m)
  | none => { d with fabric := { d.fabric with collWait := d.fabric.collWait ++ [(dst, m)] } }

/-- R377: a chunk leaves as packets of one unit or part; a chunk of no bytes as one empty packet. -/
def Dev.collSend (c : Coll) (x : Chain) (ph : RPhase) (chunk : Nat) (lo : Nat) (data : List Byte) (d : Dev) : Dev :=
  let rec go : List (Nat × Nat) → List Byte → Dev → Dev
    | [], _, d => d
    | (_, n) :: t, bs, d => go t (bs.drop n) (d.collSendOne (collPkt c x ph chunk (bs.take n) t.isEmpty))
  if data.isEmpty then d.collSendOne (collPkt c x ph chunk [] true) else go (unitRuns (lo, lo + data.length)) data d

/-- This member's input of chunk `p` in a reducing phase: SRC on the first axis, the reduce buffer later (R381). -/
def Dev.ownInput (d : Dev) (c : Coll) (x : Chain) (a p : Nat) : ReadRes :=
  let r := d.chunkBytes c x.seg x.stream a p
  if x.phase = 0 then d.streamRead c c.src x.seg x.stream (unitRuns r)
  else
    let base := (d.ownRange c.group (streamBytes (c.segBytes x.seg) x.stream / c.es)
      ((d.grpAxes c.group).takeWhile (· != a))).1 * c.es
    (d, .ok ((x.buf.drop (r.1 - base)).take (r.2 - r.1), []))

/-- The values that a gathering phase sends: DST, or the root's SRC. -/
def Dev.gatherInput (d : Dev) (c : Coll) (x : Chain) (a p : Nat) : ReadRes :=
  let r := d.chunkBytes c x.seg x.stream a p
  let base := if c.routine = 0x613 ∧ c.root = d.torusId then c.src else c.dst
  d.streamRead c base x.seg x.stream (unitRuns r)

/-- R385: in a broadcast, this package takes part in the phase of axis `a`: it agrees with the root on every later axis. -/
def Dev.bcastPart (d : Dev) (c : Coll) (a : Nat) : Bool :=
  (((d.grpAxes c.group).dropWhile (· != a)).drop 1).all (fun b => d.myPos c.group b == d.grpPos c.group c.root b)

/-- Arrivals that a gathering phase awaits: E − 1 chunks; in a broadcast one, or none at the root's position. -/
def Dev.gatherNeeds (d : Dev) (c : Coll) (a : Nat) : Nat :=
  if c.routine = 0x613 then b2n (d.bcastPart c a && d.myPos c.group a != d.grpPos c.group c.root a)
  else d.grpExt c.group a - 1

/-- The chunk that this member sends first in a gathering phase: its own, or in a broadcast the stream if it stands at the root's
position. -/
def Dev.gatherSends (d : Dev) (c : Coll) (a : Nat) : Option Nat :=
  if c.routine = 0x613 then
    (if d.bcastPart c a && d.myPos c.group a == d.grpPos c.group c.root a then some (d.myPos c.group a) else none)
  else some (d.myPos c.group a)

/-- What a chain step comes to: the package and the chain, or status and detail of a fault. -/
abbrev ChainRes := Dev × Except (Nat × Nat) (Chain × Nat)

/-- A read's bytes go to `f`; uncorrectable words are recorded and end the command. -/
def withRead (r : ReadRes) (f : List Byte → Dev → ChainRes) : ChainRes :=
  match r with
  | (d, .error e) => (d, .error e)
  | (d, .ok (bs, bad)) => if bad.isEmpty then f bs d else (d.uncorrAll bad.eraseDups, .error (stMemUncorr, 0))

/-- R384, step 1: a chain enters its phase and sends its first chunk; a gathering phase that needs nothing more is left at once, with
fuel for the phases. -/
def Dev.enterPhase (c : Coll) : Nat → Chain → Dev → ChainRes
  | 0, x, d => (d, .ok (x, 0))
  | n + 1, x, d =>
    match (d.phasesOf c)[x.phase]? with
    | none => (d, .ok (x, 0))
    | some ph =>
      let p := d.myPos c.group ph.axis
      if ph.gather then
        let next (d : Dev) : ChainRes :=
          if d.gatherNeeds c ph.axis ≤ tget 0 x.phase x.arr then Dev.enterPhase c n { x with phase := x.phase + 1, step := 0 } d
          else (d, .ok ({ x with step := 1 }, 0))
        match d.gatherSends c ph.axis with
        | some q =>
          withRead (d.gatherInput c x ph.axis q)
            (fun bs d => next (d.collSend c x ph q (d.chunkBytes c x.seg x.stream ph.axis q).1 bs))
        | none => next d
      else
        let q := ringStep (d.grpExt c.group ph.axis) x.stream p 1 true
        withRead (d.ownInput c x ph.axis q)
          (fun bs d => (d.collSend c x ph q (d.chunkBytes c x.seg x.stream ph.axis q).1 bs, .ok ({ x with step := 1 }, 0)))

/-- Phases of the longest collective, and one. -/
def phaseFuel : Nat := 7

/-- R384: the next operation of a chain in a reducing phase: combine the last part received with this member's input, and send it or,
at the final step, keep it as the input of the next axis or write it to DST. -/
def Dev.chainOp (c : Coll) (x : Chain) (ph : RPhase) (d : Dev) : ChainRes :=
  let e := d.grpExt c.group ph.axis
  let p := d.myPos c.group ph.axis
  let s := x.step + 1
  let q := ringStep e x.stream p s true
  let r := d.chunkBytes c x.seg x.stream ph.axis q
  withRead (d.ownInput c x ph.axis q) (fun own d =>
    let part := tget [] (x.phase, q) x.staged
    let res := combineAll c.rtype part own
    let x := { x with step := s, staged := tdel (x.phase, q) x.staged }
    if s < e then (d.collSend c x ph q r.1 res.1, .ok (x, res.2))
    else
      let y := { x with phase := x.phase + 1, step := 0, buf := res.1 }
      let done := match (d.phasesOf c)[y.phase]? with
        | some ph => ph.gather
        | none => true
      let go (d : Dev) : ChainRes :=
        match Dev.enterPhase c phaseFuel y d with
        | (d, .ok (z, f)) => (d, .ok (z, res.2 ||| f))
        | (d, .error e) => (d, .error e)
      if done && c.routine != 0x614 then
        match d.streamWrite c x.seg x.stream (unitRuns r) res.1 with
        | .ok d => go d
        | .error e => (d, .error e)
      else go d)

/-- A chain's result is put back: a chain past its last phase is over (its die counts the segment completed once both streams of the
die are); a fault ends the command (R389). -/
def chainPut (c : Coll) (r : ChainRes) : Dev :=
  match r with
  | (d, .error e) => d.collFault c e 2
  | (d, .ok (x, f)) =>
    match d.collOf c.group c.seq with
    | none => d
    | some c =>
      let ended := decide ((d.phasesOf c).length ≤ x.phase)
      let rest := c.chains.filter (fun y => !(y.seg == x.seg && y.stream == x.stream))
      let chains := if ended then rest
        else c.chains.map (fun y => if y.seg = x.seg ∧ y.stream = x.stream then x else y)
      let d := d.setColl { c with chains := chains, flags := c.flags ||| f }
      let f := x.stream / 2
      if ended && !(rest.any (fun y => y.seg == x.seg && y.stream / 2 == f)) then d.countFb f 0x55 1 else d

/-! ## Arrivals (R384, R385, R389) -/

/-- The place in the collective's phases of a packet's axis and kind. -/
def Dev.phaseIx (d : Dev) (c : Coll) (m : CollPacket) : Nat :=
  (d.phasesOf c).idxOf ⟨m.axis, m.phase != 0⟩

/-- A packet of an admitted segment: staged, or written to DST and forwarded, and counted with its chunk's last byte. -/
def Dev.collLand (c : Coll) (x : Chain) (m : CollPacket) (d : Dev) : Dev :=
  let i := d.phaseIx c m
  let had := tget [] (i, m.chunk) x.staged
  let arr := if m.last then tset i (tget 0 i x.arr + 1) x.arr else x.arr
  if m.phase = 0 then
    chainPut c (d, .ok ({ x with staged := tset (i, m.chunk) (had ++ m.data) x.staged, arr := arr }, 0))
  else
    let r := d.chunkBytes c x.seg x.stream m.axis m.chunk
    let lo := r.1 + had.length
    match d.streamWrite c x.seg x.stream (unitRuns (lo, lo + m.data.length)) m.data with
    | .error e => d.collFault c e 2
    | .ok d =>
      let e := d.grpExt c.group m.axis
      let hops := ringDist e x.stream m.chunk (d.myPos c.group m.axis)
      let d := if hops + 1 < e then d.collSendOne m else d
      let y := { x with
        staged := if m.last then tdel (i, m.chunk) x.staged else tset (i, m.chunk) (had ++ m.data) x.staged, arr := arr }
      if i = y.phase ∧ 0 < y.step ∧ d.gatherNeeds c m.axis ≤ tget 0 i y.arr then
        chainPut c (Dev.enterPhase c phaseFuel { y with phase := i + 1, step := 0 } d)
      else chainPut c (d, .ok (y, 0))

/-- R389: a packet's header agrees with this member's command. -/
def Coll.agrees (c : Coll) (m : CollPacket) : Bool :=
  c.routine == m.cmd && c.rtype == m.rtype && c.bytes == m.bytes && c.root == m.root

/-- A packet meets the collective it belongs to, waits for it, or belongs to none: a sequence number already passed is a mismatch for
the running command of the group. -/
def Dev.collMeet (m : CollPacket) (d : Dev) : Dev :=
  let r := Reg.fbGstat m.group
  if d.fld r F.fbGstat_STATE = 2 then d
  else
    match d.collOf m.group m.seq with
    | some c =>
      if !c.agrees m then d.collFault c (0x712, 0) 1
      else
        match c.chains.find? (fun x => x.seg == m.seg && x.stream == m.stream) with
        | some x => (d.collLand c x m).collEnd c.group c.seq
        | none => { d with fabric := { d.fabric with arrivals := d.fabric.arrivals ++ [m] } }
    | none =>
      if diff32 (d.fld r F.fbGstat_SEQ) m.seq = 0 ∨ 2 ^ 31 ≤ diff32 (d.fld r F.fbGstat_SEQ) m.seq then
        { d with fabric := { d.fabric with arrivals := d.fabric.arrivals ++ [m] } }
      else
        match d.fabric.colls.find? (fun c => c.group == m.group) with
        | some c => d.collFault c (0x712, 0) 1
        | none => d

/-- The packets that wait meet their collectives again. -/
def Dev.collRetry (d : Dev) : Dev :=
  let ms := d.fabric.arrivals
  ms.foldl (fun d m => d.collMeet m) { d with fabric := { d.fabric with arrivals := [] } }

/-- COLLECTIVE_PACKET_ARRIVAL (R384, R385, R389). -/
def execCollectivePacketArrival (m : CollPacket) (s : State) : Host.Outcome State Fault Refusal := s.upd (Dev.collMeet m)

/-! ## Admission (R383) -/

/-- Both dies can hold another segment. -/
def Dev.roomFor (d : Dev) (c : Coll) : Bool :=
  (List.range 2).all (fun f => decide (16 ≤ d.fld (.fbCollStatus f) F.fbCollStatus_TC_FREE) &&
    (decide (0x611 < c.routine) || decide (d.fld (.fbCollStatus f) F.fbCollStatus_RB_SEGS < 24)))

/-- A segment's four chains are set up and do their first operation; the root of a broadcast writes its own DST where it differs from
SRC, and a group of one member holds its result at once. -/
def Dev.openChains (c : Coll) (seg : Nat) (d : Dev) : Dev :=
  (List.range 4).foldl (fun d k =>
    match d.collOf c.group c.seq with
    | none => d
    | some c =>
      let x : Chain := ⟨seg, k, 0, 0, [], [], []⟩
      let all := unitRuns (0, streamBytes (c.segBytes seg) k)
      let own := if c.routine = 0x613 then c.root == d.torusId && c.src != c.dst
        else c.routine ≤ 0x611 && (d.grpAxes c.group).isEmpty
      let r : ChainRes := if own then
          withRead (d.streamRead c c.src seg k all) (fun bs d =>
            match d.streamWrite c seg k all bs with
            | .ok d => Dev.enterPhase c phaseFuel x d
            | .error e => (d, .error e))
        else Dev.enterPhase c phaseFuel x d
      chainPut c r) d

/-- The collective whose segment is next in start order. -/
def Dev.nextColl (d : Dev) : Option Coll := d.fabric.colls.find? (fun c => decide (c.next < c.segs))

/-- Segments of a collective that wait and have not been counted. -/
def Coll.uncounted (c : Coll) : Nat := c.segs - max c.next c.waited

/-- R383, R395: where the next segment cannot be admitted, it and every later one waits; each is counted once. -/
def Dev.admitWait (d : Dev) : Dev :=
  match d.nextColl with
  | none => d
  | some c =>
    if d.roomFor c then d
    else
      let n := (d.fabric.colls.map Coll.uncounted).foldl (· + ·) 0
      let d := d.setColls (d.fabric.colls.map (fun c => { c with waited := max c.waited c.segs }))
      (List.range 2).foldl (fun d f => (d.bump (.fbCollStatus f) F.fbCollStatus_ADMIT_WAIT n).countFb f 0x56 n) d

/-- R383: the next segment, in start order. -/
def Dev.admitSeg (d : Dev) : Dev :=
  match d.nextColl with
  | none => d
  | some c =>
    if d.roomFor c then
      let xs : List Chain := (List.range 4).map (fun k => ⟨c.next, k, 0, 0, [], [], []⟩)
      let d := (d.setColl { c with next := c.next + 1, chains := c.chains ++ xs }).openChains c c.next
      (d.collEnd c.group c.seq).collRetry
    else d.admitWait

/-- SEGMENT_ADMISSION (R383). -/
def execSegmentAdmission (s : State) : Host.Outcome State Fault Refusal := s.upd Dev.admitSeg

/-- 17 R480, R482, R487: the combine of a die fails its check `n` times: it is done again, and a second failure is a member fault. -/
def Dev.combineCheck (c : Coll) (x : Chain) (n : Nat) (d : Dev) : Dev × Bool :=
  if n = 0 ∨ 0x611 < c.routine ∨ d.flag .glChkCtl F.glChkCtl_MASK then (d, true)
  else
    let d := d.retryEvent (source 5 (x.stream / 2)) 0 c.queue c.serial false
    if n = 1 then (d, true) else (d.collFault c (stFailed, 0) 2, false)

/-- R384: the oldest chain of the group's stream and segment whose next operation's counter has reached its threshold does it. -/
def Dev.trigger (g seg stream fails : Nat) (d : Dev) : Dev :=
  let ready (c : Coll) (x : Chain) : Bool :=
    x.seg == seg && x.stream == stream &&
    (match (d.phasesOf c)[x.phase]? with
     | some ph => !ph.gather && decide (0 < x.step) && decide (x.step < d.grpExt g ph.axis) &&
        decide (x.step ≤ tget 0 x.phase x.arr)
     | none => false)
  match d.fabric.colls.find? (fun c => c.group == g && c.chains.any (ready c)) with
  | none => d
  | some c =>
    match c.chains.find? (ready c) with
    | none => d
    | some x =>
      match (d.phasesOf c)[x.phase]? with
      | none => d
      | some ph =>
        match d.combineCheck c x fails with
        | (d, true) => (chainPut c (d.chainOp c x ph)).collEnd c.group c.seq
        | (d, false) => d

/-- TRIGGERED_OPERATION (R384; 17 R480, R482). -/
def execTriggeredOperation (g seg : Nat) (x : Combine) (s : State) : Host.Outcome State Fault Refusal :=
  s.upd (Dev.trigger g seg x.stream x.fails)

/-- ABORT_TOKEN (R389): which of the causes CAUSE then holds is not stated (log entry 38). -/
def execAbortToken (g : Nat) (s : State) : Host.Outcome State Fault Refusal :=
  s.upd (fun d => { d with free := d.free + 1 }.collBreak (g % 64) none 0 0 ((Config.freeWord d.free).toNat % 4))

/-- FB_GSTAT_ABORT (R391). -/
def execFbGstatAbort (req : Req) (g : Nat) (s : State) : Host.Outcome State Fault Refusal :=
  s.upd (Dev.guarded req (.fbGstat g) (BitVec.ofNat 64 (2 ^ 40)) (fun d => d.collBreak g none 0 0 3))

/-- FB_GSTAT_RESET (R390). -/
def Dev.gstatReset (g : Nat) (d : Dev) : Dev :=
  let r := Reg.fbGstat g
  if d.fabric.colls.any (fun c => c.group == g) then d
  else ((d.setFld r F.fbGstat_STATE 0).setFld r F.fbGstat_SEQ 0).setFld r F.fbGstat_CAUSE 0

/-- FB_GSTAT_RESET. -/
def execFbGstatReset (req : Req) (g : Nat) (s : State) : Host.Outcome State Fault Refusal :=
  s.upd (Dev.guarded req (.fbGstat g) (BitVec.ofNat 64 (2 ^ 41)) (Dev.gstatReset g))

/-! ## Commands (R373, R374, R375, R390) -/

/-- COLL_PARAM_INVALID: the routine, and the words. -/
def collBad (rtn : Nat) (ws : List Word) : Bool :=
  let f := 2 ^ 64 - 1
  let n := bits (wd ws 2) 39 0
  let t := bits (wd ws 3) 11 8
  fbRsv ws [f, f, 2 ^ 40 - 1, 0x3FFF0F3F] ||
    (rtn != 0x612 && rtn != 0x614 && wd ws 0 % 64 != 0) || (rtn != 0x614 && (wd ws 1 % 64 != 0 || n == 0)) ||
    (rtn ≤ 0x612 && (decide (14 ≤ t) || n % rtSize t != 0)) || (rtn == 0x612 && wd ws 0 == wd ws 1)

/-- COLL_GROUP_INVALID. -/
def Dev.collGroupBad (d : Dev) (rtn g root : Nat) : Bool :=
  !d.flag (.fbGroup g) F.fbGroup_VALID || !d.grpMember g d.torusId ||
    (rtn == 0x613 && !(d.torusIn root && d.grpMember g root && d.sameInstance g root d.torusId))

/-- The start of a collective. -/
def Dev.collStart (q rtn : Nat) (d : Dev) : Dev :=
  let ws := d.runParams q
  let g := bits (wd ws 3) 5 0
  let root := bits (wd ws 3) 29 16
  if collBad rtn ws then d.finish q 0x710 0
  else if d.collGroupBad rtn g root then d.finish q 0x711 0
  else
    let n := d.fld (.fbGstat g) F.fbGstat_SEQ
    let d := d.setFld (.fbGstat g) F.fbGstat_SEQ (n + 1)
    if d.fld (.fbGstat g) F.fbGstat_STATE = 2 then d.finish q stFailed 0
    else
      let c : Coll := ⟨q, d.newest q, g, n, rtn, bits (wd ws 3) 11 8, root, bits (wd ws 2) 39 0, wd ws 0, wd ws 1, 0, 0, [], 0⟩
      let c := if rtn = 0x614 then { c with bytes := 0 } else c
      let d := d.setRun q (fun r => { r with done := false })
      ((d.setColls (d.fabric.colls ++ [c])).collStatus g).admitWait.collRetry

/-- FB_ALLREDUCE (R373, R379). -/
def execFbAllreduce (q : Nat) (s : State) : Host.Outcome State Fault Refusal :=
  s.upd (Dev.startCmd q 0x610 (fun _ => Dev.collStart q 0x610))

/-- FB_RSCAT (R378). -/
def execFbRscat (q : Nat) (s : State) : Host.Outcome State Fault Refusal :=
  s.upd (Dev.startCmd q 0x611 (fun _ => Dev.collStart q 0x611))

/-- FB_AGATHER (R385). -/
def execFbAgather (q : Nat) (s : State) : Host.Outcome State Fault Refusal :=
  s.upd (Dev.startCmd q 0x612 (fun _ => Dev.collStart q 0x612))

/-- FB_BCAST (R385). -/
def execFbBcast (q : Nat) (s : State) : Host.Outcome State Fault Refusal :=
  s.upd (Dev.startCmd q 0x613 (fun _ => Dev.collStart q 0x613))

/-- FB_BARRIER (R386). -/
def execFbBarrier (q : Nat) (s : State) : Host.Outcome State Fault Refusal :=
  s.upd (Dev.startCmd q 0x614 (fun _ => Dev.collStart q 0x614))

end Sys2Proof.Machine
end

