-- ==== Sys2Proof/Machine/Cove.lean ====
section
/-! DEFINITION. The coves (10 R273 to R293), the junction throttle (20 R558), translation invalidation (10 R303) and the far-tier
ports (10 R305, R308). -/

namespace Sys2Proof.Machine

/-! ## Accesses (R273 to R281, 16 R445) -/

/-- R279: the hint of an access by its source. -/
def coveHint : CoveSrc → Nat
  | .controlCore _ true h => h
  | .controlCore _ false _ => 1
  | .mover h _ => h
  | .host | .rack => 0
  | .delta | .plant | .bme | .folioBack | .folioCow => 1

/-- R279: the class of an access by its source: 0 urgent, 1 normal, 2 bulk. -/
def coveClass : CoveSrc → Nat
  | .mover _ p => p
  | .delta | .plant | .folioCow => 0
  | .host | .controlCore _ _ _ | .rack => 1
  | .bme | .folioBack => 2

/-- R279: class and hint of an access by its source. -/
def coveAccess (src : CoveSrc) : Access := ⟨coveClass src, coveHint src⟩

/-- R308: the port that keeps an access of a mover or control core out of its far-tier set. -/
def Dev.coveDown (d : Dev) (src : CoveSrc) (addr : Nat) : Option Nat :=
  match src with
  | .mover _ _ | .delta | .controlCore _ _ _ => d.farDown addr
  | _ => none

/-- 16 R446, R448: lines of a page in host bias are resolved with the host before a package agent is served, unless the host link is
down; dirty data that comes back is written. -/
def Dev.resolveHost (src : CoveSrc) (addr n : Nat) (dirty : List (Nat × List Byte)) (d : Dev) : Dev :=
  if src == .host || !d.hostLink then d
  else ((linesOf addr n).filter (fun l => d.bias.contains (l / 2097152))).foldl (fun d l =>
    let d := d.emit (.resolve l)
    match dirty.find? (fun x => x.1 == l) with
    | some x => d.storeStack l (sliceB x.2 0 64)
    | none => d) d

/-- COVE_ACCESS at a served address: the host is asked first where it must be, words in error are found first, a write goes through the cache before its bytes are stored, and a
read after its bytes are taken. -/
def Dev.coveServe (src : CoveSrc) (addr : Nat) (wr : Option (List Byte)) (len : Nat) (found : Found) (d : Dev) : Dev :=
  let v := d.lineCove addr
  let n := (wr.map List.length).getD len
  let host := src == .host
  if n = 0 ∨ (host && !d.hostLink) then d
  else match d.coveDown src addr with
  | some p => d.farDownEvent p
  | none =>
    let d := if src == .rack then d.countCv v 0x0D 1 else d
    let d := if host then d.countCn (if wr.isSome then 5 else 4) 1 else d
    let d := (d.resolveHost src addr n found.host).flawAt addr found.flaw
    match wr with
    | some bs => ((d.uncorrAll (d.badPart addr n)).store addr bs { acc := some (coveAccess src) }).settle
    | none =>
      let bad := d.badIn addr n
      let data := d.physRead addr n
      let d := ((d.uncorrAll bad).touch (coveAccess src) false addr n).settle
      if host then d.emit (.hostData addr data (!bad.isEmpty)) else d

/-- The bytes of the HDM range (16 R443); before any start-up the largest, 1 TiB. -/
def Dev.hdmSize (d : Dev) : Nat :=
  match d.boot with
  | some t => t.hdm * 0x10000000
  | none => 0x10000000000

/-- The address lies where a cove serves the source: the host reaches the HDM range only (16 R445). -/
def Dev.coveReach (d : Dev) (src : CoveSrc) (addr n : Nat) : Bool :=
  if src == .host then decide (addr + n ≤ d.hdmSize)
  else match d.locate addr with
    | .stack a => decide (a + n ≤ stackSize)
    | .far _ => true
    | _ => false

/-- COVE_ACCESS (R273): one access reaches its owning cove. -/
def execCoveAccess (src : CoveSrc) (addr : Nat) (wr : Option (List Byte)) (len : Nat) (found : Found) (s : State) :
    Host.Outcome State Fault Refusal :=
  if s.dev.coveReach src addr ((wr.map List.length).getD len) then s.upd (Dev.coveServe src addr wr len found)
  else .fault .noSuchAddress

/-- BULK_PROMOTION (R280): an access of the bulk class that has waited its cove's BULK_AGE; which access is served next changes no value
(R281; log entry 34). -/
def execBulkPromotion (w : BulkWait) (s : State) : Host.Outcome State Fault Refusal :=
  s.upd (fun d =>
    let age := d.fld (.cvPrio w.cove) F.cvPrio_BULK_AGE
    if 0 < age ∧ age ≤ w.wait then d.countCv w.cove 6 1 else d)

/-- R286: one word that the patrol of cove `v` reads, of its stack or of a line that its cache holds, and the end of a pass of the
stack, at which a new period applies. -/
def Dev.patrol (v addr : Nat) (flaw : Flaw) (passEnd : Bool) (d : Dev) : Dev :=
  let d :=
    if d.lineCove addr = v ∧ (addr < stackSize ∨ d.cache.any (fun y => y.addr == addr / 64 * 64)) then
      let d := d.flawAt addr flaw
      (d.uncorrAll (d.badIn (addr / 8 * 8) 8)).settle
    else d
  if passEnd then
    (d.reachReg (.cvScrub v)).bumpWrap (.cvScrub v) F.cvScrub_PASSES 1
  else d

/-- PATROL_SCRUB (R286). -/
def execPatrolScrub (v addr : Nat) (flaw : Flaw) (passEnd : Bool) (s : State) : Host.Outcome State Fault Refusal :=
  s.upd (Dev.patrol v addr flaw passEnd)

/-! ## Heat (R288 to R292, 20 R558) -/

/-- A stack's temperature, or a junction's, as a table gives the hottest. -/
def hottest (t : List (Nat × Nat)) : Nat := t.foldl (fun a p => max a p.2) 0

/-- STACK_TEMP_SAMPLE (R288, R292). -/
def execStackTempSample (v t0 t1 t2 t3 : Nat) (s : State) : Host.Outcome State Fault Refusal :=
  s.upd (fun d =>
    let t := max (max t0 t1) (max t2 t3)
    let d := { d with stackT := tset v t d.stackT }.setFld (.cvTherm v) F.cvTherm_TEMP (min t 255)
    let d := d.setFld .glThermStatus F.glThermStatus_TS_MAX (min (hottest d.stackT) 255)
    if 98 ≤ t then d.fatal 0x21 else d)

/-- R288: the temperature below which a step is left. -/
def stepLeave (n : Nat) : Nat := match n with
  | 1 => 82
  | 2 => 86
  | 3 => 89
  | 4 => 92
  | _ => 0

/-- R288: the highest step whose entry temperature has been reached. -/
def stepFor (t : Nat) : Nat := if 95 ≤ t then 4 else if 92 ≤ t then 3 else if 89 ≤ t then 2 else if 85 ≤ t then 1 else 0

/-- R291: a step change is logged, sets STEP_EV, counts as a time choice and is reported. `jt` says that R558 caused it. -/
def Dev.setStep (v n : Nat) (jt : Bool) (d : Dev) : Dev :=
  let d := (d.setFld (.cvTherm v) F.cvTherm_STEP n).setFld (.cvTherm v) F.cvTherm_STEP_EV 1
  let x := n + d.fld (.cvTherm v) F.cvTherm_TEMP * 2 ^ 8 + min (tget 0 v d.junction) 255 * 2 ^ 16 + b2n jt * 2 ^ 24
  ((d.event (source 2 v) 0x21 x false).choiceTime 3).healthDue

/-- R288: one evaluation of cove `v`. -/
def Dev.evalStep (v : Nat) (jt : Bool) (d : Dev) : Dev :=
  let t := d.fld (.cvTherm v) F.cvTherm_TEMP
  let cur := d.fld (.cvTherm v) F.cvTherm_STEP
  if cur < stepFor t then d.setStep v (stepFor t) jt
  else if 0 < cur ∧ t < stepLeave cur then d.setStep v (cur - 1) jt
  else d

/-- STACK_THROTTLE_EVAL (R288, R291); the junction throttle holds step 4 (20 R558). -/
def execStackThrottleEval (v : Nat) (s : State) : Host.Outcome State Fault Refusal :=
  s.upd (fun d => if d.jhold.contains v then d else d.evalStep v false)

/-- JUNCTION_THROTTLE (20 R558): entry at 102 °C, exit when both sensors read below 98 °C. -/
def execJunctionThrottle (v j0 j1 : Nat) (s : State) : Host.Outcome State Fault Refusal :=
  s.upd (fun d =>
    let t := max j0 j1
    let d := { d with junction := tset v t d.junction }
    let d := d.setFld .glThermStatus F.glThermStatus_TJ_MAX (min (hottest d.junction) 255)
    if 102 ≤ t ∧ !d.jhold.contains v then
      let d := { d with jhold := v :: d.jhold }.setFld .glThermStatus F.glThermStatus_JT_EV 1
      if d.fld (.cvTherm v) F.cvTherm_STEP = 4 then d else d.setStep v 4 true
    else if t < 98 ∧ d.jhold.contains v then
      { d with jhold := d.jhold.filter (· != v) }.evalStep v true
    else d)

/-- DRAM_REFRESH (R288). -/
def execDramRefresh (v : Nat) (s : State) : Host.Outcome State Fault Refusal := s.upd (Dev.countCv v 9 1)

/-! ## Registers with an action -/

/-- R276: every protected line of cove `v` loses its protection. -/
def Dev.unkeepCove (v : Nat) (d : Dev) : Dev :=
  { d with cache := d.cache.map (fun y => if d.lineCove y.addr = v then { y with keep := false } else y) }

/-- UNKEEP (R276). -/
def execUnkeep (req : Req) (v : Nat) (s : State) : Host.Outcome State Fault Refusal :=
  s.upd (Dev.guarded req (.cvHintQuota v) 16 (Dev.unkeepCove v))

/-- XLAT_INV (R303): the model keeps no cached translation, so the invalidation ends at once and changes nothing (log entry 35). -/
def execXlatInv (req : Req) (u : XlatUnit) (s : State) : Host.Outcome State Fault Refusal :=
  s.upd (Dev.guarded req (match u with
    | .core c => .coreXlatInv c
    | .cc k => .ccXlatInv k) 1 (fun d => d))

/-! ## Far tier -/

/-- FAR_PORT_DOWN (R308): the port stays down until the next start-up. -/
def execFarPortDown (p : Nat) (s : State) : Host.Outcome State Fault Refusal :=
  s.upd (fun d =>
    if d.flag (.ftPort p) F.ftPort_UP then
      let d := (d.setFld (.ftPort p) F.ftPort_UP 0).setFld (.ftPort p) F.ftPort_DOWN_EV 1
      (d.event (source 7 p) 0x70 0 false).healthDue
    else d)

/-- FAR_TIER_AER_EVENT (R305). -/
def execFarTierAerEvent (p : Nat) (unc cor : BitVec 32) (s : State) : Host.Outcome State Fault Refusal :=
  s.upd (fun d => d.event (source 7 p) 0x71 (unc.toNat + cor.toNat * 2 ^ 32) false)

end Sys2Proof.Machine
end

