-- ==== Sys2Proof/Machine/Vector.lean ====
section
/-! DEFINITION. The vector engine (07) and the generator registers (03 R106). A vector command runs its routine instruction by
instruction: one VX row is the instruction that the engine reaches (log entry 31). -/

namespace Sys2Proof.Machine

/-! ## Registers (R176 to R179) -/

/-- The element width in bits of a W code. -/
def vxBits (w : Nat) : Nat := 8 * 2 ^ w

/-- The elements a register holds at a W code. -/
def vxCount (w : Nat) : Nat := 256 / 2 ^ w

/-- The `n` elements of `b` bits of a register's value, element 0 first. -/
def elemsOf (b n v : Nat) : List Nat := (List.range n).map (fun i => v / 2 ^ (b * i) % 2 ^ b)

/-- The value whose elements of `b` bits are given. -/
def ofElems (b : Nat) (xs : List Nat) : Nat := xs.foldr (fun x a => x % 2 ^ b + 2 ^ b * a) 0

/-- The value of vector register `n` of core `c`. -/
def Dev.vreg (d : Dev) (c n : Nat) : Nat := (tget 0 n (d.core c).vregs).toNat

/-- A vector register written whole. -/
def Dev.setVreg (c n v : Nat) (d : Dev) : Dev :=
  d.setCore c { d.core c with vregs := tset n (BitVec.ofNat 2048 v) (d.core c).vregs }

/-- The first elements of a vector register written, the rest kept. -/
def Dev.setElems (c n b : Nat) (xs : List Nat) (d : Dev) : Dev :=
  let m := 2 ^ (b * xs.length)
  d.setVreg c n (d.vreg c n / m * m + ofElems b xs)

/-- R177: a predicate register; p0 reads as all ones. -/
def Dev.pred (d : Dev) (c p : Nat) : Nat :=
  if p % 8 = 0 then 2 ^ 256 - 1 else (tget 0 (p % 8) (d.core c).preds).toNat

/-- R177: a predicate written; p0 ignores it. -/
def Dev.setPred (c p v : Nat) (d : Dev) : Dev :=
  if p % 8 = 0 then d else d.setCore c { d.core c with preds := tset (p % 8) (BitVec.ofNat 256 v) (d.core c).preds }

/-- A scalar register. -/
def Dev.scal (d : Dev) (c n : Nat) : Nat := (tget 0 (n % 16) (d.core c).scal).toNat

/-- A scalar register written. -/
def Dev.setScal (c n v : Nat) (d : Dev) : Dev :=
  d.setCore c { d.core c with scal := tset (n % 16) (BitVec.ofNat 64 v) (d.core c).scal }

/-- R80, R195: sticky flags. -/
def Dev.vxFlag (c fl : Nat) (d : Dev) : Dev :=
  if fl = 0 then d else d.setFld (.coreVxFlags c) F.coreVxFlags_IEEE (d.fld (.coreVxFlags c) F.coreVxFlags_IEEE ||| fl)

/-- The element positions and their governing bits. -/
def Dev.active (d : Dev) (c pg n : Nat) : List Bool := (List.range n).map (bit (d.pred c pg))

/-- R178: the elements written: a result where active, else zero or the old value. -/
def mergeElems (act : List Bool) (z : Bool) (old new : List Nat) : List Nat :=
  List.zipWith (fun (p : Bool × Nat) y => if p.1 then y else if z then 0 else p.2) (act.zip old) new

/-- The flags of the active results. -/
def activeFlags (act : List Bool) (rs : List FRes) : Nat :=
  (act.zip rs).foldl (fun a p => if p.1 then a ||| p.2.flags else a) 0

/-- A predicated result over the elements of `b` bits of register VD, with its flags. -/
def Dev.vxPut (c : Nat) (x : VxIns) (b : Nat) (rs : List FRes) (d : Dev) : Dev :=
  let act := d.active c x.pg rs.length
  let old := elemsOf b rs.length (d.vreg c x.vd)
  (d.setElems c x.vd b (mergeElems act x.z old (rs.map FRes.code))).vxFlag c (activeFlags act rs)

/-- R177, R178: a predicated predicate result; bits above the element count are cleared. -/
def Dev.vxPutPred (c : Nat) (x : VxIns) (rs : List (Bool × Nat)) (d : Dev) : Dev :=
  let act := d.active c x.pg rs.length
  let old := (List.range rs.length).map (fun i => b2n (bit (d.pred c x.vd) i))
  let new := mergeElems act x.z old (rs.map (fun r => b2n r.1))
  (d.setPred c x.vd (ofElems 1 new)).vxFlag c ((act.zip rs).foldl (fun a p => if p.1 then a ||| p.2.2 else a) 0)

/-! ## The routine -/

/-- The vector command that runs on core `c`: its queue and run. -/
def Dev.vxRun (d : Dev) (c : Nat) : Option (Nat × Run) :=
  d.queues.findSome? (fun p =>
    if d.qKind p.1 = 2 ∧ d.qTarget p.1 = c ∧ !d.thermHeld p.1 then
      (p.2.runs.find? (fun r => bankRoutine 2 (dRtn r.desc) && !r.done && !r.retrying)).map (fun r => (p.1, r))
    else none)

/-- 03 R104: the counter of the running command. -/
def Dev.rngCtr (d : Dev) (c : Nat) : Nat :=
  (d.core c).rngRun.getD ((d.rd (.coreRngCtr c 0)).toNat + (d.rd (.coreRngCtr c 1)).toNat * 2 ^ 64)

/-- The counter that a command has reached becomes the live one. -/
def Dev.rngFold (c : Nat) (d : Dev) : Dev :=
  let n := d.rngCtr c
  ((d.wr (.coreRngCtr c 0) (BitVec.ofNat 64 n)).wr (.coreRngCtr c 1) (BitVec.ofNat 64 (n / 2 ^ 64))).setCore c
    { d.core c with rngRun := none }

/-- 03 R106: held writes become live at the start of a vector command. -/
def Dev.rngStart (c : Nat) (d : Dev) : Dev :=
  let d := d.rngFold c
  let d := (d.core c).rngHeld.foldl (fun d p => d.wr p.1 p.2) d
  d.setCore c { d.core c with rngHeld := [] }

/-- The vector command of core `c` completes. -/
def Dev.vxFinish (c q n status detail : Nat) (d : Dev) : Dev :=
  (d.rngFold c).setRunN q n (fun r =>
    if status = 0 then { r with done := true } else { r with status := status, detail := detail, done := true })

/-- VECTOR_COMMAND (R180, R184; 03 R106): the routine starts at its first instruction. The unit of `bad` counts the checked instructions
before the one whose check fails (17 R480). A routine of the solver engine, whose microcode the spec does not describe, starts in the same way
and does nothing else (log entry 61). -/
def Dev.vectorStart (q : Nat) (bad : Silicon) (d : Dev) : Dev :=
  match d.headDesc q with
  | none => d
  | some hd =>
    if d.qKind q = 2 ∧ bankRoutine 2 (dRtn hd) then
      d.startHit q (dRtn hd) bad (fun _ d =>
        let c := d.qTarget q
        let d := d.rngStart c
        let d := d.setCore c { d.core c with vpc := 0, vloops := [], vskip := 0 }
        d.setRun q (fun r => { r with done := false, failAt := bad.unit }))
    else if d.qKind q = 1 ∧ bankRoutine 1 (dRtn hd) then d.startHit q (dRtn hd) bad (fun _ d => d)
    else d

/-- VECTOR_COMMAND. -/
def execVectorCommand (q : Nat) (bad : Silicon) (s : State) : Host.Outcome State Fault Refusal := s.upd (Dev.vectorStart q bad)

/-- R181: what every instruction must satisfy: no reserved bit, a rounding code in use, PG zero on memory and control. -/
def vxLegal (x : VxIns) (ctl stoch : Bool) : Bool :=
  x.rsv == 0 && decide (x.rm ≤ 5) && (stoch || x.rm != 5) && (!ctl || x.pg == 0)

/-- 17 R480 to R487: the check of an instruction of the running command fails: nothing is written, and the instruction is to be
executed again, or a second core command failing fences the core. -/
def Dev.vxFail (c q n : Nat) (injected : Bool) (d : Dev) : Dev :=
  if d.coreRetrying c then d.fence c 0 false none true
  else
    let d := d.setRunN q n (fun r => { r with retrying := true, retried := true, unit := 4, injected := injected, failAt := none })
    ((d.countCore c 0x0C 1).retryEvent (source 1 (d.phys c)) 4 q n injected).noteRetrying c

/-- 10 R285: the place in the routine store of core `c` of the instruction that a run reaches. -/
def Dev.vxPlace (d : Dev) (c : Nat) (r : Run) : Nat :=
  d.fld (.coreRbank c) F.coreRbank_ACTIVE * 0x40000 + (d.bankEntry c (dRtn r.desc)).getD 0 + 8 * (d.core c).vpc

/-- 10 R285: an uncorrectable instruction word is reported once by its command, which runs it as stored and completes MEM_UNCORR with a
free detail (log entry 17). `places` holds its place plus 2⁴⁰. -/
def Dev.vxFetchBad (c q : Nat) (r : Run) (d : Dev) : Dev :=
  let a := d.vxPlace c r
  let ws := d.badWords.filter (fun w => w.kind == 5 && w.unit == c && w.addr == a / 8 * 8)
  if ws.isEmpty || r.places.contains (2 ^ 40 + a) then d
  else
    let x := (Config.freeWord d.free).toNat % 2 ^ 32
    { d.uncorrAll ws with free := d.free + 1 }.setRunN q r.serial (fun r =>
      { r with status := stMemUncorr, detail := if r.status = stMemUncorr then r.detail else x, places := (2 ^ 40 + a) :: r.places })

/-- One instruction at the engine's place in the routine: passed over in the body of a zero-count loop (R182), ended with
ILLEGAL_INSN or the status that its effect answers (R184), or executed, with its check if its class has one. -/
def Dev.vxStep (c : Nat) (legal checked : Bool) (f : Nat → Run → Dev → Except Nat Dev) (d : Dev) : Dev :=
  match d.vxRun c with
  | none => d
  | some (q, r) =>
    let pc := (d.core c).vpc
    let next (d : Dev) : Dev := d.setCore c { d.core c with vpc := pc + 1 }
    if (d.core c).vskip ≠ 0 then next d
    else if !legal then (d.countCore c 7 1).vxFinish c q r.serial 0x400 (pc % 65536)
    else
      let inj := checked && (d.injWaits c [4]).isSome
      let fail := inj || (checked && r.failAt == some r.icount)
      let d1 := if fail then d.chkCount c 4 else d
      let d1 := if inj then d1.useInj c else d1
      if fail && !d.flag .glChkCtl F.glChkCtl_MASK then d1.vxFail c q r.serial inj
      else
        let d1 := (if checked then d1.setRunN q r.serial (fun r => { r with icount := r.icount + 1 }) else d1).countCore c 7 1
        let d1 := d1.vxFetchBad c q r
        match f q r (next d1) with
        | .ok d2 => d2
        | .error st => d1.vxFinish c q r.serial st (pc % 65536)

/-! ## Memory (R183) -/

/-- The core-store address and length of a memory instruction. -/
def Dev.vxAddr (d : Dev) (c : Nat) (x : VxIns) : Nat × Nat :=
  (d.scal c x.va + 8 * bits x.imm.toNat 7 0, 8 * (bits x.imm.toNat 12 8 + 1))

/-- R183: VX_ALIGN or VX_BOUNDS. -/
def vxAddrStop (a l : Nat) : Nat := if a % 8 ≠ 0 then 0x401 else if coreStoreSize < a + l then 0x402 else 0

/-- 10 R285, R299: the uncorrectable words that a load reads; one already reported by the command is not reported again. -/
def Dev.vxBad (c q n a l : Nat) (d : Dev) : Dev :=
  let seen := ((d.runN q n).map Run.places).getD []
  let ws := (d.badCs c a l).filter (fun w => !seen.contains w.addr)
  if ws.isEmpty then d
  else
    let all := seen ++ ws.map (·.addr)
    let low := all.foldl min (2 ^ 64)
    (d.uncorrAll ws).setRunN q n (fun r =>
      { r with status := stMemUncorr, detail := low / 8 % 2 ^ 28 + 2 * 2 ^ 28, places := all })

/-- VX_LD (R183): the bytes above the length stay as they are. -/
def execVxLd (c : Nat) (x : VxIns) (s : State) : Host.Outcome State Fault Refusal :=
  s.upd (Dev.vxStep c (vxLegal x true false) false (fun q r d =>
    let (a, l) := d.vxAddr c x
    if vxAddrStop a l ≠ 0 then .error (vxAddrStop a l)
    else .ok ((d.setElems c x.vd 8 ((d.csRead c a l).map BitVec.toNat)).vxBad c q r.serial a l)))

/-- VX_ST (R183); the register stored is VD (log entry 31). -/
def execVxSt (c : Nat) (x : VxIns) (s : State) : Host.Outcome State Fault Refusal :=
  s.upd (Dev.vxStep c (vxLegal x true false) false (fun _ _ d =>
    let (a, l) := d.vxAddr c x
    if vxAddrStop a l ≠ 0 then .error (vxAddrStop a l)
    else .ok (d.csWrite c a (bytesOf l (d.vreg c x.vd)))))

/-! ## Float (R185) -/

/-- The long format of a W code: 2 binary32, 3 binary64. -/
def vxFmt (w : Nat) : FFmt := if w = 3 then f64 else f32

/-- One element of a float arithmetic instruction. -/
def vxFArith (F : FFmt) (op : VxFArith) (rm a b c : Nat) : FRes :=
  match op with
  | .fadd => F.add rm a b
  | .fsub => F.sub rm a b
  | .fmul => F.mul rm a b
  | .fma => F.fma rm a b c
  | .fnma => F.fnma rm a b c
  | .fdiv => F.div rm a b
  | .fsqrt => F.sqrt rm a
  | .frint => F.rint rm a
  | .fabs => ⟨F.abs a, 0⟩
  | .fneg => ⟨F.negc a, 0⟩
  | .fcopysign => ⟨F.copysign a b, 0⟩
  | .unassigned => ⟨0, 0⟩

/-- The elements of VA, VB and VC at W, in triples. -/
def Dev.vxTriples (d : Dev) (c : Nat) (x : VxIns) : List (Nat × Nat × Nat) :=
  let e (r : Nat) := elemsOf (vxBits x.w) (vxCount x.w) (d.vreg c r)
  (e x.va).zip ((e x.vb).zip (e x.vc))

/-- VX_FLOAT_ARITHMETIC (R185). -/
def execVxFloatArithmetic (c : Nat) (op : VxFArith) (x : VxIns) (s : State) : Host.Outcome State Fault Refusal :=
  s.upd (Dev.vxStep c (vxLegal x false false && decide (2 ≤ x.w) && decide (x.w ≤ 3) && op != .unassigned) true (fun _ _ d =>
    .ok (d.vxPut c x (vxBits x.w) ((d.vxTriples c x).map (fun t => vxFArith (vxFmt x.w) op x.rm t.1 t.2.1 t.2.2)))))

/-- The relation of a float compare, as `FFmt.cmp` names it. -/
def vxRel : VxFCmp → Option Nat
  | .eq => some 0
  | .lt => some 1
  | .le => some 2
  | .un => some 3
  | _ => none

/-- One element of a float minimum or maximum. -/
def vxMinMax (F : FFmt) (op : VxFCmp) (a b : Nat) : FRes :=
  match op with
  | .fmin => F.minmax false a b
  | .fmax => F.minmax true a b
  | .fminnum => F.minmaxNum false a b
  | .fmaxnum => F.minmaxNum true a b
  | _ => ⟨0, 0⟩

/-- VX_FLOAT_COMPARE (R185). -/
def execVxFloatCompare (c : Nat) (op : VxFCmp) (x : VxIns) (s : State) : Host.Outcome State Fault Refusal :=
  s.upd (Dev.vxStep c (vxLegal x false false && decide (2 ≤ x.w) && decide (x.w ≤ 3) && op != .unassigned) true (fun _ _ d =>
    let F := vxFmt x.w
    match vxRel op with
    | some k => .ok (d.vxPutPred c x ((d.vxTriples c x).map (fun t => F.cmp k t.1 t.2.1)))
    | none => .ok (d.vxPut c x (vxBits x.w) ((d.vxTriples c x).map (fun t => vxMinMax F op t.1 t.2.1)))))

/-! ## Integer, shift, logic (R186, R187) -/

/-- An element read as signed or unsigned. -/
def readInt (sgn : Bool) (b v : Nat) : Int := if sgn then sval b v else ((v % 2 ^ b : Nat) : Int)

/-- A sum clamped to the range of a width; whether it clamped. -/
def clampInt (sgn : Bool) (b : Nat) (z : Int) : Int × Bool :=
  let lo : Int := if sgn then -((2 ^ (b - 1) : Nat) : Int) else 0
  let hi : Int := if sgn then ((2 ^ (b - 1) : Nat) : Int) - 1 else ((2 ^ b : Nat) : Int) - 1
  if z < lo then (lo, true) else if hi < z then (hi, true) else (z, false)

/-- One element of an integer instruction that writes a register: the code and whether it saturated. -/
def vxInt (op : VxIntOp) (sgn sat : Bool) (b u v : Nat) : Nat × Bool :=
  let x := readInt sgn b u
  let y := readInt sgn b v
  match op with
  | .add => if sat then (scode b (clampInt sgn b (x + y)).1, (clampInt sgn b (x + y)).2) else (scode b (x + y), false)
  | .sub => if sat then (scode b (clampInt sgn b (x - y)).1, (clampInt sgn b (x - y)).2) else (scode b (x - y), false)
  | .min => (scode b (min x y), false)
  | .max => (scode b (max x y), false)
  | _ => (0, false)

/-- One element of an integer compare. -/
def vxICmp (op : VxIntOp) (x y : Int) : Bool :=
  match op with
  | .eq => decide (x = y)
  | .ne => decide (x ≠ y)
  | .lt => decide (x < y)
  | .le => decide (x ≤ y)
  | _ => false

/-- Integer operations that write a predicate. -/
def vxIsCmp : VxIntOp → Bool
  | .eq | .ne | .lt | .le => true
  | _ => false

/-- VX_INTEGER (R186, R187). -/
def execVxInteger (c : Nat) (op : VxIntOp) (x : VxIns) (s : State) : Host.Outcome State Fault Refusal :=
  s.upd (Dev.vxStep c (vxLegal x false false && decide (x.w ≤ 2) && op != .unassigned) true (fun _ _ d =>
    let b := vxBits x.w
    let ts := d.vxTriples c x
    if vxIsCmp op then
      .ok (d.vxPutPred c x (ts.map (fun t => (vxICmp op (readInt x.sgn b t.1) (readInt x.sgn b t.2.1), 0))))
    else
      let rs := ts.map (fun t => vxInt op x.sgn x.sat b t.1 t.2.1)
      let act := d.active c x.pg rs.length
      let sat := (act.zip rs).any (fun p => p.1 && p.2.2)
      let d := d.vxPut c x b (rs.map (fun r => ⟨r.1, 0⟩))
      .ok (if sat then d.setFld (.coreVxFlags c) F.coreVxFlags_SAT 1 else d)))

/-- One element of a shift or logic instruction; `n` is the shift amount. -/
def vxShift (op : VxShiftOp) (sgn : Bool) (b u v n : Nat) : Nat :=
  match op with
  | .sll => if n < b then u * 2 ^ n % 2 ^ b else 0
  | .srl => if n < b then u / 2 ^ n else 0
  | .sra => scode b (sval b u / ((2 ^ n : Nat) : Int))
  | .srr => if n = 0 then u else scode b ((readInt sgn b u + ((2 ^ (n - 1) : Nat) : Int)) / ((2 ^ n : Nat) : Int))
  | .and => u &&& v
  | .or => u ||| v
  | .xor => u ^^^ v
  | .andn => u &&& (2 ^ b - 1 - v)
  | .not => 2 ^ b - 1 - u
  | .unassigned => 0

/-- VX_SHIFT_LOGIC (R186); every W is allowed (log entry 31). -/
def execVxShiftLogic (c : Nat) (op : VxShiftOp) (x : VxIns) (s : State) : Host.Outcome State Fault Refusal :=
  s.upd (Dev.vxStep c (vxLegal x false false && decide (x.w ≤ 3) && op != .unassigned) true (fun _ _ d =>
    let b := vxBits x.w
    .ok (d.vxPut c x b ((d.vxTriples c x).map (fun t =>
      ⟨vxShift op x.sgn b t.1 t.2.1 (if x.imsh then bits x.imm.toNat 7 0 else t.2.1 % 256), 0⟩)))))

/-! ## Moves -/

/-- VX_MOVE: sel, bcast, movi and the predicate moves. A bcast of an element that the register does not hold writes a free value. -/
def execVxMove (c : Nat) (op : VxMoveOp) (x : VxIns) (s : State) : Host.Outcome State Fault Refusal :=
  s.upd (Dev.vxStep c (vxLegal x false false && decide (x.w ≤ 3) && op != .unassigned) true (fun _ _ d =>
    let b := vxBits x.w
    let n := vxCount x.w
    let ts := d.vxTriples c x
    let p := d.pred c x.va
    let y := d.pred c x.vb
    match op with
    | .sel =>
      let act := d.active c x.pg n
      .ok (d.setElems c x.vd b (List.zipWith (fun (a : Bool) (t : Nat × Nat × Nat) => if a then t.1 else t.2.1) act ts))
    | .bcast =>
      if x.imm.toNat < n then
        let v := (elemsOf b n (d.vreg c x.va)).getD x.imm.toNat 0
        .ok (d.vxPut c x b (List.replicate n ⟨v, 0⟩))
      else
        let v := (Config.freeWord d.free).toNat
        .ok ({ d with free := d.free + 1 }.vxPut c x b (List.replicate n ⟨v % 2 ^ b, 0⟩))
    | .movi => .ok (d.vxPut c x b (List.replicate n ⟨scode b (sval 16 x.imm.toNat), 0⟩))
    | .pmov => .ok (d.setPred c x.vd p)
    | .pand => .ok (d.setPred c x.vd (p &&& y))
    | .por => .ok (d.setPred c x.vd (p ||| y))
    | .pnot => .ok (d.setPred c x.vd (2 ^ 256 - 1 - p))
    | .unassigned => .ok d))

/-! ## Reductions (R188, R189) -/

/-- A combine of two elements, either of which may be absent. -/
def redPair (f : Nat → Nat → FRes) (x y : Option Nat) : Option Nat × Nat :=
  match x, y with
  | some a, some b => (some (f a b).code, (f a b).flags)
  | some a, none => (some a, 0)
  | none, y => (y, 0)

/-- R188: the fixed tree over a power of two of elements, with fuel; the result and the flags raised. -/
def redTree (f : Nat → Nat → FRes) : Nat → List (Option Nat) → Nat → Option Nat × Nat
  | 0, xs, fl => (xs.headD none, fl)
  | k + 1, xs, fl =>
    if xs.length ≤ 1 then (xs.headD none, fl)
    else
      let h := xs.length / 2
      let ys := List.zipWith (redPair f) (xs.take h) (xs.drop h)
      redTree f k (ys.map (·.1)) (ys.foldl (fun a y => a ||| y.2) fl)

/-- The active elements of a list, absent where inactive. -/
def present (act : List Bool) (xs : List Nat) : List (Option Nat) :=
  List.zipWith (fun (a : Bool) x => if a then some x else none) act xs

/-- The integer form of a reduction. -/
def redInt : VxRedOp → Bool
  | .rsum i | .rmax i | .rmin i => i
  | _ => false

/-- The combine of a reduction. -/
def redFun (op : VxRedOp) (rm : Nat) (sgn : Bool) (w a y : Nat) : FRes :=
  let b := vxBits w
  let F := vxFmt w
  let u := readInt sgn b a
  let v := readInt sgn b y
  match op with
  | .rsum true => ⟨(a + y) % 2 ^ b, 0⟩
  | .rsum false => F.add rm a y
  | .rmax true => ⟨scode b (max u v), 0⟩
  | .rmax false => F.minmax true a y
  | .rmin true => ⟨scode b (min u v), 0⟩
  | .rmin false => F.minmax false a y
  | .rmaxnum => F.minmaxNum true a y
  | .rminnum => F.minmaxNum false a y
  | .unassigned => ⟨0, 0⟩

/-- R188, R189: the identity of a reduction. -/
def redId (op : VxRedOp) (sgn : Bool) (w : Nat) : Nat :=
  let b := vxBits w
  let F := vxFmt w
  match op with
  | .rsum true => 0
  | .rsum false => F.zero true
  | .rmax true => if sgn then 2 ^ (b - 1) else 0
  | .rmin true => if sgn then 2 ^ (b - 1) - 1 else 2 ^ b - 1
  | .rmax false | .rmaxnum => F.infCode true
  | .rmin false | .rminnum => F.infCode false
  | .unassigned => 0

/-- VX_REDUCTION (R188, R189). -/
def execVxReduction (c : Nat) (op : VxRedOp) (x : VxIns) (s : State) : Host.Outcome State Fault Refusal :=
  s.upd (Dev.vxStep c (vxLegal x false false && op != .unassigned &&
      (if redInt op then decide (x.w ≤ 2) else decide (2 ≤ x.w) && decide (x.w ≤ 3))) true (fun _ _ d =>
    let n := vxCount x.w
    let xs := present (d.active c x.pg n) (elemsOf (vxBits x.w) n (d.vreg c x.va))
    let r := redTree (redFun op x.rm x.sgn x.w) 8 xs 0
    .ok ((d.setVreg c x.vd (r.1.getD (redId op x.sgn x.w))).vxFlag c r.2)))

/-! ## Conversions (R190 to R194) -/

/-- R190: elements on the long side of a conversion to or from a short format, or between the long formats. -/
def cvtCount (w : Nat) : Nat := if w = 2 then 64 else 32

/-- R192: the packed range of a short side: byte offset and length. -/
def vxPacked (x : VxIns) : Nat × Nat := (bits x.imm.toNat 15 8, fmtBytes x.fmt (cvtCount x.w))

/-- R192: FMT is a short format, NS only with cs16, the packed range aligned to its length and inside the register. -/
def vxShortOk (x : VxIns) : Bool :=
  (shortOf x.fmt).isSome && (!x.ns || x.fmt == 2) && (vxPacked x).1 % (vxPacked x).2 == 0 &&
    decide ((vxPacked x).1 + (vxPacked x).2 ≤ 256)

/-- R192: the scale of block `b`: 127 with NS, else a byte of VB; a byte that the register does not hold is a free value. -/
def Dev.vxScaleOf (d : Dev) (c : Nat) (x : VxIns) (b : Nat) : Nat :=
  let i := bits x.imm.toNat 7 0 + b
  if x.ns then 127
  else if i < 256 then d.vreg c x.vb / 2 ^ (8 * i) % 256
  else (Config.freeWord d.free).toNat % 256

/-- The short format of FMT. -/
def vxShort (x : VxIns) : SFmt := (shortOf x.fmt).getD ⟨6, 9, 31⟩

/-- Whether a conversion form is legal under R190, R192. -/
def vxCvtOk (op : VxCvtForm) (x : VxIns) : Bool :=
  let lng := decide (2 ≤ x.w) && decide (x.w ≤ 3)
  match op with
  | .longLong => lng && decide (x.fmt ≤ 1)
  | .longInt => lng
  | .intLong => x.w == 2 && decide (x.fmt ≤ 1)
  | .longShort | .shortLong => lng && vxShortOk x
  | .unassigned => false

/-- A conversion of an element to a 32-bit integer (R191). -/
def vxToInt (F : FFmt) (rm : Nat) (sgn : Bool) (a : Nat) : FRes :=
  match cvtToInt F rm 32 sgn a with
  | (some z, fl) => ⟨scode 32 z, fl⟩
  | (none, fl) =>
    let v := F.dec a
    if v.isNan then ⟨0, fl⟩
    else if v.sign then ⟨if sgn then 2 ^ 31 else 0, fl⟩
    else ⟨if sgn then 2 ^ 31 - 1 else 2 ^ 32 - 1, fl⟩

/-- 03 R104: the generator word of element position `i` in the running command. -/
def Dev.vxRng (d : Dev) (c i : Nat) : Nat :=
  cgWord ((d.rd (.coreRngKey c 0)).toNat + (d.rd (.coreRngKey c 1)).toNat * 2 ^ 64) (d.rngCtr c) i

/-- 03 R104: `n` positions are consumed. -/
def Dev.rngTake (c n : Nat) (d : Dev) : Dev :=
  d.setCore c { d.core c with rngRun := some ((d.rngCtr c + (n + 3) / 4) % 2 ^ 128) }

/-- R192, R193: a long-to-short conversion. -/
def Dev.cvtToShort (c : Nat) (x : VxIns) (d : Dev) : Dev :=
  let F := vxFmt x.w
  let n := cvtCount x.w
  let w := fmtBits x.fmt
  let o := 8 * (vxPacked x).1
  let old := d.vreg c x.vd
  let xs := elemsOf (vxBits x.w) n (d.vreg c x.va)
  let rs := xs.zipIdx.map (fun p => (vxShort x).enc x.rm (d.vxScaleOf c x (p.2 / 32)) (d.vxRng c p.2) (F.dec p.1))
  let act := d.active c x.pg n
  let new := mergeElems act false (elemsOf w n (old / 2 ^ o)) (rs.map FRes.code)
  let v := old % 2 ^ o + 2 ^ o * ofElems w new + old / 2 ^ (o + w * n) * 2 ^ (o + w * n)
  let d := (d.setVreg c x.vd v).vxFlag c (activeFlags act rs)
  let d := if x.rm = 5 then d.rngTake c n else d
  { d with free := d.free + 1 }

/-- R192: a short-to-long conversion. -/
def Dev.cvtOfShort (c : Nat) (x : VxIns) (d : Dev) : Dev :=
  let F := vxFmt x.w
  let n := cvtCount x.w
  let xs := elemsOf (fmtBits x.fmt) n (d.vreg c x.va / 2 ^ (8 * (vxPacked x).1))
  let rs := xs.zipIdx.map (fun p => (vxShort x).toLong F x.rm (d.vxScaleOf c x (p.2 / 32)) p.1)
  let d := d.vxPut c x (vxBits x.w) rs
  { d with free := d.free + 1 }

/-- VX_CVT (R190 to R193). Elements of VD beyond those that the form produces keep their values. -/
def execVxCvt (c : Nat) (op : VxCvtForm) (x : VxIns) (s : State) : Host.Outcome State Fault Refusal :=
  s.upd (Dev.vxStep c (vxLegal x false (op == .longShort) && vxCvtOk op x) true (fun _ _ d =>
    let F := vxFmt x.w
    let G := if x.fmt = 0 then f64 else f32
    let src (n : Nat) : List Nat := elemsOf (vxBits x.w) n (d.vreg c x.va)
    let n := if x.w = 2 ∧ x.fmt = 1 then 64 else 32
    match op with
    | .longLong => .ok (d.vxPut c x G.w ((src n).map (cvtLong F G x.rm)))
    | .longInt => .ok (d.vxPut c x 32 ((src (cvtCount x.w)).map (vxToInt F x.rm x.sgn)))
    | .intLong => .ok (d.vxPut c x G.w ((src n).map (fun a => cvtOfInt G x.rm (readInt x.sgn 32 a))))
    | .longShort => .ok (d.cvtToShort c x)
    | .shortLong => .ok (d.cvtOfShort c x)
    | .unassigned => .ok d))

/-- VX_SCALE (R194, 03 R99). A second scale of IMM 255 would go to byte 256, which a register does not have: it is written nowhere
(DESIGN CHOICE, log entry 31). -/
def execVxScale (c : Nat) (x : VxIns) (s : State) : Host.Outcome State Fault Refusal :=
  s.upd (Dev.vxStep c (vxLegal x false false && decide (2 ≤ x.w) && decide (x.w ≤ 3) && (shortOf x.fmt).isSome && x.pg == 0) true
    (fun _ _ d =>
      let F := vxFmt x.w
      let xs := (elemsOf (vxBits x.w) (cvtCount x.w) (d.vreg c x.va)).map F.dec
      let i := bits x.imm.toNat 7 0
      let bytes := elemsOf 8 256 (d.vreg c x.vd)
      let bytes := bytes.set i (scaleOf (vxShort x) (xs.take 32))
      let bytes := if x.w = 3 then bytes else bytes.set (i + 1) (scaleOf (vxShort x) (xs.drop 32))
      .ok (d.setVreg c x.vd (ofElems 8 bytes))))

/-! ## Summaries (R196) -/

/-- The kind of a summary instruction. -/
def smKind (x : VxIns) : Nat := bits x.imm.toNat 11 8

/-- R196: the widths and formats that a kind allows. -/
def smOk (x : VxIns) : Bool :=
  match smKind x with
  | 0 | 1 | 2 | 3 => decide (2 ≤ x.w) && decide (x.w ≤ 3)
  | 4 => (shortOf x.fmt).isSome && x.pg == 0
  | 5 | 6 | 7 | 8 | 9 => decide (x.w ≤ 3)
  | _ => false

/-- The identity of a kind. -/
def smId (k : Nat) : Nat := match k with
  | 1 => f64.zero true
  | 7 => 1
  | _ => 0

/-- The codes in a packed register of a short format. -/
def packedCount (fmt : Nat) : Nat := match fmt with
  | 2 => 128
  | 5 => 320
  | 6 => 512
  | _ => 256

/-- The binary64 code of an element's magnitude, a NaN left out. -/
def magCode (F : FFmt) (a : Nat) : Option Nat := if (F.dec a).isNan then none else some (toWide F (F.abs a))
where
  /-- An exact widening. -/
  toWide (F : FFmt) (a : Nat) : Nat := (cvtLong F f64 0 a).code

/-- R196: the accumulator `acc` of a kind combined with the active elements of VA; the new value and the flags raised. -/
def Dev.smCombine (d : Dev) (c : Nat) (x : VxIns) (acc : Nat) : Nat × Nat :=
  let F := vxFmt x.w
  let n := vxCount x.w
  let act := d.active c x.pg n
  let xs := elemsOf (vxBits x.w) n (d.vreg c x.va)
  let ys := (act.zip xs).filterMap (fun p => if p.1 then some p.2 else none)
  let ps := (act.zipIdx.filter (·.1)).map (fun p => bit (d.pred c x.va) p.2)
  match smKind x with
  | 0 => ((ys.filterMap (magCode F)).foldl max acc, 0)
  | 1 =>
    let t := redTree (F.add x.rm) 8 (present act xs) 0
    let (v, fl) := match t.1 with
      | some a => ((cvtLong F f64 0 a).code, (cvtLong F f64 0 a).flags)
      | none => (f64.zero true, 0)
    let r := f64.add 0 acc v
    (r.code, t.2 ||| fl ||| r.flags)
  | 2 => ((acc + (ys.filter (fun a => (F.dec a).isNan)).length) % 2 ^ 64, 0)
  | 3 => ((acc + (ys.filter (fun a => (F.dec a).isInf)).length) % 2 ^ 64, 0)
  | 4 =>
    let bs := (elemsOf (fmtBits x.fmt) (packedCount x.fmt) (d.vreg c x.va)).filter (fun a => a == (vxShort x).nav)
    ((acc + bs.length) % 2 ^ 64, 0)
  | 5 => ((acc + (ps.filter id).length) % 2 ^ 64, 0)
  | 6 => (acc ||| b2n (ps.any id), 0)
  | 7 => (acc &&& b2n (ps.all id), 0)
  | 8 => (acc ||| bits (d.rd (.coreVxFlags c)).toNat 8 0, 0)
  | _ => (ys.foldl (· ||| ·) acc, 0)

/-- VX_SMRY (R196, R197): an accumulator that no summary has written holds kind 0 and zero. -/
def execVxSmry (c : Nat) (x : VxIns) (s : State) : Host.Outcome State Fault Refusal :=
  s.upd (Dev.vxStep c (vxLegal x false false && smOk x) true (fun _ r d =>
    let k := smKind x
    let j := bits x.imm.toNat 2 0
    let init := bit x.imm.toNat 3
    let old := tget ⟨0, 0⟩ j (d.core c).smry
    if !init && old.kind != k then .error 0x400
    else
      let v := d.smCombine c x (if init then smId k else old.val.toNat)
      let w := BitVec.ofNat 64 v.1
      let d := (d.setCore c { d.core c with smry := tset j ⟨k, w⟩ (d.core c).smry }).vxFlag c v.2
      .ok (if bit x.imm.toNat 4 && !d.coreFenced c then
        d.setCore c { d.core c with posts := (d.core c).posts ++ [⟨j, k, w, r.serial % 2 ^ 32⟩] } else d)))

/-! ## Control (R179, R182) -/

/-- VX_LOOP (R182): the count is latched from a[VA]; zero skips the body; a fifth open loop is illegal. -/
def execVxLoop (c : Nat) (x : VxIns) (s : State) : Host.Outcome State Fault Refusal :=
  s.upd (fun d =>
    if (d.vxRun c).isSome && (d.core c).vskip != 0 then
      d.setCore c { d.core c with vpc := (d.core c).vpc + 1, vskip := (d.core c).vskip + 1 }
    else d.vxStep c (vxLegal x true false) false (fun _ _ d =>
      let k := d.core c
      let n := d.scal c x.va
      if 4 ≤ k.vloops.length then .error 0x400
      else if n = 0 then .ok (d.setCore c { k with vskip := 1 })
      else .ok (d.setCore c { k with vloops := ⟨k.vpc, n⟩ :: k.vloops })))

/-- VX_ENDLOOP (R182): back to the body while passes are left; without an open loop it is illegal (log entry 31). -/
def execVxEndloop (c : Nat) (x : VxIns) (s : State) : Host.Outcome State Fault Refusal :=
  s.upd (fun d =>
    if (d.vxRun c).isSome && (d.core c).vskip != 0 then
      d.setCore c { d.core c with vpc := (d.core c).vpc + 1, vskip := (d.core c).vskip - 1 }
    else d.vxStep c (vxLegal x true false) false (fun _ _ d =>
      let k := d.core c
      match k.vloops with
      | [] => .error 0x400
      | l :: t =>
        if 1 < l.left then .ok (d.setCore c { k with vpc := l.start, vloops := ⟨l.start, l.left - 1⟩ :: t })
        else .ok (d.setCore c { k with vloops := t })))

/-- VX_END (R184): the routine ends OK, or with the uncorrectable word it read (10 R299). -/
def execVxEnd (c : Nat) (x : VxIns) (s : State) : Host.Outcome State Fault Refusal :=
  s.upd (Dev.vxStep c (vxLegal x true false) false (fun q r d => .ok (d.vxFinish c q r.serial 0 0)))

/-- VX_SCALAR_CONTROL (R179): nop, vx.ai, vx.apar, and vx.aadd and vx.ashl over VA and VB (log entry 31). -/
def execVxScalarControl (c : Nat) (op : VxCtlOp) (x : VxIns) (s : State) : Host.Outcome State Fault Refusal :=
  s.upd (Dev.vxStep c (vxLegal x true false && op != .unassigned) false (fun _ r d =>
    let a := d.scal c x.va
    let b := d.scal c x.vb
    let n := if x.imsh then bits x.imm.toNat 7 0 else b % 256
    match op with
    | .nop | .unassigned => .ok d
    | .ai => .ok (d.setScal c x.vd (scode 64 (sval 16 x.imm.toNat)))
    | .apar => .ok (d.setScal c x.vd (wd r.params (bits x.imm.toNat 3 0)))
    | .aadd => .ok (d.setScal c x.vd (a + b))
    | .ashl => .ok (d.setScal c x.vd (if n < 64 then a * 2 ^ n else 0))))

/-! ## Generator registers (03 R106, R107) -/

/-- The generator register that index `j` names: KEY0, KEY1, CTR0, CTR1. -/
def rngReg (c j : Nat) : Reg := if j < 2 then .coreRngKey c j else .coreRngCtr c (j - 2)

/-- 03 R106: a write is held until the next vector command starts. -/
def Dev.rngWrite (c j : Nat) (v : Word) (d : Dev) : Dev :=
  d.setCore c { d.core c with rngHeld := tset (rngReg c j) v (d.core c).rngHeld }

/-- RNG_REGISTER_WRITE (03 R106, R107). -/
def execRngRegisterWrite (req : Req) (c j : Nat) (v : Word) (s : State) : Host.Outcome State Fault Refusal :=
  s.upd (Dev.guarded req (rngReg c j) v (Dev.rngWrite c j v))

end Sys2Proof.Machine
end

