-- ==== Sys2Proof/Machine/Depend.lean ====
section
/-! DEFINITION. The rows of dependability (17), and of the supply and its resets (20 R553 to R560): re-execution, fences,
injections, sounding tests, the custodian, comparison of duplicated logic, supply warnings and package resets. -/

namespace Sys2Proof.Machine

/-! ## Re-execution (R484 to R486) -/

/-- The command of a queue that a failed check holds back re-executes, unless it is frozen (R485). -/
def Dev.checkAgain (q : Nat) (bad : Option Nat) (d : Dev) : Dev :=
  match d.retryRun q with
  | none => d
  | some r =>
    if d.frozenRun q r then d
    else if d.qKind q = 1 then d.svReexecute q bad
    else if d.qKind q = 5 then d.bmeReexecute q bad
    else if d.qKind q ≤ 4 then
      let c := d.qTarget q
      let h := d.runQuire c r
      let us := if dRtn r.desc = 0x140 then Dev.deltaAgain c h r.todo d else r.todo
      let before := d.fabric.seqTx
      let d := (d.setRunN q r.serial (fun r => { r with todo := us })).reexecute q bad
      let d := (d.noteDsts q r.serial before).deadWrite q r.serial us
      if isDelta (dRtn r.desc) then d.staleMarks c h (d.written q r.serial us) else d
    else d

/-- CHECK_REEXECUTION (R484 to R486). -/
def execCheckReexecution (q : Nat) (bad : Option Nat) (s : State) : Host.Outcome State Fault Refusal :=
  s.upd (Dev.checkAgain q bad)

/-! ## Fences (R490 to R495) -/

/-- A fence asked for through GL_FENCE_CTL.GO, by a register write (cause 3) or the management port (cause 4). -/
def Dev.fenceAsk (c cause : Nat) (tag : Option Nat) (persist : Bool) (d : Dev) : Dev :=
  let r := Reg.glFenceCtl
  let d := (d.setFld r F.glFenceCtl_CORE c).setFld r F.glFenceCtl_PERSIST (b2n persist)
  if d.flag r F.glFenceCtl_BUSY ∨ d.nCores ≤ c then d
  else if d.coreFenced c then d.setFld r F.glFenceCtl_RESULT 1
  else (d.setFld r F.glFenceCtl_BUSY 1).fence c cause true tag persist

/-- GO (17, GL_FENCE_CTL; R493). -/
def execFenceGo (req : Req) (c : Nat) (persist : Bool) (s : State) : Host.Outcome State Fault Refusal :=
  s.upd (Dev.guarded req .glFenceCtl (BitVec.ofNat 64 (c % 256 + 256 * b2n persist + 512))
    (Dev.fenceAsk (c % 256) 3 none persist))

/-- R493: every store of the core has been acknowledged or discarded. -/
def Dev.storesSettled (d : Dev) (c : Nat) : Bool :=
  !d.fabric.trackers.any (fun t => t.core == some c && t.seq.isSome)

/-- R493 to R495: the fence of a core reports. -/
def Dev.fenceReport (c : Nat) (d : Dev) : Dev :=
  match (d.core c).fence with
  | none => d
  | some f =>
    if d.storesSettled c then
      let res := if f.lost then 2 else 1
      let p := d.phys c
      let rcd := if f.record then some p else none
      let d := d.setCore c { d.core c with fence := none }
      let d := d.pushCust ⟨f.tide, f.time, source 1 p, 0x51, BitVec.ofNat 64 (f.cause + res * 256), true, rcd⟩
      let d := if f.go then (d.setFld .glFenceCtl F.glFenceCtl_BUSY 0).setFld .glFenceCtl F.glFenceCtl_RESULT res else d
      match f.mgmt with
      | some t => d.mgmtReply (decide (256 ≤ t)) 2 (t % 256) 0 (bytesOf 1 res)
      | none => d
    else d

/-- FENCE_REPORT (R493). -/
def execFenceReport (c : Nat) (s : State) : Host.Outcome State Fault Refusal := s.upd (Dev.fenceReport c)

/-! ## Injections (17, GL_CHK_CTL) -/

/-- A write of GL_CHK_CTL with INJ; a value that names an unused unit or count is ignored whole (00 R9). -/
def Dev.injectAt (c unit count : Nat) (d : Dev) : Dev :=
  let r := Reg.glChkCtl
  if 5 < unit ∨ count = 0 ∨ 2 < count then d
  else
    let d := ((d.setFld r F.glChkCtl_INJ_CORE c).setFld r F.glChkCtl_INJ_UNIT unit).setFld r F.glChkCtl_INJ_COUNT count
    if d.flag r F.glChkCtl_INJ_PEND ∨ d.nCores ≤ c ∨ d.coreFenced c then d
    else (d.setFld r F.glChkCtl_INJ_PEND 1).setCore c { d.core c with inj := some ⟨unit, count⟩ }

/-- INJ: a write that leaves MASK as it is. -/
def execInj (req : Req) (c unit count : Nat) (s : State) : Host.Outcome State Fault Refusal :=
  s.upd (fun d =>
    let mask := d.fld .glChkCtl F.glChkCtl_MASK
    d.guarded req .glChkCtl (BitVec.ofNat 64 (c % 256 + unit % 8 * 256 + count % 4 * 2048 + 8192 + mask * 65536))
      (Dev.injectAt (c % 256) (unit % 8) (count % 4)))

/-! ## Sounding tests (R503 to R506) -/

/-- A sounding test starts. -/
def Dev.soundStart (c : Nat) (full : Bool) (queue tag : Option Nat) (d : Dev) : Dev :=
  let r := Reg.coreSound c
  let d := d.setFld r F.coreSound_LEVEL (b2n full)
  if d.flag r F.coreSound_BUSY then d
  else (d.setFld r F.coreSound_BUSY 1).setCore c { d.core c with sound := some ⟨full, queue, tag⟩ }

/-- SOUNDING_TEST_GO (R503). -/
def execSoundingTestGo (req : Req) (c : Nat) (full : Bool) (s : State) : Host.Outcome State Fault Refusal :=
  s.upd (Dev.guarded req (.coreSound c) (BitVec.ofNat 64 (1 + 2 * b2n full)) (Dev.soundStart c full none none))

/-- CORE_SOUND_COMMAND (R506). -/
def execCoreSoundCommand (q : Nat) (s : State) : Host.Outcome State Fault Refusal :=
  s.upd (Dev.startCmd q 0x900 (fun ws d =>
    if dArg ws 0 / 2 ≠ 0 ∨ dArg ws 1 ≠ 0 ∨ dArg ws 2 ≠ 0 ∨ dArg ws 3 ≠ 0 then d.finish q stDescInvalid 0
    else (d.setRun q (fun r => { r with done := false })).soundStart (d.qTarget q) (bit (dArg ws 0) 0) (some q) none))

/-- R504, R505: a test ends once no command of the core runs: it passes, or names the first failing unit and fences the core. -/
def Dev.soundResult (c : Nat) (fail : Option Nat) (d : Dev) : Dev :=
  if (d.core c).sound.isNone ∨ d.coreRuns c then d
  else match fail with
    | none => d.soundEnd c 0 0
    | some u => (d.soundEnd c 0x900 u).fence c 2 false none true

/-- SOUND_RESULT (R505, R506). -/
def execSoundResult (c : Nat) (fail : Option Nat) (s : State) : Host.Outcome State Fault Refusal :=
  s.upd (Dev.soundResult c fail)

/-! ## The custodian (R494, R496, R497) -/

/-- R494: a fence record in board flash. -/
def Dev.writeFence (p : Nat) (d : Dev) : Dev :=
  let add (b : Board) : Board := if (fencedBy b).contains p then b else { b with fences := b.fences ++ [⟨p, false, true⟩] }
  { d with board := d.board.map add }.emit (.flashFence p)

/-- R496: the event at the head of the pending queue is logged, raises its interrupt and writes its fence record; when the queue
empties after losses, one entry carries their count. -/
def Dev.custodianNext (d : Dev) : Dev :=
  match d.custQ with
  | [] => d
  | e :: t =>
    let d := { d with custQ := t }.setFld .glErrStatus F.glErrStatus_PENDING t.length
    let d := d.logWrite e.tide e.time e.source e.code e.data
    let d := if e.irq then d.irq else d
    let d : Dev := match e.record with
      | some p => d.writeFence p
      | none => d
    if t.isEmpty ∧ d.custLost ≠ 0 then
      { d with custLost := 0 }.logWrite d.logTide d.ns (source 0 0) 0xF0 (BitVec.ofNat 64 (d.custLost % 2 ^ 32))
    else d

/-- CUSTODIAN_EVENT (R496). -/
def execCustodianEvent (s : State) : Host.Outcome State Fault Refusal :=
  s.upd (fun d => if d.custodianOn then d.custodianNext else d)

/-- R489, R497: an uncorrectable word, or a parity failure while an event is pending, is package-fatal; another is retried. -/
def Dev.custodianErr (e : CustErr) (d : Dev) : Dev :=
  match e with
  | .uncorrectable => d.fatal 0x41
  | .parity => if d.custQ.isEmpty then d.retryEvent (source 0 0) 0 0 0 false else d.fatal 0x50

/-- CUSTODIAN_ERROR (R497). -/
def execCustodianError (e : CustErr) (s : State) : Host.Outcome State Fault Refusal :=
  s.upd (fun d => if d.custodianOn then d.custodianErr e else d)

/-! ## Duplicated logic (R499, R500) -/

/-- R499, R500: the copies reload the last state on which they agreed; the third reload in a row is package-fatal. `again` says that
the mismatch recurs on the reload before. -/
def Dev.cmpReload (u : CmpUnit) (again : Bool) (d : Dev) : Dev :=
  let (i, code) := match u with
    | .gate => (0, 0x15)
    | .sched p _ => (1 + p, 0x31)
  let n := if again then tget 0 i d.cmpRun + 1 else 1
  let d := { d with cmpRun := tset i (n % 3) d.cmpRun }
  let d := match u with
    | .gate => d.event (source 3 0) 0x15 n false
    | .sched p slot => d.event (source 4 p) 0x31 (slot % 64) false
  let d := d.choiceTime 9
  if 3 ≤ n then d.fatal code else d

/-- TIDE_CMP (R499, R500). -/
def execTideCmp (u : CmpUnit) (again : Bool) (s : State) : Host.Outcome State Fault Refusal := s.upd (Dev.cmpReload u again)

/-! ## The supply (R501, R502; 20 R553 to R555, R566) -/

/-- An input voltage in mV, as GL_SUPPLY_STATUS shows it. -/
def Dev.vinSeen (vin : Nat) (d : Dev) : Dev :=
  let r := Reg.glSupplyStatus
  (d.setFld r F.glSupplyStatus_VIN vin).setFld r F.glSupplyStatus_VIN_MIN (min vin (d.fld r F.glSupplyStatus_VIN_MIN))

/-- The warning threshold in mV. -/
def Dev.warnAt (d : Dev) : Nat := 250 * d.fld .glSupplyCfg F.glSupplyCfg_WARN

/-- The reset threshold in mV. -/
def Dev.resetAt (d : Dev) : Nat := 250 * d.fld .glSupplyCfg F.glSupplyCfg_RESET

/-- R501, 20 R554: the input falls below the warning threshold. -/
def Dev.supplyFall (vin : Nat) (d : Dev) : Dev :=
  let d := d.vinSeen vin
  if d.warnAt ≤ vin ∨ d.flag .glErrStatus F.glErrStatus_SUPPLY_WARN then d
  else
    let d := (d.setFld .glErrStatus F.glErrStatus_SUPPLY_WARN 1).setFld .glErrStatus F.glErrStatus_SUPPLY_EV 1
    let d := ((d.setFld .hlEvent F.hlEvent_SUPPLY 1).allSupplyIrq).event (source 0 0) 0x22 (vin % 65536) true
    let d := { d with supplyWarnN := true }.healthDue
    let d := if d.flag .glImgInfo F.glImgInfo_SUPPLY_CAP then d.choiceTime 10 else d
    if d.flag .glImgInfo F.glImgInfo_SUPPLY_FB then
      (d.setFld (.ppCtl 0) F.ppCtl_FORCE_FB 1).setFld (.ppCtl 1) F.ppCtl_FORCE_FB 1
    else d

/-- SUPPLY_WARN (R501). -/
def execSupplyWarn (vin : Nat) (s : State) : Host.Outcome State Fault Refusal :=
  s.upd (fun d => if d.custodianOn then d.supplyFall vin else d)

/-- R502: the input has stayed 0.5 V above the warning threshold for 10 ms. -/
def Dev.supplyRise (vin : Nat) (d : Dev) : Dev :=
  let d := d.vinSeen vin
  if d.warnAt + 500 ≤ vin ∧ d.flag .glErrStatus F.glErrStatus_SUPPLY_WARN then
    { d.setFld .glErrStatus F.glErrStatus_SUPPLY_WARN 0 with supplyWarnN := false }.healthDue
  else d

/-- SUPPLY_WARN_CLEAR (R502). -/
def execSupplyWarnClear (vin : Nat) (s : State) : Host.Outcome State Fault Refusal :=
  s.upd (fun d => if d.custodianOn then d.supplyRise vin else d)

/-- SUPPLY_RESET (20 R555): the package resets and stays in reset until power is good. -/
def execSupplyReset (vin : Nat) (s : State) : Host.Outcome State Fault Refusal :=
  s.upd (fun d => if d.pwrGood ∧ vin < d.resetAt then { d with pwrGood := false }.packageReset 2 else d)

/-- POWER_DOWN (20 R555): below 30.0 V the log is lost too, and the next start-up has cause 0. -/
def execPowerDown (vin : Nat) (s : State) : Host.Outcome State Fault Refusal :=
  s.upd (fun d =>
    if vin < 30000 then { { d with pwrGood := false, log := [] }.wr .clStatus 0 with resetCause := 0 }.packageReset 0 else d)

/-- RESET_N (20 R560). -/
def execResetN (s : State) : Host.Outcome State Fault Refusal := 
  s.upd (fun d => if d.pwrGood then d.packageReset 3 else d)

/-- 16 R448: the host link goes down. -/
def Dev.linkDown (d : Dev) : Dev :=
  if d.hostLink then ({ d with hostLink := false }.event (source 8 0) 0x70 0 false).healthDue else d

/-- PERST_N (20 R559): low, it resets the host port and its bias table and holds the link down. -/
def execPerstN (low : Bool) (s : State) : Host.Outcome State Fault Refusal :=
  s.upd (fun d => if low then { d.linkDown with bias := [], perst := true } else { d with perst := false })

/-- MIN_CLR (20 R566, GL_SUPPLY_STATUS). -/
def execMinClr (req : Req) (s : State) : Host.Outcome State Fault Refusal :=
  s.upd (Dev.guarded req .glSupplyStatus (BitVec.ofNat 64 (2 ^ 48))
    (Dev.setFld .glSupplyStatus F.glSupplyStatus_VIN_MIN 0xFFFF))

end Sys2Proof.Machine
end

