-- ==== Sys2Proof/Machine/Host.lean ====
section
/-! DEFINITION. The host link and start-up (16): bias flips, the mailbox commands but MGMT, doorbells, restarts, feature negotiation,
the link, power good, and the identity. -/

namespace Sys2Proof.Machine

/-! ## Bias (R446 to R448) -/

/-- R447: a write of HL_BIAS_CTL with GO. `dirty` are the lines, by index in the page, that the host returns dirty. -/
def Dev.flipBias (v : Word) (dirty : List (Nat × List Byte)) (d : Dev) : Dev :=
  let r := Reg.hlBiasCtl
  let page := F.hlBiasCtl_PAGE.get v
  let d := (d.setFld r F.hlBiasCtl_PAGE page).setFld r F.hlBiasCtl_TO (F.hlBiasCtl_TO.get v)
  if !d.feat 9 then d
  else
    let d := d.countCn 0x0E 1
    if F.hlBiasCtl_TO.get v = 0 then { d with bias := if d.bias.contains page then d.bias else page :: d.bias }
    else
      let d := if d.hostLink then
          (dirty.foldl (fun d x => d.storeStack (page * 2097152 + 64 * (x.1 % 32768)) (sliceB x.2 0 64)) d).emit (.ownership page)
        else d
      { d with bias := d.bias.filter (· != page) }

/-- BIAS_FLIP (R447). -/
def execBiasFlip (req : Req) (v : Word) (dirty : List (Nat × List Byte)) (s : State) : Host.Outcome State Fault Refusal :=
  s.upd (fun d => if F.hlBiasCtl_GO.get v = 1 then d.guarded req .hlBiasCtl v (Dev.flipBias v dirty) else d)

/-! ## Identity, attestation, ownership (R460 to R469) -/

/-- The locked feature vector, or bit 0 alone (R453). -/
def Dev.featBytes (d : Dev) : List Byte :=
  if d.flag .hlFeatCtl F.hlFeatCtl_LOCKED then
    bytesOf 8 (d.rd (.hlFeatAccept 0)).toNat ++ bytesOf 8 (d.rd (.hlFeatAccept 1)).toNat
  else bytesOf 16 1

/-- R465: the attestation report. -/
def Dev.attestReport (d : Dev) (b : Board) (q : Nat) (nonce : List Byte) : List Byte :=
  bytesOf 4 0x31545441 ++ bytesOf 2 1 ++ bytesOf 2 d.leaf ++ bytesOf 4 q ++
    bytesOf 4 (d.fld .glBootStatus F.glBootStatus_FWVER) ++ d.featBytes ++ sliceB nonce 0 32 ++
    sha256 (b.unitMap ++ (b.fences.filter FenceRec.ok).flatMap (fun r => Config.fenceRecord r.core r.unfence)) ++
    (if d.loaded then (List.range 4).flatMap (fun j => bytesOf 8 (d.rd (.glImgDigest j)).toNat) else zeros 32)

/-- R465: one attestation: the report and the identity signature over it, or the mailbox status of a refusal. -/
def Dev.attest (nonce : List Byte) (d : Dev) : Dev × Except Nat (List Byte) :=
  match d.flag .glBootStatus F.glBootStatus_ATTEST, d.board, d.topq with
  | true, some b, some q =>
    if 1024 ≤ d.leaf then (d, .error 3)
    else
      ({ d with leaf := d.leaf + 1 },
        .ok (d.attestReport b q nonce ++ (List.range 5396).map (Config.attestSigByte d.leaf q)))
  | _, _, _ => (d, .error 2)

/-- R467 to R469: a new owner key with its authorisation; `signed` says that a record signed by Otbavia authorises it. The mailbox
status is the answer. -/
def Dev.ownerSet (bs : List Byte) (signed : Bool) (d : Dev) : Dev × Nat :=
  let key := bs.take 60
  let sig := bs.drop 60
  match d.board with
  | none => (d, 4)
  | some b =>
    if bs.length < 60 then (d, 1)
    else if !hssKeyOk key then (d, 4)
    else if !b.fuse then
      ((({ d with board := some { b with ownerKey := some key, fuse := true } }.setFld .glBootStatus F.glBootStatus_OWNED 1).emit
        (.flashOwner key)).emit .flashFuse, 0)
    else if signed || (match d.ownerKey with
        | some k => hssVerify k sig key
        | none => false) then
      ({ d with board := some { b with ownerKey := some key } }.emit (.flashOwner key), 0)
    else (d, 4)

/-- R449: what IDENTITY answers. -/
def Dev.mboxIdentity (bs : List Byte) (d : Dev) : Dev :=
  match d.board with
  | some b => if bs.isEmpty then d.mboxEnd 0 (b.idKey ++ b.unitMap) else d.mboxEnd 1 []
  | none => d.mboxEnd 1 []

/-- R465: what ATTEST answers. -/
def Dev.mboxAttest (bs : List Byte) (d : Dev) : Dev :=
  if bs.length ≠ 32 then d.mboxEnd 1 []
  else match d.attest bs with
    | (d, .ok r) => d.mboxEnd 0 r
    | (d, .error e) => d.mboxEnd e []

/-- R467, R468: what OWNER_SET answers. -/
def Dev.mboxOwner (signed : Bool) (bs : List Byte) (d : Dev) : Dev :=
  let r := if 8192 < bs.length then (d, 1) else d.ownerSet bs signed
  r.1.mboxEnd r.2 []

/-- IDENTITY (R449). -/
def execIdentity (req : Req) (len : Nat) (s : State) : Host.Outcome State Fault Refusal :=
  s.upd (Dev.guarded req .hlMboxCtl (mboxWord 1 len) (Dev.mboxGo req 1 (len % 65536) Dev.mboxIdentity))

/-- ATTEST (R465). -/
def execAttest (req : Req) (len : Nat) (s : State) : Host.Outcome State Fault Refusal :=
  s.upd (Dev.guarded req .hlMboxCtl (mboxWord 2 len) (Dev.mboxGo req 2 (len % 65536) Dev.mboxAttest))

/-- OWNER_SET (R467, R468). -/
def execOwnerSet (req : Req) (len : Nat) (signed : Bool) (s : State) : Host.Outcome State Fault Refusal :=
  s.upd (Dev.guarded req .hlMboxCtl (mboxWord 3 len) (Dev.mboxGo req 3 (len % 65536) (Dev.mboxOwner signed)))

/-- MAILBOX_BAD_REQUEST (R449): an unused CMD. -/
def execMailboxBadRequest (req : Req) (cmd len : Nat) (s : State) : Host.Outcome State Fault Refusal :=
  s.upd (fun d =>
    if cmd % 256 ≤ 4 then d
    else d.guarded req .hlMboxCtl (mboxWord cmd len) (Dev.mboxGo req (cmd % 256) (len % 65536) (fun _ d => d.mboxEnd 1 [])))

/-- IDENTITY_TREES_BUILT (R462, R464). -/
def execIdentityTreesBuilt (ok : Bool) (s : State) : Host.Outcome State Fault Refusal :=
  s.upd (fun d => if d.custodianOn then
      d.setFld .glBootStatus F.glBootStatus_ATTEST
        (b2n (ok && d.topq.isSome && (match d.board with
          | some b => b.idCacheOk
          | none => false)))
    else d)

/-! ## Doorbells and restarts (R450 to R452) -/

/-- A write of HL_HOST_DB: bit `k` raises vector 1 + `k`. -/
def Dev.hostDb (v : Word) (d : Dev) : Dev :=
  (List.range 48).foldl (fun d k => if bit v.toNat k then d.emit (.msix (1 + k)) else d) d

/-- HL_HOST_DB_WRITE (R450). -/
def execHlHostDbWrite (req : Req) (v : Word) (s : State) : Host.Outcome State Fault Refusal :=
  s.upd (Dev.guarded req .hlHostDb v (Dev.hostDb v))

/-- R452: a control core restarts: what it waits for is abandoned and its trackers freed, taken calls become untaken. -/
def Dev.restartCc (k : Nat) (d : Dev) : Dev :=
  if !d.loaded then d
  else
    let keep := d.fabric.trackers.filter (fun t => !(t.cc == some k && (t.fetch || t.seq.isNone)))
    let d := { d with fabric := { d.fabric with trackers := keep } }
    let x := d.cc k
    (d.setCc k { x with calls := x.calls.map (fun p => (p.1, { p.2 with taken := false })) }).ccStart k

/-- RESTART (R451, R452). -/
def execRestart (req : Req) (k : Nat) (s : State) : Host.Outcome State Fault Refusal :=
  s.upd (Dev.guarded req (.ccCtl k) 1 (Dev.restartCc k))

/-- DB_SET (R451). -/
def execDbSet (req : Req) (k : Nat) (s : State) : Host.Outcome State Fault Refusal :=
  s.upd (Dev.guarded req (.ccCtl k) 2 (Dev.setFld (.ccCtl k) F.ccCtl_DB 1))

/-! ## Feature negotiation (R453 to R456) -/

/-- The vector is locked: STAGE passes to IMAGE, and a held START loads its image (R456). -/
def Dev.lockMade (d : Dev) : Dev :=
  let d := d.setFld .hlFeatCtl F.hlFeatCtl_LOCKED 1
  let d := if d.fld .glBootStatus F.glBootStatus_STAGE = 4 then (d.setFld .glBootStatus F.glBootStatus_STAGE 5).healthDue else d
  d.heldStart

/-- R454: LOCK. -/
def Dev.featLock (d : Dev) : Dev :=
  let a (j : Nat) : Nat := (d.rd (.hlFeatAccept j)).toNat
  let o (j : Nat) : Nat := (d.rd (.hlFeatOffer j)).toNat
  if d.flag .hlFeatCtl F.hlFeatCtl_LOCKED then d
  else if a 0 &&& o 0 = a 0 ∧ a 1 &&& o 1 = a 1 ∧ bit (a 0) 0 then d.lockMade
  else d.setFld .hlFeatCtl F.hlFeatCtl_LERR 1

/-- LOCK (R454). -/
def execFeatLock (req : Req) (s : State) : Host.Outcome State Fault Refusal := s.upd (Dev.guarded req .hlFeatCtl 1 Dev.featLock)

/-- HOSTLESS (R455): the custodian locks the offered vector. -/
def execHostless (s : State) : Host.Outcome State Fault Refusal :=
  s.upd (fun d =>
    if d.fld .glBootStatus F.glBootStatus_STAGE = 4 ∧ !d.hostLink ∧ !d.flag .hlFeatCtl F.hlFeatCtl_LOCKED then
      let d := (d.wr (.hlFeatAccept 0) (d.rd (.hlFeatOffer 0))).wr (.hlFeatAccept 1) (d.rd (.hlFeatOffer 1))
      (d.setFld .hlFeatCtl F.hlFeatCtl_HOSTLESS 1).lockMade
    else d)

/-! ## The link and power (R448, R457; 20 R553) -/

/-- HOST_LINK_DOWN (R448). -/
def execHostLinkDown (s : State) : Host.Outcome State Fault Refusal := s.upd Dev.linkDown

/-- HOST_LINK_UP (R448). -/
def execHostLinkUp (s : State) : Host.Outcome State Fault Refusal :=
  s.upd (fun d => if d.pwrGood ∧ !d.perst then { d with hostLink := true } else d)

/-- POWER_GOOD (20 R553): the power-on sequence runs on what flash holds and training finds. -/
def execPowerGood (board : Board) (boot : Boot) (s : State) : Host.Outcome State Fault Refusal :=
  s.upd (fun d =>
    if d.pwrGood then d else { d with board := some board, boot := some boot, pwrGood := true }.startUp board boot)

end Sys2Proof.Machine
end

