-- ==== Sys2Proof/Machine/Mgmt.lean ====
section
/-! DEFINITION. The management port (20 R561 to R565) and the mailbox command MGMT, which carries its messages (16 R449). A message's
fields follow its tag, least significant byte first (log entry 24). -/

namespace Sys2Proof.Machine

/-! ## Sensors (R558, R562, R566) -/

/-- GL_SUPPLY_STATUS: no command gives the input power, so PIN is free (log entry 6). -/
def Dev.supplyRead (d : Dev) : Word :=
  let w := d.rd .glSupplyStatus
  if d.pwrGood then F.glSupplyStatus_PIN.put (Config.freeIndex d.free 0) w else w

/-- GL_THERM_STATUS: no command gives the sensors of the processor die, the fabric dies and the lid, so their readings are free. -/
def Dev.thermRead (d : Dev) : Word :=
  let w := d.rd .glThermStatus
  if d.pwrGood then
    F.glThermStatus_TPROC.put (Config.freeIndex d.free 1) (F.glThermStatus_TFAB.put (Config.freeIndex d.free 2)
      (F.glThermStatus_LID_IN.put (Config.freeIndex d.free 3) (F.glThermStatus_LID_OUT.put (Config.freeIndex d.free 4) w)))
  else w

/-! ## The health summary (R565) -/

/-- A port or the host link that trained at start-up is down. -/
def Dev.portDownNow (d : Dev) : Bool :=
  match d.boot with
  | none => false
  | some t =>
    (t.hostLink && !d.hostLink) || t.ports.any (fun p => !d.flag (.fbPort p.1 p.2.1) F.fbPort_UP) ||
      t.far.any (fun p => !d.flag (.ftPort p.1) F.ftPort_UP) || t.plant.any (fun p => !d.flag (.ppStatus p) F.ppStatus_LINK)

/-- The 64 bytes of a health summary with a sequence number. -/
def Dev.healthBytes (d : Dev) (n : Nat) : List Byte :=
  let boot := Reg.glBootStatus
  bytesOf 4 n ++ bytesOf 8 d.ns ++ bytesOf 1 (d.fld boot F.glBootStatus_STAGE + 128 * b2n d.faultN) ++
    bytesOf 1 (d.fld .glImgStatus F.glImgStatus_STATE + 16 * d.fld .glImgInfo F.glImgInfo_CLASS) ++
    bytesOf 1 d.tideState ++ bytesOf 1 (d.fld .glCoreCount F.glCoreCount_FENCED) ++
    bytesOf 2 (d.fld .glSupplyStatus F.glSupplyStatus_VIN / 10) ++ bytesOf 2 (F.glSupplyStatus_PIN.get d.supplyRead) ++
    bytesOf 2 (d.fld .glPwrCap F.glPwrCap_CAP) ++ bytesOf 1 (d.fld .glThermStatus F.glThermStatus_TS_MAX) ++
    bytesOf 1 (d.fld .glThermStatus F.glThermStatus_TJ_MAX) ++
    bytesOf 1 ((List.range 32).foldl (fun a v => max a (d.fld (.cvTherm v) F.cvTherm_STEP)) 0) ++
    bytesOf 1 (d.fld .glErrStatus F.glErrStatus_SUPPLY_WARN + 2 * d.fld .glErrStatus F.glErrStatus_FATAL_PREV +
      4 * b2n d.portDownNow + 8 * d.fld boot F.glBootStatus_ATTEST) ++
    bytesOf 4 (d.fld (.ppStatus 0) F.ppStatus_MISSES + d.fld (.ppStatus 1) F.ppStatus_MISSES) ++
    bytesOf 6 (d.fld .cnChoiceBit F.cnChoiceBit_COUNT) ++ bytesOf 6 (d.fld .cnChoiceTime F.cnChoiceTime_COUNT) ++
    bytesOf 4 (d.fld .clStatus F.clStatus_SEQ) ++ bytesOf 4 (d.fld .glFolioStatus F.glFolioStatus_VGEN) ++ zeros 14

/-- HEALTH_SUMMARY (R565). -/
def execHealthSummary (s : State) : Host.Outcome State Fault Refusal :=
  s.upd (fun d =>
    if d.custodianOn then
      let x := d.healthBytes d.mgmt.seq
      { d with mgmt := { d.mgmt with seq := (d.mgmt.seq + 1) % 2 ^ 32, sentAt := d.cycle, due := false } }.bumpWrap .glMgmtStatus
        F.glMgmtStatus_SUMMARIES 1 |>.emit (.health x)
    else d)

/-! ## The commands (R564); `mail` says that the request came through the mailbox -/

/-- A command is handled: it is counted, and has its effect. -/
def Dev.otbavia (f : Dev → Dev) (d : Dev) : Dev :=
  if d.custodianOn then f (d.bumpWrap .glMgmtStatus F.glMgmtStatus_COMMANDS 1) else d

/-- HEALTH_GET. -/
def Dev.otHealth (mail : Bool) (tag : Nat) (d : Dev) : Dev := d.mgmtReply mail 1 tag 0 (d.healthBytes d.mgmt.seq)

/-- FENCE_CORE: its reply is sent when the fence reports. -/
def Dev.otFence (mail : Bool) (tag c : Nat) (persist : Bool) (d : Dev) : Dev :=
  if d.nCores ≤ c then d.mgmtReply mail 2 tag 1 []
  else if d.flag .glFenceCtl F.glFenceCtl_BUSY || (d.core c).fence.isSome || (d.core c).sound.isSome then d.mgmtReply mail 2 tag 2 []
  else if d.coreFenced c then (d.fenceAsk c 4 none persist).mgmtReply mail 2 tag 0 (bytesOf 1 1)
  else d.fenceAsk c 4 (some (waitTag mail tag)) persist

/-- SOUND: its reply is sent when the test ends. -/
def Dev.otSound (mail : Bool) (tag c : Nat) (full : Bool) (d : Dev) : Dev :=
  if d.nCores ≤ c then d.mgmtReply mail 3 tag 1 []
  else if d.flag (.coreSound c) F.coreSound_BUSY || (d.core c).fence.isSome then d.mgmtReply mail 3 tag 2 []
  else d.soundStart c full none (some (waitTag mail tag))

/-- A register written as the custodian writes it, and read back; a write that the register's rules ignore is REFUSED. -/
def Dev.otWrite (mail : Bool) (code tag : Nat) (r : Reg) (w : Word) (d : Dev) : Dev :=
  if d.writeTaken r w then
    let d := d.wrAt r (r.written w (d.rd r))
    d.mgmtReply mail code tag 0 (bytesOf 8 (d.rd r).toNat)
  else d.mgmtReply mail code tag 3 []

/-- SET_CAP. -/
def Dev.otCap (mail : Bool) (tag cap floor : Nat) (d : Dev) : Dev :=
  if 8192 ≤ cap ∨ 8192 ≤ floor then d.mgmtReply mail 4 tag 1 []
  else d.otWrite mail 4 tag .glPwrCap (F.glPwrCap_CAP.put cap (F.glPwrCap_FLOOR.put floor 0))

/-- SET_THRESH. -/
def Dev.otThresh (mail : Bool) (tag warn rst : Nat) (d : Dev) : Dev :=
  if 256 ≤ warn ∨ 256 ≤ rst then d.mgmtReply mail 5 tag 1 []
  else d.otWrite mail 5 tag .glSupplyCfg (F.glSupplyCfg_WARN.put warn (F.glSupplyCfg_RESET.put rst 0))

/-- A colophon entry's 32 bytes (17 R507); one never written reads zero. -/
def Dev.logBytes (d : Dev) (i : Nat) : List Byte :=
  match d.log.find? (fun p => p.1 == i) with
  | some p =>
    let e := p.2
    bytesOf 8 e.tide.toNat ++ bytesOf 8 e.time ++ bytesOf 2 e.source ++ bytesOf 2 e.code ++ bytesOf 4 e.seq ++ bytesOf 8 e.data.toNat
  | none => zeros 32

/-- LOG_FETCH. -/
def Dev.otLog (mail : Bool) (tag first count : Nat) (d : Dev) : Dev :=
  if 16384 ≤ first ∨ count = 0 ∨ 30 < count then d.mgmtReply mail 6 tag 1 []
  else d.mgmtReply mail 6 tag 0
    (bytesOf 8 (d.rd .clStatus).toNat ++ (List.range count).flatMap (fun j => d.logBytes ((first + j) % 16384)))

/-- RESET: the reply is sent first. -/
def Dev.otReset (mail : Bool) (tag : Nat) (d : Dev) : Dev := (d.mgmtReply mail 7 tag 0 []).packageReset 3

/-- A reply cut into messages of at most 1,016 bytes of data (R561). -/
def cutReply : Nat → List Byte → List (List Byte)
  | 0, _ => []
  | n + 1, bs => if bs.length ≤ 1016 then [bs] else bs.take 1016 :: cutReply n (bs.drop 1016)

/-- ATTEST (16 R466): over several messages on the port. -/
def Dev.otAttest (mail : Bool) (tag : Nat) (nonce : List Byte) (d : Dev) : Dev :=
  if nonce.length ≠ 32 then d.mgmtReply mail 8 tag 1 []
  else match d.attest nonce with
    | (d, .error _) => d.mgmtReply mail 8 tag 4 []
    | (d, .ok x) =>
      if mail then d.mgmtReply mail 8 tag 0 x else (cutReply 8 x).foldl (fun d y => d.mgmtReply mail 8 tag 0 y) d

/-- OWNER_SET (16 R467 to R469). -/
def Dev.otOwner (mail : Bool) (tag : Nat) (bs : List Byte) (signed : Bool) (d : Dev) : Dev :=
  let r := d.ownerSet bs signed
  r.1.mgmtReply mail 9 tag (if r.2 = 4 then 3 else r.2) []

/-- REPARENT (16 R472, R476). -/
def Dev.otReparent (mail : Bool) (tag id : Nat) (d : Dev) : Dev :=
  if d.torusIn id then (d.reparentTo id).mgmtReply mail 0x0A tag 0 [] else d.mgmtReply mail 0x0A tag 1 []

/-- ADD_CHILD (16 R476). -/
def Dev.otAdd (mail : Bool) (tag id : Nat) (d : Dev) : Dev :=
  if !d.torusIn id then d.mgmtReply mail 0x0B tag 1 []
  else if !d.bcast.verified then d.mgmtReply mail 0x0B tag 3 []
  else (d.addChildTo id).mgmtReply mail 0x0B tag 0 []

/-- DROP_CHILD (16 R472). -/
def Dev.otDrop (mail : Bool) (tag id : Nat) (d : Dev) : Dev :=
  if d.torusIn id then (d.dropChildOf id).mgmtReply mail 0x0C tag 0 [] else d.mgmtReply mail 0x0C tag 1 []

/-! ## The rows of the port -/

/-- HEALTH_GET. -/
def execHealthGet (tag : Nat) (s : State) : Host.Outcome State Fault Refusal := s.upd (Dev.otbavia (Dev.otHealth false tag))

/-- FENCE_CORE. -/
def execFenceCore (tag c : Nat) (persist : Bool) (s : State) : Host.Outcome State Fault Refusal :=
  s.upd (Dev.otbavia (Dev.otFence false tag c persist))

/-- SOUND. -/
def execSound (tag c : Nat) (full : Bool) (s : State) : Host.Outcome State Fault Refusal :=
  s.upd (Dev.otbavia (Dev.otSound false tag c full))

/-- SET_CAP. -/
def execSetCap (tag cap floor : Nat) (s : State) : Host.Outcome State Fault Refusal :=
  s.upd (Dev.otbavia (Dev.otCap false tag cap floor))

/-- SET_THRESH. -/
def execSetThresh (tag warn rst : Nat) (s : State) : Host.Outcome State Fault Refusal :=
  s.upd (Dev.otbavia (Dev.otThresh false tag warn rst))

/-- LOG_FETCH. -/
def execLogFetch (tag first count : Nat) (s : State) : Host.Outcome State Fault Refusal :=
  s.upd (Dev.otbavia (Dev.otLog false tag first count))

/-- RESET. -/
def execMgmtReset (tag : Nat) (s : State) : Host.Outcome State Fault Refusal := s.upd (Dev.otbavia (Dev.otReset false tag))

/-- MANAGEMENT_ATTEST. -/
def execManagementAttest (tag : Nat) (nonce : List Byte) (s : State) : Host.Outcome State Fault Refusal :=
  s.upd (Dev.otbavia (Dev.otAttest false tag nonce))

/-- MANAGEMENT_OWNER_SET. -/
def execManagementOwnerSet (tag : Nat) (req : List Byte) (signed : Bool) (s : State) : Host.Outcome State Fault Refusal :=
  s.upd (Dev.otbavia (Dev.otOwner false tag req signed))

/-- REPARENT. -/
def execReparent (tag id : Nat) (s : State) : Host.Outcome State Fault Refusal := s.upd (Dev.otbavia (Dev.otReparent false tag id))

/-- ADD_CHILD. -/
def execAddChild (tag id : Nat) (s : State) : Host.Outcome State Fault Refusal := s.upd (Dev.otbavia (Dev.otAdd false tag id))

/-- DROP_CHILD. -/
def execDropChild (tag id : Nat) (s : State) : Host.Outcome State Fault Refusal := s.upd (Dev.otbavia (Dev.otDrop false tag id))

/-! ## MGMT (16 R449) -/

/-- A message in the mailbox: enterprise number, code, tag, fields; a code or length that R564 does not give is BAD_REQUEST. -/
def Dev.otMessage (bs : List Byte) (signed : Bool) (d : Dev) : Dev :=
  let code := numAt bs 4 1
  let tag := numAt bs 5 1
  let n := bs.length - 6
  let f1 := numAt bs 6 1
  let f2 := numAt bs 7 1
  let w := numAt bs 6 2
  match code, n with
  | 1, 0 => d.otHealth true tag
  | 2, 2 => if f2 ≤ 1 then d.otFence true tag f1 (f2 == 1) else d.mgmtReply true 2 tag 1 []
  | 3, 2 => if f2 ≤ 1 then d.otSound true tag f1 (f2 == 1) else d.mgmtReply true 3 tag 1 []
  | 4, 4 => d.otCap true tag w (numAt bs 8 2)
  | 5, 2 => d.otThresh true tag f1 f2
  | 6, 3 => d.otLog true tag w (numAt bs 8 1)
  | 7, 0 => d.otReset true tag
  | 8, 32 => d.otAttest true tag (bs.drop 6)
  | 9, _ => d.otOwner true tag (bs.drop 6) signed
  | 0x0A, 2 => d.otReparent true tag w
  | 0x0B, 2 => d.otAdd true tag w
  | 0x0C, 2 => d.otDrop true tag w
  | c, _ => d.mgmtReply true c tag 1 []

/-- What MGMT answers. -/
def Dev.mboxMgmt (signed : Bool) (bs : List Byte) (d : Dev) : Dev :=
  if bs.length < 6 ∨ 8192 < bs.length ∨ bs.take 4 ≠ enterprise then d.mboxEnd 1 [] else d.otbavia (Dev.otMessage bs signed)

/-- MGMT (16 R449; R564). -/
def execMgmt (req : Req) (len : Nat) (signed : Bool) (s : State) : Host.Outcome State Fault Refusal :=
  s.upd (Dev.guarded req .hlMboxCtl (mboxWord 4 len) (Dev.mboxGo req 4 (len % 65536) (Dev.mboxMgmt signed)))

/-- What the custodian does with a mailbox request of any CMD; no Otbavia record goes with it. -/
def Dev.mboxServe (cmd : Nat) (bs : List Byte) (d : Dev) : Dev :=
  match cmd with
  | 1 => d.mboxIdentity bs
  | 2 => d.mboxAttest bs
  | 3 => d.mboxOwner false bs
  | 4 => d.mboxMgmt false bs
  | _ => d.mboxEnd 1 []

/-! ## MCTP, PLDM, I3C (R561 to R563) -/

/-- MCTP_CONTROL (R562): the endpoint identifier, or what the port supports. -/
def execMctpControl (m : MctpReq) (s : State) : Host.Outcome State Fault Refusal :=
  s.upd (fun d =>
    if d.custodianOn then
      (match m with
       | .setEid e =>
         let d := d.setFld .glMgmtStatus F.glMgmtStatus_EID e
         d.emit (.mctp (bytesOf 1 (d.fld .glMgmtStatus F.glMgmtStatus_EID)))
       | .getEid => d.emit (.mctp (bytesOf 1 (d.fld .glMgmtStatus F.glMgmtStatus_EID)))
       | .getVersion => d.emit (.mctp (bytesOf 4 (Config.freeWord d.free).toNat)) |> fun d => { d with free := d.free + 1 }
       | .getTypes => d.emit (.mctp [0x00, 0x01, 0x7F]))
    else d)

/-- A numeric sensor of R562: 0 input voltage, 1 input power, 2 to 6 the maxima of the groups of the sensor table, in its order. -/
def Dev.sensor (d : Dev) (id : Nat) : Option Nat :=
  let t := d.thermRead
  match id with
  | 0 => some (d.fld .glSupplyStatus F.glSupplyStatus_VIN)
  | 1 => some (F.glSupplyStatus_PIN.get d.supplyRead)
  | 2 => some (d.fld .glThermStatus F.glThermStatus_TS_MAX)
  | 3 => some (d.fld .glThermStatus F.glThermStatus_TJ_MAX)
  | 4 => some (F.glThermStatus_TPROC.get t)
  | 5 => some (F.glThermStatus_TFAB.get t)
  | 6 => some (max (F.glThermStatus_LID_IN.get t) (F.glThermStatus_LID_OUT.get t))
  | _ => none

/-- PLDM_MONITORING (R562). -/
def execPldmMonitoring (m : PldmReq) (s : State) : Host.Outcome State Fault Refusal :=
  s.upd (fun d =>
    if d.custodianOn then
      (match m with
       | .baseDiscovery => d.emit (.pldm [0, 2, 5])
       | .sensor id => (match d.sensor id with
         | some v => d.emit (.pldm (bytesOf 2 v))
         | none => d.emit (.pldm [])))
    else d)

/-- R563: a part of a firmware image, or its end, when the copy that does not run is written. -/
def Dev.firmware (m : FwReq) (d : Dev) : Dev :=
  match m with
  | .data bs => { d with mgmt := { d.mgmt with fw := d.mgmt.fw ++ bs } }
  | .finish v =>
    let set (b : Board) : Board := if d.mgmt.runsB then { b with fwA := v } else { b with fwB := v }
    ({ d with board := d.board.map set, mgmt := { d.mgmt with fw := [] } }).emit (.flashFirmware d.mgmt.fw)

/-- PLDM_FIRMWARE_UPDATE (R563). -/
def execPldmFirmwareUpdate (m : FwReq) (s : State) : Host.Outcome State Fault Refusal :=
  s.upd (fun d => if d.custodianOn then d.firmware m else d)

/-- I3C_DYNAMIC_ADDRESS_ASSIGNMENT (R561). -/
def execI3cDynamicAddressAssignment (addr : Nat) (s : State) : Host.Outcome State Fault Refusal :=
  s.upd (fun d => if d.pwrGood then
      (d.setFld .glMgmtStatus F.glMgmtStatus_DADDR addr).setFld .glMgmtStatus F.glMgmtStatus_DVALID 1
    else d)

end Sys2Proof.Machine
end

