-- ==== Sys2Proof/Machine/Plant.lean ====
section
/-! DEFINITION. The rows of the plant ports (14): commit points, keep-alive, reception, `pp.fbload` and `pp.send`, the link. -/

namespace Sys2Proof.Machine

/-! ## Slots -/

/-- R397: the slot's commit point has come in this cycle and has not been taken. -/
def Dev.commitDue (d : Dev) (p n : Nat) : Bool :=
  (d.tideState == 2 || d.tideState == 3) && d.loaded && decide (p < 2) && decide (n < 64) && d.slotOn p n &&
    !(d.plant p).committed.contains n && !d.tide.fired.contains (d.slotMark p n) &&
    decide (d.markOff (d.slotMark p n) - d.lfld (.ppSlotTime p n) F.ppSlotTime_LEAD ≤ d.tidePos)

/-- SLOT_COMMIT (R397, R398, R400, R404). -/
def execSlotCommit (dt p n : Nat) (held : Bool) (s : State) : Host.Outcome State Fault Refusal :=
  s.upd (fun d =>
    let d := d.elapse dt
    if d.commitDue p n then d.commitSlot p n held else d)

/-- KEEP_ALIVE_SEND (R409). -/
def execKeepAliveSend (dt p n : Nat) (s : State) : Host.Outcome State Fault Refusal :=
  s.upd (fun d =>
    let d := d.elapse dt
    if p < 2 ∧ n < 64 ∧ d.kaDue p n then d.kaSend p n else d)

/-! ## Reception (R411, R412) -/

/-- A big-endian field of a frame. -/
def beAt (f : List Byte) (o n : Nat) : Nat := ofBytes ((sliceB f o n).reverse)

/-- A frame carries an 802.1Q tag. -/
def tagged (f : List Byte) : Bool := beAt f 12 2 == 0x8100

/-- Where the EtherType that R411 reads stands. -/
def etypeAt (f : List Byte) : Nat := if tagged f then 16 else 12

/-- The offset of a UDP header: an IPv4 packet, first fragment, protocol 17. -/
def udpAt (f : List Byte) : Option Nat :=
  let l3 := etypeAt f + 2
  let ihl := beAt f l3 1 % 16
  if beAt f (etypeAt f) 2 = 0x0800 ∧ beAt f l3 1 / 16 = 4 ∧ 5 ≤ ihl ∧ beAt f (l3 + 6) 2 % 2 ^ 13 = 0 ∧ beAt f (l3 + 9) 1 = 17 ∧
      l3 + 4 * ihl + 8 ≤ f.length then
    some (l3 + 4 * ihl)
  else none

/-- R411: filter `n` matches. -/
def Dev.rxMatch (d : Dev) (p n : Nat) (f : List Byte) : Bool :=
  let r := Reg.ppRxf p n
  let udp := d.lfld r F.ppRxf_UDP
  let vm := d.lfld r F.ppRxf_VMODE
  d.lfld r F.ppRxf_EN == 1 && d.lfld r F.ppRxf_ETYPE == beAt f (etypeAt f) 2 &&
    ((vm == 0 && !tagged f) || vm == 1 || (vm == 2 && tagged f && beAt f 14 2 % 2 ^ 12 == d.lfld r F.ppRxf_VID)) &&
    (udp == 0 || (match udpAt f with
      | some o => beAt f (o + 2) 2 == udp
      | none => false))

/-- A dropped frame is counted. -/
def Dev.rxDrop (p : Nat) (d : Dev) : Dev := d.bump (.ppStatus p) F.ppStatus_RX_DROP 1

/-- R412: a taken frame's entry. -/
def rxEntry (tide : Word) (ns frac seq filter port : Nat) (f : List Byte) : List Byte :=
  bytesOf 8 tide.toNat ++ (bytesOf 2 frac ++ bytesOf 6 ns) ++ bytesOf 4 seq ++ bytesOf 2 f.length ++ bytesOf 1 filter ++
    bytesOf 1 (port + 2 * b2n (tagged f)) ++ zeros 40 ++ f

/-- R411, R412: the filters, the ring and its counter. Replayed frames enter here (18 R520). -/
def Dev.rxFilter (p : Nat) (f : List Byte) (d : Dev) : Dev :=
  match (List.range 16).find? (fun n => d.rxMatch p n f) with
  | none => d.rxDrop p
  | some n =>
    let ring := d.lfld (.ppRxf p n) F.ppRxf_RING
    let r := Reg.ppRxRing p ring
    let x := d.plant p
    let w := tget 0 ring x.rxW
    let a := d.fld r F.ppRxRing_BASE * 2048 + 2048 * (w % 2 ^ d.fld r F.ppRxRing_LOG2SIZE)
    let d := d.store a (rxEntry d.tide.count d.ns d.nsFrac (w % 2 ^ 32) n p f) { acc := some ⟨0, 1⟩ }
    let d := d.setPlant p { x with rxW := tset ring (w + 1) x.rxW }
    d.sigAdd (d.fld r F.ppRxRing_SIG) 1

/-- A pause or PFC frame: MAC control with its opcode. -/
def pauseFrame (f : List Byte) : Bool :=
  beAt f (etypeAt f) 2 == 0x8808 && [0x0001, 0x0101].contains (beAt f (etypeAt f + 2) 2)

/-- R396, R411: the FCS, size and address checks; pause and PFC frames are dropped. -/
def Dev.rxOk (d : Dev) (p : Nat) (f : List Byte) (fcsOk : Bool) : Bool :=
  fcsOk && decide (60 ≤ f.length) && decide (f.length ≤ 1518) && !pauseFrame f &&
    (beAt f 0 1 % 2 == 1 || beAt f 0 6 == d.fld (.ppCfg p) F.ppCfg_MAC)

/-- FRAME_RECEIVE (R411, R412; 18 R516, R520): `f` is the frame without FCS. With no image loaded no filter is enabled, and it is
dropped. -/
def execFrameReceive (dt p : Nat) (f : List Byte) (fcsOk : Bool) (s : State) : Host.Outcome State Fault Refusal :=
  s.upd (fun d =>
    let d := d.elapse dt
    if p < 2 ∧ d.flag (.ppStatus p) F.ppStatus_LINK then
      if d.replayed 2 then d.liveDrop
      else
        let d := d.countCn 0x0D 1
        if d.rxOk p f fcsOk then (d.recInput 2 p f.length f).rxFilter p f else d.rxDrop p
    else d)

/-! ## Commands (R413) -/

/-- Reads `n` bytes at a virtual address of a plant command: bytes and bad words, or the detail of a fault. -/
def Dev.ppRead (d : Dev) (root va n : Nat) : Dev × Except Nat (List Byte × List BadWord) :=
  match d.vaPieces root (va % 2 ^ 64) false 2 n with
  | .error e => (d, .error (e * 2 ^ 28))
  | .ok ps =>
    let bad := d.tableBad root (va % 2 ^ 64) n ++ ps.flatMap (fun p => d.badIn p.1 p.2)
    let r := d.pullPieces (some ⟨0, 1⟩) ps
    (r.1, .ok (r.2, bad.eraseDups))

/-- A frame buffer (R399): its first word is read, then its frame. A failing status and detail, or the buffer. -/
def Dev.ppBuffer (d : Dev) (root va : Nat) : Dev × Except (Nat × Nat) (List Byte) :=
  match d.ppRead root va 8 with
  | (d, .error e) => (d, .error (stAddrFault, e))
  | (d, .ok (hd, bad)) =>
    if !bad.isEmpty then (d.uncorrAll bad, .error (stMemUncorr, 0))
    else if !lenOk (bufLen hd) then (d, .error (0x801, 0))
    else
      match d.ppRead root va (64 + bufLen hd) with
      | (d, .error e) => (d, .error (stAddrFault, e))
      | (d, .ok (buf, bad)) =>
        if !bad.isEmpty then (d.uncorrAll bad, .error (stMemUncorr, 0)) else (d, .ok (hd ++ buf.drop 8))

/-- PP_FBLOAD: the frame is read; it applies once the command has completed (R406). -/
def Dev.fbload (q : Nat) (d : Dev) : Dev :=
  let ws := d.runParams q
  let n := bits (wd ws 1) 5 0
  if fbRsv ws [2 ^ 64 - 1, 63] || wd ws 0 % 64 != 0 || d.lfld (.ppSlotTime (d.qTarget q) n) F.ppSlotTime_EN == 0 then d.finish q 0x800 0
  else
    match d.ppBuffer (d.rootOf (d.qHome q)) (wd ws 0) with
    | (d, .error e) => d.finish q e.1 e.2
    | (d, .ok buf) => d.setRun q (fun r => { r with rdata := [(n, buf)] })

/-- PP_FBLOAD (R406, R413). -/
def execPpFbload (q : Nat) (s : State) : Host.Outcome State Fault Refusal := s.upd (Dev.startCmd q 0x700 (fun _ => Dev.fbload q))

/-- R403: a slot that leaves on the port has passed its commit point and its mark has not fired. -/
def Dev.txHeld (d : Dev) (p : Nat) : Bool :=
  (if d.dup && p == 1 then [0, 1] else [p]).any (fun o =>
    (d.plant o).chosen.any (fun c => !d.tide.fired.contains (d.slotMark o c.1)))

/-- R413: the PTP Timestamp of package time, in network byte order, as the frame carries it. -/
def ptpStamp (ns : Nat) : List Byte := (bytesOf 6 (ns / 10 ^ 9 % 2 ^ 48)).reverse ++ (bytesOf 4 (ns % 10 ^ 9)).reverse

/-- Bytes replaced within a frame. -/
def patchAt (f : List Byte) (o : Nat) (bs : List Byte) : List Byte := f.take o ++ bs ++ f.drop (o + bs.length)

/-- The frame that `pp.send` sends. -/
def sendFrameOf (ws : List Word) (ns : Nat) (buf : List Byte) : List Byte :=
  let f := bufFrame buf
  let f := if bit (wd ws 2) 0 then patchAt f (bits (wd ws 2) 26 16) (ptpStamp ns) else f
  if bit (wd ws 2) 1 then
    (match udpAt f with
     | some o => patchAt f (o + 6) [0, 0]
     | none => f)
  else f

/-- PP_SEND: the frame leaves at this instant, and its time is written first. -/
def Dev.sendNow (q : Nat) (d : Dev) : Dev :=
  let ws := ((d.agentRun q).map Run.params).getD []
  let n := ((d.agentRun q).map Run.serial).getD 0
  let p := d.qTarget q
  let root := ((d.agentRun q).map Run.root).getD 0
  match d.ppBuffer root (wd ws 0) with
  | (d, .error e) => d.finishN q n e.1 e.2
  | (d, .ok buf) =>
    if bit (wd ws 2) 0 && decide (bufLen buf < bits (wd ws 2) 26 16 + 10) then d.finishN q n 0x800 0
    else if !d.flag (.ppStatus p) F.ppStatus_LINK then d.finishN q n 0x802 0
    else
      let stamp := (bytesOf 2 d.nsFrac ++ bytesOf 6 d.ns) ++ bytesOf 8 d.tide.count.toNat
      let done (d : Dev) : Dev := (d.emit (.frame p (wireFrame (sendFrameOf ws d.ns buf)))).finishN q n 0 0
      if wd ws 1 = 0 then done d
      else
        match d.vaPieces root (wd ws 1) true 2 16 with
        | .error e => d.finishN q n stAddrFault (e * 2 ^ 28)
        | .ok ps => done ((d.storePieces (d.who q) ps stamp).noteDsts q n d.fabric.seqTx)

/-- PP_SEND (R403, R413): a `pp.send` starts and its frame leaves; one that R403 held leaves at a later row of its queue. -/
def execPpSend (q dt : Nat) (s : State) : Host.Outcome State Fault Refusal :=
  s.upd (fun d =>
    let d := d.elapse dt
    let go (d : Dev) : Dev := if d.txHeld (d.qTarget q) then d else d.sendNow q
    if (d.queue q).runs.any (fun r => dRtn r.desc == 0x701 && !r.done) then go d
    else
      d.startCmd q 0x701 (fun _ d =>
        let ws := d.runParams q
        if fbRsv ws [2 ^ 64 - 1, 2 ^ 64 - 1, 0x7FF0003] || wd ws 0 % 64 != 0 || wd ws 1 % 16 != 0 then d.finish q 0x800 0
        else go (d.setRun q (fun r => { r with done := false }))))

/-! ## The link (R408) -/

/-- PLANT_LINK_DOWN. -/
def execPlantLinkDown (p : Nat) (s : State) : Host.Outcome State Fault Refusal :=
  s.upd (fun d =>
    if p < 2 ∧ d.flag (.ppStatus p) F.ppStatus_LINK then (d.setFld (.ppStatus p) F.ppStatus_LINK 0).healthDue else d)

/-- PLANT_LINK_UP. -/
def execPlantLinkUp (p : Nat) (s : State) : Host.Outcome State Fault Refusal :=
  s.upd (fun d => if p < 2 ∧ d.pwrGood then d.setFld (.ppStatus p) F.ppStatus_LINK 1 else d)

end Sys2Proof.Machine
end

