-- ==== Sys2Proof/Machine/QueueCmds.lean ====
section
/-! DEFINITION. The rows of the command queues (09): doorbells, resume and stop, signal counters, completion, and the `cq.`
commands. -/

namespace Sys2Proof.Machine

/-! ## Doorbells, control, signal counters -/

/-- R241, R242, 19 R543: a doorbell write of a new TAIL, whoever makes it. -/
def Dev.ringTail (q new : Nat) (d : Dev) : Dev :=
  let x := d.queue q
  if d.fld .glFolioStatus F.glFolioStatus_STATE = 4 ∨ x.mode = .drain ∨
      (x.mode ≠ .unbound ∧ d.qKind q ≤ 4 ∧ d.coreFenced (d.qTarget q)) then d
  else
    let step := diff32 new (d.qTail q)
    if step = 0 ∨ 2 ^ 31 ≤ step then d
    else if diff32 new (d.qHead q) ≤ d.ringSize q then
      (Dev.skipRun q skipFuel (d.setFld (.cqDoorbell q) F.cqDoorbell_TAIL new)).noteHead q
    else d.setFld (.cqStatus q) F.cqStatus_DBERR 1

/-- A write of CQ_DOORBELL: a host write is counted and recorded, and dropped while doorbells are replayed (18 R516, R520). -/
def Dev.doorbell (req : Req) (q : Nat) (v : Word) (d : Dev) : Dev :=
  let new := F.cqDoorbell_TAIL.get v
  if req = .host then
    if d.replayed 3 then d.liveDrop
    else ((d.countCn 3 1).recInput 3 0 (q + new * 2 ^ 12) []).ringTail q new
  else d.ringTail q new

/-- 17 R482, R486, R487, R497: the decoding of a descriptor fails its parity `par` times: the front end decodes it again, and a second
failure fences its core. A queue of another agent has no core to fence (log entry 16). -/
def Dev.frontParity (q par : Nat) (d : Dev) : Dev :=
  let c := d.qTarget q
  let own := decide (d.qKind q ≤ 4)
  let seen (d : Dev) : Dev := if own then d.chkCount c 7 else d
  if par = 0 ∨ (d.queue q).mode = .unbound then d
  else if d.flag .glChkCtl F.glChkCtl_MASK then (List.range (min par 2)).foldl (fun d _ => seen d) d
  else if own && d.coreRetrying c then (seen d).fence c 1 false none true
  else
    let n := (d.fld (.cqSerial q) ⟨47, 0⟩ + 1) % 2 ^ 48
    let d := (seen d).retryEvent (if own then source 1 (d.phys c) else source 0 0) 7 q n false
    let d := if own then d.countCore c 0x0C 1 else d
    if par = 1 ∨ !own then d else (seen d).fence c 1 false none true

/-- DOORBELL_WRITE (R238, R241, R242; 17 R482): a new descriptor is decoded where TAIL moves. -/
def execDoorbellWrite (req : Req) (q : Nat) (b : Bell) (s : State) : Host.Outcome State Fault Refusal :=
  s.upd (Dev.guarded req (.cqDoorbell q) b.tail (fun d =>
    let t := d.qTail q
    let d := d.doorbell req q b.tail
    if d.qTail q = t then d else d.frontParity q b.par))

/-- R254: RESUME leaves ERROR or STOPPED. -/
def Dev.resumeQueue (q : Nat) (d : Dev) : Dev :=
  let x := d.queue q
  if x.mode = .error ∨ x.mode = .stopped then d.setQueue q { x with mode := .on } else d

/-- CQ_RESUME (R239, R254). -/
def execCqResume (req : Req) (q : Nat) (s : State) : Host.Outcome State Fault Refusal :=
  s.upd (Dev.guarded req (.cqCtl q) 1 (Dev.resumeQueue q))

/-- R254: STOP holds later starts. -/
def Dev.stopQueue (q : Nat) (d : Dev) : Dev :=
  let x := d.queue q
  if x.mode = .on ∨ x.mode = .error then d.setQueue q { x with mode := .stopped } else d

/-- CQ_STOP (R239, R254). -/
def execCqStop (req : Req) (q : Nat) (s : State) : Host.Outcome State Fault Refusal :=
  s.upd (Dev.guarded req (.cqCtl q) 2 (Dev.stopQueue q))

/-- R249: a software write of a signal counter replaces it, or adds with ADD 1. -/
def Dev.writeSig (n : Nat) (v : Word) (d : Dev) : Dev :=
  if F.cqSig_ADD.get v = 1 then d.sigAdd n (F.cqSig_VALUE.get v)
  else d.setFld (.cqSig n) F.cqSig_VALUE (F.cqSig_VALUE.get v)

/-- SIGNAL_COUNTER_WRITE (R238, R249). -/
def execSignalCounterWrite (req : Req) (n : Nat) (v : Word) (s : State) : Host.Outcome State Fault Refusal :=
  s.upd (Dev.guarded req (.cqSig n) v (Dev.writeSig n v))

/-! ## Start checks and completion -/

/-- A failing command of the front end carries its routine in DETAIL (R269). -/
def Dev.finishCq (q rtn status : Nat) (d : Dev) : Dev := d.finish q status (if status = 0 then 0 else rtn)

/-- ROUTINE_INVALID (R236, R267, R570): a head descriptor that fails a check before its command's own. -/
def execRoutineInvalid (q : Nat) (s : State) : Host.Outcome State Fault Refusal :=
  s.upd (fun d => match d.readyDesc q with
    | some ws =>
      let st := d.preStatus q ws
      if st ≠ 0 ∧ (isCq (dRtn ws) || d.agentFree q) ∧ d.takesOk q ws then
        let d := (d.begin q ws).finish q st (if isCq (dRtn ws) then dRtn ws else 0)
        (Dev.skipRun q skipFuel d).noteHead q
      else d
    | none => d)

/-- 14 R406: at completion, the frame that a `pp.fbload` has read applies from the slot's next commit point. -/
def Dev.takeFallback (p : Nat) (r : Run) (d : Dev) : Dev :=
  let x := d.plant p
  d.setPlant p { x with loaded := r.rdata.foldl (fun l e => tset e.1 e.2 l) x.loaded }

/-- COMMAND_COMPLETION (R250, R251, R253, R254; 07 R197; 12 R351; 19 R536): the oldest command of a queue that has nothing left to
do; the posts of a vector command land first. -/
def execCommandCompletion (q : Nat) (s : State) : Host.Outcome State Fault Refusal :=
  s.upd (fun d => match (d.queue q).runs with
    | r :: _ =>
      if r.over && !d.frozenRun q r && d.acked r then
        let d := if d.qKind q = 2 then d.postAll (d.qTarget q) else d
        let d := if dRtn r.desc = 0x700 then d.takeFallback (d.qTarget q) r else d
        let d := d.completeRun q r
        if d.qKind q = 2 then d.takeGen (d.qTarget q) else d
      else d
    | [] => d)

/-- CQ_NOP (R268). -/
def execCqNop (q : Nat) (s : State) : Host.Outcome State Fault Refusal := s.upd (Dev.startCmd q 1 (fun _ d => d))

/-! ## Patching, loops -/

/-- R258: one block copied from stage to live. -/
def Dev.copyBlock (h b : Nat) (d : Dev) : Dev :=
  (List.range 16).foldl (fun d w => d.wr (.coreParam h b w) (d.rd (.corePstage h b w))) d

/-- CQ_PATCHFENCE (R258). -/
def execCqPatchfence (q : Nat) (s : State) : Host.Outcome State Fault Refusal :=
  s.upd (Dev.startCmd q 2 (fun ws d =>
    let first := bits (dArg ws 0) 8 0
    let n := bits (dArg ws 1) 9 0
    if n = 0 ∨ 512 < first + n then d.finishCq q 2 stDescInvalid
    else (List.range n).foldl (fun d j => d.copyBlock (d.qHome q) (first + j)) d))

/-- CQ_LOOP (R259, R260). -/
def execCqLoop (q : Nat) (s : State) : Host.Outcome State Fault Refusal :=
  s.upd (fun d0 => d0.startCmd q 3 (fun ws d =>
    let x := d.queue q
    let count := wd (d.runParams q) (dArg ws 0 % 16)
    if 4 ≤ x.loops.length then d.finishCq q 3 0x13
    else if count = 0 then
      d.setQueue q { x with skip := 1, skipAt := if (d0.queue q).replay.isSome then none else (d.run q).map Run.slot }
    else d.setQueue q { x with loops := ⟨x.pos, x.replay, count⟩ :: x.loops }))

/-- CQ_ENDLOOP (R259, R260). -/
def execCqEndloop (q : Nat) (s : State) : Host.Outcome State Fault Refusal :=
  s.upd (Dev.startCmd q 4 (fun _ d =>
    let x := d.queue q
    match x.loops with
    | [] => d.finishCq q 4 0x14
    | l :: t =>
      if 1 < l.left then
        d.setQueue q { x with pos := l.pos, replay := l.replay, loops := { l with left := l.left - 1 } :: t }
      else d.setQueue q { x with loops := t }))

/-! ## Record and replay -/

/-- MAGIC of a segment header (R262). -/
def segMagic : Nat := 0x31534751

/-- R261, R263: `n` descriptors of a segment at `a` lie in stacked memory, at a multiple of 64. -/
def segFits (a n : Nat) : Bool := a % 64 == 0 && decide (a + 64 + 64 * n ≤ stackSize)

/-- CQ_RECORD (R261, R264). -/
def execCqRecord (q : Nat) (s : State) : Host.Outcome State Fault Refusal :=
  s.upd (fun d0 => d0.startCmd q 5 (fun ws d =>
    let x0 := d0.queue q
    let x := d.queue q
    let a := dArg ws 0
    if x0.replay.isSome ∨ x0.rcd.isSome ∨ !x0.loops.isEmpty then d.finishCq q 5 0x15
    else if !segFits a 8192 then d.finishCq q 5 0x16
    else
      (d.setQueue q { x with rcd := some ⟨a, bit (dArg ws 1) 0, 0, x.pos, 0⟩ }).storeStack a
        (bytesOf 4 segMagic ++ bytesOf 2 0 ++ bytesOf 1 (d.qKind q) ++ zeros 57)))

/-- R261: one descriptor is copied into the open segment. -/
def Dev.copyDesc (q : Nat) (r : Rec) (ws : List Word) (d : Dev) : Dev :=
  let x := d.queue q
  let depth := if dRtn ws = 3 then r.depth + 1 else if dRtn ws = 4 then r.depth - 1 else r.depth
  let r' := { r with count := r.count + 1, next := (r.next + 1) % 2 ^ 32, depth := depth }
  let y := if r.exec then x else { x.past with seen := false, markOk := false }
  let d := (d.setQueue q { y with rcd := some r' }).storeStack (r.addr + 64 + 64 * r.count)
    (ws.flatMap (fun w => bytesOf 8 w.toNat))
  (Dev.skipRun q skipFuel d).noteHead q

/-- SEGMENT_COPY (R243, R261, R262): the next descriptor is copied, or, as the 8,193rd at the head, completes SEG_FULL. -/
def execSegmentCopy (q : Nat) (s : State) : Host.Outcome State Fault Refusal :=
  s.upd (fun d =>
    let x := d.queue q
    match x.rcd with
    | none => d
    | some r =>
      let ws := d.ringDesc q r.next
      if d.avail q r.next = 0 ∨ dRtn ws = 5 ∨ dRtn ws = 6 ∨ dRtn ws = 7 then d
      else if r.count < 8192 then (if r.exec ∨ x.pos = r.next then d.copyDesc q r ws else d)
      else if x.pos = r.next ∧ x.replay.isNone ∧ x.mode = .on ∧ !d.holding q then
        let d := d.setQueue q { x with rcd := none, skip := 0 }
        let d := (d.beginWith q ws false).finish q 0x17 (if isCq (dRtn ws) then dRtn ws else 0)
        (Dev.skipRun q skipFuel d).noteHead q
      else d)

/-- CQ_ENDREC (R261, R264). -/
def execCqEndrec (q : Nat) (s : State) : Host.Outcome State Fault Refusal :=
  s.upd (fun d0 => d0.startCmd q 6 (fun _ d =>
    let x0 := d0.queue q
    if x0.replay.isSome then d.finishCq q 6 0x15
    else match x0.rcd with
      | none => d.finishCq q 6 0x16
      | some r =>
        if r.depth ≠ 0 ∨ !x0.loops.isEmpty ∨ r.count = 0 then d.finishCq q 6 0x16
        else
          ((d.setQueue q { d.queue q with rcd := none }).storeStack (r.addr + 4) (bytesOf 2 r.count)).storeStack
            (r.addr + 7) [1]))

/-- CQ_REPLAY (R263, R264). -/
def execCqReplay (q : Nat) (s : State) : Host.Outcome State Fault Refusal :=
  s.upd (fun d0 => d0.startCmd q 7 (fun ws d =>
    let x0 := d0.queue q
    let a := dArg ws 0
    let hdr := d.memRead a 8
    let count := numAt hdr 4 2
    if x0.replay.isSome ∨ x0.rcd.isSome then d.finishCq q 7 0x15
    else if !segFits a 0 ∨ numAt hdr 0 4 ≠ segMagic ∨ numAt hdr 7 1 = 0 ∨ count = 0 ∨ 8192 < count ∨
        numAt hdr 6 1 ≠ d.qKind q ∨ !segFits a count then d.finishCq q 7 0x16
    else d.setQueue q { d.queue q with replay := some ⟨a, count, 0⟩ }))

/-! ## Routine banks -/

/-- CQ_SWAPBANK (R268): it waits, holding the core's starts, until nothing fetches from the active bank. -/
def execCqSwapbank (q : Nat) (s : State) : Host.Outcome State Fault Refusal :=
  s.upd (fun d =>
    let c := d.qTarget q
    if d.bankRuns c then d
    else d.startCmd q 8 (fun _ d =>
      let r := Reg.coreRbank c
      if d.flag r F.coreRbank_VERIFIED then
        let d := d.setCore c { d.core c with bankDirty := true }
        ((d.setFld r F.coreRbank_ACTIVE (1 - d.fld r F.coreRbank_ACTIVE)).setFld r F.coreRbank_VERIFIED 0).bumpWrap
          r F.coreRbank_SWAPS 1
      else d.finishCq q 8 0x18))

/-- R265: a write to a routine bank. -/
def Dev.bankWrite (c bank word : Nat) (v : Word) (d : Dev) : Dev :=
  let r := Reg.coreRbank c
  if d.fld r F.coreRbank_ACTIVE = bank then d
  else ((d.wr (.coreBank c bank word) v).setFld r F.coreRbank_VERIFIED 0).setCore c { d.core c with bankDirty := true }

/-- ROUTINE_BANK_WRITE (R265); `off` is the byte offset within the bank, of a 64-bit access. -/
def execRoutineBankWrite (req : Req) (c bank off : Nat) (v : Word) (s : State) : Host.Outcome State Fault Refusal :=
  s.upd (fun d => if off % 8 = 0 then d.guarded req (.coreBank c bank (off / 8)) v (Dev.bankWrite c bank (off / 8) v) else d)

/-- R266: the verification of the standby bank starts. -/
def Dev.verifyStart (c : Nat) (d : Dev) : Dev :=
  if d.flag (.coreRbank c) F.coreRbank_BUSY then d
  else (d.setFld (.coreRbank c) F.coreRbank_BUSY 1).setCore c { d.core c with bankDirty := false }

/-- VERIFY (R266). -/
def execVerify (req : Req) (c : Nat) (s : State) : Host.Outcome State Fault Refusal :=
  s.upd (Dev.guarded req (.coreRbank c) 4 (Dev.verifyStart c))

/-- BANK_VERIFY_END (R266, R267): `ok` says whether the signature verifies, `dir` is the bank's directory. -/
def execBankVerifyEnd (c : Nat) (ok : Bool) (dir : List (Nat × Nat × Nat)) (s : State) : Host.Outcome State Fault Refusal :=
  s.upd (fun d =>
    let r := Reg.coreRbank c
    if d.flag r F.coreRbank_BUSY then
      let d := d.setFld r F.coreRbank_BUSY 0
      if ok && !(d.core c).bankDirty then
        (d.setFld r F.coreRbank_VERIFIED 1).setCore c { d.core c with
          dirs := tset (1 - d.fld r F.coreRbank_ACTIVE) dir (d.core c).dirs }
      else d.setFld r F.coreRbank_VFAIL 1
    else d)

end Sys2Proof.Machine
end

