-- ==== Sys2Proof/Machine/Counters.lean ====
section
/-! DEFINITION. The rows of recording, replay and the counter reader (18 R516 to R526). -/

namespace Sys2Proof.Machine

/-! ## Recording (R518) -/

/-- R518: space has returned in the record ring: a MARKER carries the count of entries lost, a TIDE entry opened since the stop among
them. -/
def Dev.recResume (d : Dev) : Dev :=
  if d.recd.on ∧ d.recd.lost ≠ 0 ∧ 32 ≤ d.recSpace then
    let d := d.recClose
    ({ d with recd := { d.recd with lost := 0 } }).recEntry 6 0 d.tide.count d.cycle (2 + d.recd.lost % 2 ^ 40 * 2 ^ 8) []
  else d

/-- RECORD_RESUME (R518). -/
def execRecordResume (s : State) : Host.Outcome State Fault Refusal := s.upd Dev.recResume

/-- R516: a recording ends with a MARKER. -/
def Dev.recStop (d : Dev) : Dev :=
  if d.recd.on then
    let d := d.recClose.recEntry 6 0 d.tide.count d.cycle 1 []
    ({ d with recd := { d.recd with on := false, lost := 0 } }).reachReg .cnRecRing
  else d

/-! ## Replay (R519 to R521) -/

/-- R519: a GO in state IDLE arms a replay, which starts at once if an image is loaded. -/
def Dev.rplArm (d : Dev) : Dev :=
  if d.fld .cnRplStatus F.cnRplStatus_STATE = 0 then
    let d := d.setFld .cnRplStatus F.cnRplStatus_STATE 1
    if d.loaded then d.rplStart else d
  else d

/-- REPLAY_GO (R519). -/
def execReplayGo (req : Req) (kinds : Nat) (s : State) : Host.Outcome State Fault Refusal :=
  s.upd (Dev.guarded req .cnRplCtl (BitVec.ofNat 64 (1 + kinds % 64 * 256))
    (fun d => (d.setFld .cnRplCtl F.cnRplCtl_KINDS kinds).rplArm))

/-- R521: ARM_OFF. -/
def Dev.rplDisarm (d : Dev) : Dev :=
  if d.fld .cnRplStatus F.cnRplStatus_STATE = 1 then d.setFld .cnRplStatus F.cnRplStatus_STATE 0 else d

/-- ARM_OFF (R521). -/
def execArmOff (req : Req) (s : State) : Host.Outcome State Fault Refusal := s.upd (Dev.guarded req .cnRplCtl 2 Dev.rplDisarm)

/-- Bytes of the replay ring from a position. -/
def Dev.rplBytes (d : Dev) (p n : Nat) : List Byte := d.memRead (d.lfld .cnRplRing F.cnRplRing_BASE * 64 + p) n

/-- R521: the replay ends: state 3 is DONE, 4 is ERROR. -/
def Dev.rplEnd (st : Nat) (d : Dev) : Dev :=
  (({ d with recd := { d.recd with rplOn := false } }).setFld .cnRplStatus F.cnRplStatus_STATE st).reachReg .cnRplRing

/-- R520: a TIDE item drives the gate; the count's direction is the recorded one. -/
def Dev.rplTide (ev : Nat) (d : Dev) : Dev :=
  let dir := d.flag .tgSrcCfg F.tgSrcCfg_DIR
  match ev with
  | 0 => d.edgeIn (!dir) false
  | 1 => d.edgeIn dir false
  | 2 => d.zIn
  | 3 => d.edgeIn (!dir) true
  | 4 => d.mainsIn true
  | 5 => d.ppsIn
  | 7 => d.ptpLossIn
  | _ => d

/-- R520: an entry of another kind acts as the input it records. -/
def Dev.rplEntry (kind port info : Nat) (bs : List Byte) (d : Dev) : Dev :=
  match kind with
  | 2 => if port < 2 then d.rxFilter port (bs.take (info % 65536)) else d
  | 3 =>
    let q := info % 4096
    let v := BitVec.ofNat 64 (bits info 43 12)
    d.guarded .host (.cqDoorbell q) v (fun d => ((d.countCn 3 1).recInput 3 0 info []).ringTail q v.toNat)
  | 4 =>
    let w := BitVec.ofNat 64 info
    let cmd := F.hlMboxCtl_CMD.get w
    let len := F.hlMboxCtl_LEN.get w
    let d := d.mboxPut (bs.take len)
    (d.recInput 4 0 info (bs.take len)).mboxSubmit cmd len (Dev.mboxServe cmd)
  | 5 => d.relayIn (relayOf bs)
  | _ => d

/-- The replay moves to the next entry, or ends where the ring is exhausted. -/
def Dev.rplNext (len : Nat) (d : Dev) : Dev :=
  let p := d.recd.rplPos + len
  let d := { d with recd := { d.recd with rplPos := p, rplItem := 0 } }
  if 2 ^ d.lfld .cnRplRing F.cnRplRing_LOG2SIZE < p + 32 then d.rplEnd 3 else d

/-- The cycles from the reference point of a TIDE entry to its item `j`. -/
def itemTime (bs : List Byte) (j : Nat) : Nat := (List.range (j + 1)).foldl (fun a i => a + numAt bs (4 * i) 3) 0

/-- R519 to R521: the next entry or item is delivered if its time has come. -/
def Dev.rplDeliver (d : Dev) : Dev :=
  let h := d.rplBytes d.recd.rplPos 32
  let seq := numAt h 16 4
  let kind := numAt h 20 1
  let len := numAt h 22 2
  let info := numAt h 24 8
  let first := d.recd.rplPos == 0
  let bad := kind == 0 || decide (6 < kind) || decide (len < 32) ||
    (!first && d.recd.rplItem == 0 && seq != (d.recd.rplSeq + 1) % 2 ^ 32)
  if bad then (d.setFld .cnRplStatus F.cnRplStatus_SEQ seq).rplEnd 4
  else
    let cyc := numAt h 8 8
    let d := if first && d.recd.rplItem == 0 then { d with recd := { d.recd with rplFirst := cyc } } else d
    let bs := d.rplBytes (d.recd.rplPos + 32) (len - 32)
    let j := d.recd.rplItem
    let at1 := cyc + (if kind = 1 then itemTime bs j else 0)
    if d.cycle + d.recd.rplFirst < d.recd.rplAt + at1 then d
    else
      let take := bit (d.fld .cnRplCtl F.cnRplCtl_KINDS) (kind - 1)
      let ev := bits (numAt bs (4 * j) 4) 27 24
      if kind = 1 ∧ 7 < ev then (d.setFld .cnRplStatus F.cnRplStatus_SEQ seq).rplEnd 4
      else
        let d := { d with recd := { d.recd with rplSeq := seq } }
        let d := if take then d.setFld .cnRplStatus F.cnRplStatus_SEQ seq else d
        if kind = 1 ∧ info % 256 = 0 then d.rplNext len
        else if kind = 1 then
          let d := if take then d.rplTide ev else d
          if j + 1 < info % 256 then { d with recd := { d.recd with rplItem := j + 1 } } else d.rplNext len
        else if kind = 6 ∧ info % 256 = 1 then d.rplEnd 3
        else (if take then d.rplEntry kind (numAt h 21 1) info bs else d).rplNext len

/-- REPLAY_DELIVER (R519 to R521). -/
def execReplayDeliver (dt : Nat) (s : State) : Host.Outcome State Fault Refusal :=
  s.upd (fun d =>
    let d := d.elapse dt
    if d.recd.rplOn then d.rplDeliver else d)

/-! ## Snapshots (R525, R526) -/

/-- SNAP (R525). -/
def execSnap (req : Req) (s : State) : Host.Outcome State Fault Refusal :=
  s.upd (Dev.guarded req .cnRdCtl (BitVec.ofNat 64 (2 + s.dev.fld .cnRdCtl F.cnRdCtl_EN)) (Dev.latchCounters 1 0))

/-- A counter's shadow in a snapshot. -/
def Dev.shadow (d : Dev) (r : Reg) : List Byte := bytesOf 8 (d.fld r ⟨47, 0⟩)

/-- R526: the 16 KiB of a snapshot slot. -/
def Dev.snapBytes (d : Dev) (x : Snap) (seq : Nat) : List Byte :=
  let core (c : Nat) : List Byte :=
    if c < d.nCores then (List.range 8).flatMap (fun n => d.shadow (.corePmcShadow c n)) else zeros 64
  bytesOf 8 x.tide.toNat ++ bytesOf 8 x.time ++ bytesOf 8 x.no ++ bytesOf 4 seq ++
    bytesOf 1 (d.fld .glImgInfo F.glImgInfo_CLASS) ++ bytesOf 1 1 ++ bytesOf 1 x.trigger ++ bytesOf 1 x.mark ++
    bytesOf 8 x.bit ++ bytesOf 8 x.tim ++ zeros 16 ++ (List.range 192).flatMap core ++
    (List.range 32).flatMap (fun v => (List.range 8).flatMap (fun n => d.shadow (.cvPmcShadow v n))) ++
    (List.range 2).flatMap (fun f => (List.range 32).flatMap (fun n => d.shadow (.fbPmcShadow f n))) ++
    (List.range 16).flatMap (fun n => d.shadow (.cnPmcShadow n)) ++
    (List.range 4).flatMap (fun n => d.shadow (.tgPmcShadow n)) ++ zeros 1312

/-- R526: the reader writes the latched snapshot into its slot. -/
def Dev.snapWrite (d : Dev) : Dev :=
  match d.snap with
  | none => d
  | some x =>
    let n := d.fld .cnRdStatus F.cnRdStatus_SEQ
    let slots := 2 ^ d.lfld .cnRdRing F.cnRdRing_LOG2SLOTS
    let a := d.lfld .cnRdRing F.cnRdRing_BASE * 16384 + 16384 * (n % slots)
    let d := d.storeStack a (d.snapBytes x n)
    let d := { d with snap := none }.reachReg .cnRdRing
    (d.setFld .cnRdStatus F.cnRdStatus_BUSY 0).setFld .cnRdStatus F.cnRdStatus_SEQ (n + 1)

/-- SNAPSHOT_WRITE (R526). -/
def execSnapshotWrite (s : State) : Host.Outcome State Fault Refusal := s.upd Dev.snapWrite

end Sys2Proof.Machine
end

