-- ==== Sys2Proof/Machine/Folio.lean ====
section
/-! DEFINITION. The rows of folios (19): triggers and requests, the copy and its commit, abandonment, and restore. -/

namespace Sys2Proof.Machine

/-- GL_FOLIO_STATUS.STATE: 0 IDLE, 1 REQUESTED, 2 COPYING, 3 COMMITTING, 4 RESTORING. -/
def Dev.folioState (d : Dev) : Nat := d.fld .glFolioStatus F.glFolioStatus_STATE

/-- The folio's state set. -/
def Dev.setFolioState (n : Nat) (d : Dev) : Dev := d.setFld .glFolioStatus F.glFolioStatus_STATE n

/-- An image with a folio group is loaded, and this package is a member. -/
def Dev.folioOn (d : Dev) : Bool := d.loaded && d.feat 7 && decide (4 ≤ d.folioG) && d.folioSlots.contains d.slot

/-! ## Triggers and requests (R534, R535) -/

/-- R534, R535: rank 0 asks for a folio point, or counts a trigger while a folio is under way. -/
def Dev.folioAsk (d : Dev) : Dev :=
  if !d.folioOn || d.rank != 0 then d
  else if d.folioState ≠ 0 then d.bump .glFolioStatus F.glFolioStatus_SKIPPED 1
  else
    let x := d.tide.count.toNat + 2 * d.tideLen
    ({ d with folio := { d.folio with requested := some x } }.setFolioState 1).emit (.folioReq x)

/-- R534: a trigger of TRIG occurs. -/
def Dev.folioDue (d : Dev) : Bool :=
  let steps := d.lfld .glFolioTrig F.glFolioTrig_STEPS
  let ms := d.lfld .glFolioTrig F.glFolioTrig_MS
  (steps != 0 && decide (steps ≤ d.folio.steps)) ||
    (ms != 0 && decide (ms * 1000000 * nsUnit ≤ (d.ptime + 2 ^ 113 - d.folio.lastAt) % 2 ^ 113))

/-- FOLIO_TRIGGER (R534). -/
def execFolioTrigger (s : State) : Host.Outcome State Fault Refusal :=
  s.upd (fun d => if d.folioDue then d.folioAsk else d)

/-- FOLIO_GO (R534). -/
def execFolioGo (req : Req) (s : State) : Host.Outcome State Fault Refusal := s.upd (Dev.guarded req .glFolioCtl 1 Dev.folioAsk)

/-- FOLIO_REQUEST (R535): a request that comes while this member still commits waits for that end. -/
def execFolioRequest (x : Nat) (s : State) : Host.Outcome State Fault Refusal :=
  s.upd (fun d =>
    if !d.folioOn || d.folioState == 4 then d
    else
      let d := { d with folio := { d.folio with requested := some x } }
      if d.folioState = 0 then d.setFolioState 1 else d)

/-! ## Copy and commit (R540, R541) -/

/-- R540: the next leaf of the background copy; the last header leaf waits for the generator states (R536). -/
def Dev.nextLeaf (d : Dev) : Option Nat :=
  (List.range d.folioL).find? (fun j => !d.folio.copied.contains j && (j != 10 || d.folio.genWait.isEmpty))

/-- LEAF_COPY (R540). -/
def execLeafCopy (s : State) : Host.Outcome State Fault Refusal :=
  s.upd (fun d =>
    if d.folioState = 2 then
      (match d.nextLeaf with
       | some j => d.takeLeaf ⟨2, 1⟩ j
       | none => d)
    else d)

/-- R540: a commit record. -/
def Dev.commitRecord (d : Dev) : List Byte :=
  let b := bytesOf 4 0x31434C46 ++ bytesOf 1 d.rank ++ bytesOf 1 d.folioG ++ zeros 2 ++ bytesOf 8 d.folio.gen ++
    bytesOf 4 d.folioL ++ zeros 40
  b ++ bytesOf 4 (crc32c b)

/-- R540: every leaf is copied and acknowledged. -/
def Dev.leavesDone (d : Dev) : Bool :=
  (List.range d.folioL).all (fun j => d.folio.copied.contains j) &&
    d.folio.sent.all (fun p => decide (diff32 (tget 0 p.1 d.fabric.ackTx) p.2 < 2 ^ 31))

/-- R540: the commit record goes into the commit leaf of every member. -/
def Dev.folioCommitNow (d : Dev) : Dev :=
  let b := d.commitRecord
  let off := d.folioG * d.folioT * 65536 + 64 * d.rank
  let a := d.reserveAt d.folio.half + off
  let others := (List.range d.folioG).filter (· != d.rank)
  let tx := others.foldl (fun t k =>
    let s := d.folioSlots.getD k 0
    tset s ((tget 0 s t + 1) % 2 ^ 32) t) d.fabric.seqTx
  let d := (d.store a b {}).setFolioState 3
  others.foldl (fun d k => d.emit (.folioCommit k b)) { d with fabric := { d.fabric with seqTx := tx } }

/-- FOLIO_COMMIT (R540). -/
def execFolioCommit (s : State) : Host.Outcome State Fault Refusal :=
  s.upd (fun d => if d.folioState = 2 ∧ d.leavesDone then d.folioCommitNow else d)

/-- FOLIO_VALID (R541). -/
def execFolioValid (s : State) : Host.Outcome State Fault Refusal :=
  s.upd (fun d =>
    if d.folioState = 3 ∧ d.halfGen d.folioG d.folioL d.folio.half = some d.folio.gen then
      let r := Reg.glFolioStatus
      let d := ((d.setFld r F.glFolioStatus_VGEN d.folio.gen).setFld r F.glFolioStatus_LAST 1).setFld r F.glFolioStatus_CAUSE 0
      d.setFolioState (if d.folio.requested.isSome then 1 else 0)
    else d)

/-! ## Abandonment (R542) -/

/-- GL_FOLIO_CTL.ABORT: the running folio is abandoned, or a restore ends with SHAPE. -/
def Dev.folioStop (d : Dev) : Dev :=
  if d.folioState = 4 then
    { d with folio := { d.folio with choices := [], chosen := none, rcode := none } }.setFld .glFolioStatus F.glFolioStatus_RCODE 4
      |>.setFolioState 0
  else d.folioAbandon 2 true

/-- FOLIO_ABORT (R542). -/
def execFolioAbort (req : Req) (s : State) : Host.Outcome State Fault Refusal := s.upd (Dev.guarded req .glFolioCtl 2 Dev.folioStop)

/-- ABANDON_NOTICE (R542): the same folio is abandoned, unless this member already holds it valid. -/
def execAbandonNotice (gen cause : Nat) (s : State) : Host.Outcome State Fault Refusal :=
  s.upd (fun d =>
    let st := d.folioState
    if (st = 1 ∧ gen = d.folio.gen + 1) ∨ ((st = 2 ∨ st = 3) ∧ gen = d.folio.gen ∧
        d.halfGen d.folioG d.folioL d.folio.half ≠ some gen) then d.folioAbandon cause false else d)

/-! ## Restore (R543 to R547) -/

/-- GF(2⁸) product with polynomial 0x11D, over the low `n` bits of the first factor. -/
def gfMul : Nat → Byte → Byte → Byte
  | 0, _, _ => 0
  | n + 1, a, b => (if a.getLsbD 0 then b else 0) ^^^ gfMul n (a >>> 1) (gfDouble b)

/-- The inverse of a non-zero element: its power 254. -/
def gfInv (a : Byte) : Byte :=
  let a2 := gfMul 8 a a
  let a4 := gfMul 8 a2 a2
  let a8 := gfMul 8 a4 a4
  let a16 := gfMul 8 a8 a8
  let a32 := gfMul 8 a16 a16
  let a64 := gfMul 8 a32 a32
  let a128 := gfMul 8 a64 a64
  gfMul 8 a128 (gfMul 8 a64 (gfMul 8 a32 (gfMul 8 a16 (gfMul 8 a8 (gfMul 8 a4 a2)))))

/-- A leaf times a constant. -/
def leafMul (k : Byte) (x : List Host.Cell) : List Host.Cell := x.map (fun c => (c.1, gfMul 8 k c.2))

/-- The group that took the generation to be restored: its members' slots in rank order, and T. -/
def Dev.oldSlots (d : Dev) : List Nat := (List.range 64).filter (fun s => bit d.folio.oldMask.toNat s)
/-- The old G. -/
def Dev.oldG (d : Dev) : Nat := d.oldSlots.length
/-- The old T. -/
def Dev.oldT (d : Dev) : Nat := (d.folio.oldL + (d.oldG - 2) - 1) / (d.oldG - 2)
/-- This package's rank in that group. -/
def Dev.oldRank (d : Dev) : Nat := d.oldSlots.idxOf d.slot

/-- R531: the rank that holds position `p` of a row of rank `m`. -/
def placeOf (g m p : Nat) : Nat := if p + 2 < g then (m + 1 + p) % g else if p + 2 = g then (m + g - 1) % g else m

/-- What a restore reads: rows as the members hold them, this member's own places from its own reserve. -/
structure RestoreView where
  g : Nat
  base : Nat
  t : Nat
  me : Nat
  lost : List Nat
  rows : RestoreRows

/-- The leaf at a position of a row, or none where its place is lost or unreadable. -/
def Dev.leafAt (d : Dev) (v : RestoreView) (m t p : Nat) : Option (List Host.Cell) :=
  let k := placeOf v.g m p
  if v.lost.contains k then none
  else if k = v.me then
    let a := v.base + (m * v.t + t) * 65536
    if (d.badIn a 65536).isEmpty then
      some (match d.locate a with
        | .stack a => Mem.cut d.mem a 65536
        | .far o => Mem.cut d.far o 65536
        | _ => [])
    else none
  else if v.rows.missing.contains (m, t, p) then none
  else some (Mem.xor [] (((v.rows.leaves.find? (fun e => e.1 == (m, t, p))).map (·.2)).getD []))

/-- R531, R545: data position `k` of a row, read or rebuilt from P and Q. -/
def Dev.dataLeaf (d : Dev) (v : RestoreView) (m t k : Nat) : Option (List Host.Cell) :=
  match d.leafAt v m t k with
  | some x => some x
  | none =>
    let n := v.g - 2
    let others := (List.range n).filter (· != k)
    let gone := others.filter (fun i => (d.leafAt v m t i).isNone)
    let have1 := others.filterMap (fun i => (d.leafAt v m t i).map (fun x => (i, x)))
    let ps := have1.foldl (fun a e => Mem.xor a e.2)
    let qs := have1.foldl (fun a e => Mem.xor a (leafMul (gfPow e.1 1) e.2))
    match gone, d.leafAt v m t n, d.leafAt v m t (n + 1) with
    | [], some p, _ => some (ps p)
    | [], none, some q => some (leafMul (gfInv (gfPow k 1)) (qs q))
    | [l], some p, some q =>
      let a := gfPow k 1
      let b := gfPow l 1
      some (leafMul (gfInv (a ^^^ b)) (Mem.xor (qs q) (leafMul b (ps p))))
    | _, _, _ => none

/-- Every data leaf of this member, or none where some row lacks more than two leaves. -/
def Dev.allLeaves (d : Dev) (v : RestoreView) : Option (List (Nat × List Host.Cell)) :=
  let xs := (List.range d.folio.oldL).map (fun j => (j, d.dataLeaf v v.me (j / (v.g - 2)) (j % (v.g - 2))))
  if xs.all (fun e => e.2.isSome) then some (xs.filterMap (fun e => e.2.map (fun x => (e.1, x)))) else none

/-- The regions' leaves written to stacked memory (R545, step 1). -/
def Dev.restoreRegions (xs : List (Nat × List Host.Cell)) (d : Dev) : Dev :=
  xs.foldl (fun d e => match d.leafAddr e.1 with
    | some a => d.pastePhys a 65536 e.2
    | none => d) d

/-- The header's bytes. -/
def headerOf (xs : List (Nat × List Host.Cell)) : List Host.Cell :=
  (xs.filter (fun e => decide (e.1 < 11))).foldl (fun m e => Mem.paste m (65536 * e.1) 65536 e.2) []

/-- A number of the header. -/
def hNum (h : List Host.Cell) (o n : Nat) : Nat := ofBytes (Mem.read h o n)

/-- Generator registers of cores below `n` (R545, step 2; R546): they replace values that wait for a start (03 R106). -/
def Dev.restoreGens (h : List Host.Cell) (n : Nat) (d : Dev) : Dev :=
  (List.range n).foldl (fun d c =>
    let w (j : Nat) : Word := BitVec.ofNat 64 (hNum h (655616 + 32 * c + 8 * j) 8)
    let d := d.setCore c { d.core c with rngHeld := [], rngRun := none }
    (((d.wr (.coreRngKey c 0) (w 0)).wr (.coreRngKey c 1) (w 1)).wr (.coreRngCtr c 0) (w 2)).wr (.coreRngCtr c 1) (w 3)) d

/-- Signal counters. -/
def Dev.restoreSigs (h : List Host.Cell) (d : Dev) : Dev :=
  (List.range 65536).foldl (fun d n => d.setFld (.cqSig n) F.cqSig_VALUE (hNum h (393472 + 4 * n) 4)) d

/-- Positions of the plant receive rings, and the record and replay pointers. -/
def Dev.restoreRings (h : List Host.Cell) (d : Dev) : Dev :=
  let d := [0, 1].foldl (fun d p =>
    d.setPlant p { d.plant p with rxW := (List.range 4).map (fun r => (r, hNum h (674048 + 8 * (4 * p + r)) 8)) }) d
  if d.feat 8 then
    let w (j : Nat) : Word := BitVec.ofNat 64 (hNum h (674112 + 8 * j) 8)
    ((d.wr .cnRecWptr (w 0)).wr .cnRecRdptr (w 1)).wr .cnRplStatus (w 2)
  else d

/-- A loop of a queue record: its place and passes left (R530; log entry 21). -/
def loopOf (head : Nat) (rp : Option Replay) (place left : Nat) : Loop :=
  if 32768 ≤ place then ⟨head, rp.map (fun r => { r with idx := place - 32768 }), left⟩
  else ⟨diff32 head ((head + 32768 - place) % 32768), none, left⟩

/-- One queue set to its record (R545, step 3). -/
def Dev.restoreQueue (h : List Host.Cell) (q : Nat) (d : Dev) : Dev :=
  let b := 256 + 96 * q
  let head := hNum h b 4
  let seg := hNum h (b + 24) 8
  let addr := seg / 64 * 64
  let rp := if bit seg 3 then some (Replay.mk addr (numAt (d.memRead (addr + 4) 2) 0 2) (hNum h (b + 18) 2)) else none
  let ls := (List.range (seg % 8)).map (fun j => loopOf head rp (hNum h (b + 32 + 2 * j) 2) (hNum h (b + 40 + 8 * j) 8))
  let d := (d.setFld (.cqDoorbell q) F.cqDoorbell_TAIL (hNum h (b + 4) 4)).setFld (.cqCread q) F.cqCread_WRITTEN (hNum h (b + 8) 4)
  let d := d.setFld (.cqSerial q) ⟨47, 0⟩ (hNum h (b + 12) 6)
  (d.setQueue q { d.queue q with pos := head, loops := ls.reverse, replay := rp, skip := 0, markOk := false, seen := false }).noteHead q

/-- The resident signature identifiers equal those of the header. -/
def Dev.sigsMatch (d : Dev) (h : List Host.Cell) : Bool :=
  (List.range d.nCores).all (fun c => (List.range 16).all (fun n =>
    hNum h (661760 + 4 * (16 * c + n)) 4 ==
      (if d.flag (.coreSig c n) F.coreSig_VALID then d.fld (.coreSig c n) F.coreSig_ID else 0)))

/-- R546: leaves of absent members whose place lay on an absent package are rebuilt into the place of their row's P leaf, which
this member holds for the rank after its own. -/
def Dev.reshapeRows (v : RestoreView) (absent : List Nat) (d : Dev) : Dev :=
  absent.foldl (fun d m =>
    if placeOf v.g m (v.g - 2) = v.me then
      (List.range v.t).foldl (fun d t =>
        ((List.range (v.g - 2)).filter (fun k => absent.contains (placeOf v.g m k))).foldl (fun d k =>
          match d.dataLeaf v m t k with
          | some x => d.pastePhys (v.base + (m * v.t + t) * 65536) 65536 x
          | none => d) d) d
    else d) d

/-- R543 to R547: what becomes of a restore of generation `gen`: its RCODE, and the package it leaves. -/
def Dev.restoreTo (gen : Nat) (lost : List Nat) (rows : RestoreRows) (d : Dev) : Dev × Nat :=
  let g := d.oldG
  let newMask := d.rd .glFolioMembers
  let absent := (List.range g).filter (fun r => !bit newMask.toNat (d.oldSlots.getD r 0))
  let gone := lost ++ absent.filter (fun r => !lost.contains r)
  let reshape := d.flag .glImgInfo F.glImgInfo_RESHAPE
  let same := newMask == d.folio.oldMask
  match (List.range 2).find? (fun h => d.halfGen g d.folio.oldL h == some gen) with
  | none => (d, 2)
  | some h =>
    if gen = 0 then (d, 2)
    else if (!same && !reshape) || newMask &&& d.folio.oldMask != newMask || decide (2 < gone.length) then (d, 4)
    else
      let v : RestoreView := ⟨g, expandPa (d.fld .glFolioCfg F.glFolioCfg_RBASE * 65536) + h * halfSize g d.folio.oldL, d.oldT,
        d.oldRank, gone, rows⟩
      match d.allLeaves v with
      | none => (d, 6)
      | some xs =>
        let hd := headerOf xs
        let n := hNum hd 24 2
        if n ≠ d.nCores ∧ !reshape then (d, 4)
        else if same && Mem.read hd 64 32 != d.folioDigest then (d, 3)
        else if !reshape && !d.sigsMatch hd then (d, 5)
        else
          let d := (d.restoreRegions xs).restoreSigs hd
          let d := d.restoreGens hd (min n d.nCores)
          let d := if reshape then d.reshapeRows v absent
            else ((d.queues.map (·.1)).filter (fun q => (d.queue q).mode != .unbound)).foldl (fun d q => d.restoreQueue hd q)
              (d.restoreRings hd)
          ({ d with folio := { d.folio with gen := gen } }.setFld .glFolioStatus F.glFolioStatus_VGEN gen, 1)

/-- CQ_SERIAL is 0 on every queue (R543). -/
def Dev.serialsZero (d : Dev) : Bool := d.queues.all (fun p => d.fld (.cqSerial p.1) ⟨47, 0⟩ == 0)

/-- R543, R544: a restore starts: the highest generation that this member's commit leaves show valid goes to rank 0. -/
def Dev.restoreStart (mask : Word) (leaves : Nat) (d : Dev) : Dev :=
  if !d.folioOn || d.folioState != 0 || !d.serialsZero then d
  else
    let d := { d with folio := { d.folio with choices := [], chosen := none, rcode := none, oldMask := mask, oldL := leaves } }
    let d := d.setFolioState 4
    let gen := ((d.validHalf d.oldG leaves none).map (·.2)).getD 0
    if d.rank = 0 then { d with folio := { d.folio with choices := [(0, gen)] } } else d.emit (.folioChoice d.rank gen)

/-- RESTORE (R543): `mask` and `leaves` describe the group that took the generation to be restored. -/
def execRestore (req : Req) (mask : Word) (leaves : Nat) (s : State) : Host.Outcome State Fault Refusal :=
  s.upd (Dev.guarded req .glFolioCtl 4 (Dev.restoreStart mask leaves))

/-- R544: rank 0 has every member's value: it announces the lowest. -/
def Dev.restoreChoose (rank gen : Nat) (d : Dev) : Dev :=
  if d.folioState ≠ 4 ∨ d.rank ≠ 0 ∨ d.folioG ≤ rank ∨ d.folio.chosen.isSome then d
  else
    let xs := tset rank gen d.folio.choices
    let d := { d with folio := { d.folio with choices := xs } }
    if xs.length < d.folioG then d
    else
      let low := xs.foldl (fun a p => min a p.2) gen
      { d with folio := { d.folio with chosen := some low } }.emit (.folioAnnounce low)

/-- RESTORE_CHOICE (R544). -/
def execRestoreChoice (rank gen : Nat) (s : State) : Host.Outcome State Fault Refusal := s.upd (Dev.restoreChoose rank gen)

/-- RESTORE_ANNOUNCEMENT (R544 to R547). -/
def execRestoreAnnouncement (gen : Nat) (lost : List Nat) (x : RestoreRows) (s : State) : Host.Outcome State Fault Refusal :=
  s.upd (fun d =>
    if d.folioState = 4 ∧ d.folio.rcode = none then
      let r := d.restoreTo gen lost x
      { r.1 with folio := { r.1.folio with rcode := some r.2 } }
    else d)

/-- RESTORE_END (R547). -/
def execRestoreEnd (s : State) : Host.Outcome State Fault Refusal :=
  s.upd (fun d => match d.folio.rcode with
    | some n =>
      if d.folioState = 4 then
        ({ d with folio := { d.folio with rcode := none, choices := [], chosen := none } }.setFld .glFolioStatus
          F.glFolioStatus_RCODE n).setFolioState 0
      else d
    | none => d)

end Sys2Proof.Machine
end

