-- ==== Sys2Proof/Machine/Tide.lean ====
section
/-! DEFINITION. The rows of the tide (02) and of the power cap (01): sources, marks, cycles, coast and STOP, relay, commands. -/

namespace Sys2Proof.Machine

/-- A live tide input after `dt` cycles: ignored and counted while TIDE inputs are replayed (18 R520). -/
def Dev.tideInput (dt : Nat) (f : Dev → Dev) (d : Dev) : Dev :=
  let d := d.elapse dt
  if d.replayed 1 then d.liveDrop else f d

/-- ENCODER_EDGE (R35, R36, R43, R568). -/
def execEncoderEdge (t : Settle) (a b : Bool) (s : State) : Host.Outcome State Fault Refusal :=
  s.upd (Dev.tideInput t.dt (Dev.encIn a b t.keep))

/-- R567: the receiver of a line has seen no valid level for 1 µs. -/
def Dev.levelLoss (line : EncLine) (d : Dev) : Dev :=
  if d.tideSrc ≠ 0 ∨ d.tideState = 0 then d
  else
    match line with
    | .a => (d.setTide { d.tide with levelA := false, okSince := d.cycle }).sourceLoss 2
    | .b => (d.setTide { d.tide with levelB := false, okSince := d.cycle }).sourceLoss 2
    | .z =>
      let d := d.setTide { d.tide with levelZ := false }
      if d.flag .tgSrcCfg F.tgSrcCfg_ZCHECK then (d.setTide { d.tide with okSince := d.cycle }).sourceLoss 2 else d

/-- ENCODER_LEVEL_LOSS (R567). -/
def execEncoderLevelLoss (line : EncLine) (s : State) : Host.Outcome State Fault Refusal :=
  s.upd (Dev.tideInput 0 (Dev.levelLoss line))

/-- Z_EDGE (R35, R37): a rising edge of Z. -/
def execZEdge (t : Settle) (s : State) : Host.Outcome State Fault Refusal :=
  s.upd (Dev.tideInput t.dt (fun d => if d.filtered t.keep then d.zIn else d))

/-- MAINS_PULSE (R38). -/
def execMainsPulse (dt : Nat) (small : Bool) (s : State) : Host.Outcome State Fault Refusal :=
  s.upd (Dev.tideInput dt (Dev.mainsIn small))

/-- PLL_LOCK_LOSS (R38). -/
def execPllLockLoss (s : State) : Host.Outcome State Fault Refusal :=
  s.upd (fun d => if d.tideSrc = 1 then (d.setTide { d.tide with pllGood := 0 }).sourceLoss 3 else d)

/-- PPS_EDGE (R39). -/
def execPpsEdge (dt : Nat) (s : State) : Host.Outcome State Fault Refusal := s.upd (Dev.tideInput dt Dev.ppsIn)

/-- PPS_MISSING_LOSS (R39): no 1 PPS edge for more than 1.5 s. -/
def execPpsMissingLoss (dt : Nat) (s : State) : Host.Outcome State Fault Refusal :=
  s.upd (fun d =>
    let d := d.elapse dt
    if d.tideSrc = 2 ∧ d.tide.ppsAt + 3000000000 < d.cycle
    then (d.setTide { d.tide with ppsSeen := false }).sourceLoss 3 else d)

/-- R568: when the last source count arrived, as a fraction of processor-die cycles, and the last interval over the same denominator:
the PLL of MAINS gives its counts evenly within a cycle and stops before the count that the next pulse brings. -/
def Dev.lastCount568 (d : Dev) : Nat × Nat × Nat :=
  let t := d.tide
  if d.tideSrc = 1 then
    let m := max 1 (d.lfld .tgSrcRate F.tgSrcRate_RATE)
    (t.mainsAt * m + (m - 1) * t.mainsPeriod, t.mainsPeriod, m)
  else (t.lastAny, t.ivals.headD 0, 1)

/-- R60, R568: the stopped-counts test holds, for the sources that give counts of their own. -/
def Dev.countsStopped (d : Dev) : Bool :=
  let (at', iv, den) := d.lastCount568
  let r := d.tideRate
  decide (d.tideSrc ≤ 3) && decide (9 ≤ d.tide.arrived) && decide (0 < iv) &&
    decide (d.lfld .tgLoss F.tgLoss_MIN_RATE * 65536 * r.2 ≤ r.1 * 2000000000) &&
    decide (at' + d.lfld .tgLoss F.tgLoss_FACTOR * iv ≤ d.cycle * den)

/-- STOPPED_COUNTS_LOSS (R60, R61, R568). -/
def execStoppedCountsLoss (dt : Nat) (s : State) : Host.Outcome State Fault Refusal :=
  s.upd (fun d => let d := d.elapse dt; if d.countsStopped then d.sourceLoss 1 else d)

/-- COAST_END (R61, R62): the marks passed fire, the cycle is complete, the gate halts at its end. -/
def execCoastEnd (dt : Nat) (s : State) : Host.Outcome State Fault Refusal :=
  s.upd (fun d =>
    let d := d.elapse dt
    if d.coastDue then
      let d := d.fireAll
      (d.setTide { d.tide with lastLen := some (d.ptime - d.tide.cycAt), coastLeft := 0 }).enterStop
    else d)

/-- TIDE_CYCLE_START (R47, R57, R71). -/
def execTideCycleStart (dt : Nat) (s : State) : Host.Outcome State Fault Refusal :=
  s.upd (fun d =>
    let d := d.elapse dt
    if d.cycleDue && !d.coastDue then d.fireAll.newCycle else d)

/-- SHORT_CYCLE_HOLD_END (R47). -/
def execShortCycleHoldEnd (dt : Nat) (s : State) : Host.Outcome State Fault Refusal :=
  s.upd (fun d =>
    let d := d.elapse dt
    if d.tide.hold ∧ (d.tideState = 2 ∨ d.tideState = 3) ∧ d.tide.cycAt + floor20 ≤ d.ptime then
      let d := d.rebase
      let d := (d.setTide { d.tide with hold := false }).setFld .tgStatus F.tgStatus_SHORT 1
      (d.event (source 3 0) 0x12 (d.tide.no % 2 ^ 48) false).choiceTime 8
    else d)

/-- MARK_FIRE (R46, R54, R55). -/
def execMarkFire (dt m : Nat) (s : State) : Host.Outcome State Fault Refusal :=
  s.upd (fun d =>
    let d := d.elapse dt
    if d.tideState = 2 ∨ d.tideState = 3 then d.fireUpTo m else d)

/-- FREE_PHASE_COMPLETE (R57, R59). -/
def execFreePhaseComplete (s : State) : Host.Outcome State Fault Refusal := s.upd Dev.tryAdvance

/-- TIDE_LOCK (R63, R66, the lock sequence); `rtt` is the round trip that a follower measures, in units of 0.25 ns. -/
def execTideLock (dt rtt : Nat) (s : State) : Host.Outcome State Fault Refusal :=
  s.upd (fun d =>
    let d := d.elapse dt
    if d.tideState = 1 then
      let d := d.measureHop rtt
      if d.acquired then d.lockNow else d
    else d)

/-- LOCK_TIMEOUT (R63, step 5 of the lock sequence). -/
def execLockTimeout (dt : Nat) (s : State) : Host.Outcome State Fault Refusal :=
  s.upd (fun d =>
    let d := d.elapse dt
    if d.tideState = 1 ∧ !d.acquired ∧ d.tide.acqAt + d.lfld .tgLoss F.tgLoss_LOCK_TO * 2000000000 ≤ d.cycle then
      ((d.setTide { d.tide with noPos := true, lastLen := none }).enterStop).reportReady
    else d)

/-- RESUME (R63). -/
def execResume (req : Req) (s : State) : Host.Outcome State Fault Refusal :=
  s.upd (Dev.guarded req .tgCmd 1 Dev.tideResume)

/-- STEP (R57). -/
def execTideStep (req : Req) (s : State) : Host.Outcome State Fault Refusal :=
  s.upd (Dev.guarded req .tgCmd 2 Dev.tideStep)

/-- REMEASURE (R66). -/
def execRemeasure (req : Req) (rtt : Nat) (s : State) : Host.Outcome State Fault Refusal :=
  s.upd (Dev.guarded req .tgCmd 4 (Dev.measureHop rtt))

/-- FORCE_STOP (R64). -/
def execForceStop (req : Req) (s : State) : Host.Outcome State Fault Refusal :=
  s.upd (Dev.guarded req .tgCmd 8 Dev.forceStop)

/-- LOSS (R39, R42). -/
def execPtpLoss (req : Req) (s : State) : Host.Outcome State Fault Refusal :=
  s.upd (Dev.guarded req .tgCmd 16 (Dev.tideInput 0 Dev.ptpLossIn))

/-- TG_PTIME_STEP_WRITE (R41, R42). -/
def execTgPtimeStepWrite (req : Req) (v : Word) (s : State) : Host.Outcome State Fault Refusal :=
  s.upd (Dev.guarded req .tgPtimeStep v (Dev.stepPtime v))

/-- R41: the new rate and SYNC, unless the correction is out of range. -/
def Dev.adjPtime (v : Word) (d : Dev) : Dev :=
  if (sval 40 (F.tgPtimeAdj_ADJ.get v)).natAbs ≤ 140737488355 then
    (d.setFld .tgPtimeAdj F.tgPtimeAdj_ADJ (F.tgPtimeAdj_ADJ.get v)).setFld .tgPtimeAdj F.tgPtimeAdj_SYNC (F.tgPtimeAdj_SYNC.get v)
  else d

/-- TG_PTIME_ADJ_WRITE (R41, R42). -/
def execTgPtimeAdjWrite (req : Req) (v : Word) (s : State) : Host.Outcome State Fault Refusal :=
  s.upd (Dev.guarded req .tgPtimeAdj v (Dev.adjPtime v))

/-- The relay message of the master: count, mean interval of 8 counts, state. -/
def Dev.relayNow (d : Dev) : RelayMsg :=
  let r := d.tideRate
  ⟨d.tide.count.toNat, if r.1 = 0 then 0 else 8 * 65536 * r.2 / r.1, d.tideState⟩

/-- RELAY_SEND (R65). The master sends nothing before its own lock: it has no tide count to send (DESIGN CHOICE, log entry 57). -/
def execRelaySend (dt : Nat) (s : State) : Host.Outcome State Fault Refusal :=
  s.upd (fun d =>
    let d := d.elapse dt
    if d.flag .tgStatus F.tgStatus_MASTER && decide (2 ≤ d.tideState)
    then (d.setTide { d.tide with sentAt := d.ptime }).emit (.relay d.relayNow) else d)

/-- RELAY_MESSAGE (R66 to R68; 18 R520). -/
def execRelayMessage (dt : Nat) (m : RelayMsg) (s : State) : Host.Outcome State Fault Refusal :=
  s.upd (fun d => let d := d.elapse dt; if d.replayed 5 then d.liveDrop else d.relayIn m)

/-- RELAY_LOSS (R68): 40 µs of package time without a relay message. -/
def execRelayLoss (dt : Nat) (s : State) : Host.Outcome State Fault Refusal :=
  s.upd (fun d =>
    let d := d.elapse dt
    if d.tideSrc = 5 ∧ d.tideState = 2 ∧ d.tide.relayPt + 40000 * nsUnit ≤ d.ptime
    then (d.setTide { d.tide with ownLoss := true, relayMsgs := 0 }).sourceLoss 3 else d)

/-- R69: TG_DENIED of a tide command: CC_JOB_PERM.TIDE of the control core that serves the queue is 0. -/
def Dev.tideDenied (d : Dev) (q : Nat) : Bool := !d.flag (.ccJobPerm (d.qCcore q)) F.ccJobPerm_TIDE

/-- TG_STEP (R69). -/
def execTgStep (q : Nat) (s : State) : Host.Outcome State Fault Refusal :=
  s.upd (Dev.startCmd q 0xA00 (fun _ d =>
    if d.tideDenied q then d.finish q 0xA02 0
    else if d.tideSrc ≠ 4 then d.finish q 0xA00 0
    else if d.tideState ≠ 2 then d.finish q 0xA01 0
    else d.tideStep))

/-- TG_STOP (R69). -/
def execTgStop (q : Nat) (s : State) : Host.Outcome State Fault Refusal :=
  s.upd (Dev.startCmd q 0xA01 (fun _ d =>
    if d.tideDenied q then d.finish q 0xA02 0
    else if d.tideState ≠ 2 ∧ d.tideState ≠ 3 then d.finish q 0xA01 0
    else d.forceStop))

/-- PHASE_COMPLETION_REPORT (R59). -/
def execPhaseCompletionReport (who entry : Nat) (s : State) : Host.Outcome State Fault Refusal :=
  s.upd (fun d =>
    if d.flag .tgStatus F.tgStatus_MASTER && d.tideState == 2 && d.tideSrc == 4 then
      let t := d.tide
      let seen := t.phaseDone.contains (who, entry)
      (d.setTide { t with phaseDone := if seen then t.phaseDone else (who, entry) :: t.phaseDone }).tryAdvance
    else d)

/-- The engine clock step in force (01 R28, R30). -/
def Dev.clock (d : Dev) : Nat := d.tide.openClk - d.tide.cut

/-- 10 R288: the clock that stack throttle step `s` leaves of a planned clock, in steps of 75 MHz above 1.2 GHz. -/
def thermClock (s planned : Nat) : Nat :=
  match s with
  | 0 => planned
  | 1 => planned - 4
  | 2 => planned - 8
  | _ => 0

/-- 01 R31, R26: the clock step of logical core `c`: the lower of the one that the power throttle leaves and the one that the stack
throttle of its cove leaves; a core under a sounding test runs at 1.2 GHz. -/
def Dev.coreClock (d : Dev) (c : Nat) : Nat :=
  if (d.core c).sound.isSome then 0
  else min d.clock (thermClock (d.fld (.cvTherm (d.coveOf c)) F.cvTherm_STEP) d.tide.openClk)

/-- POWER_THROTTLE (01 R30, R33): one step down; nothing lies below CLOCK 0. -/
def execPowerThrottle (dt pin : Nat) (s : State) : Host.Outcome State Fault Refusal :=
  s.upd (fun d =>
    let d := d.elapse dt
    if d.tide.phase.isSome ∧ d.phaseKind ≠ 3 ∧ d.capInForce ≤ pin ∧ 0 < d.clock then
      let d := d.setTide { d.tide with cut := d.tide.cut + 1 }
      (d.event (source 0 0) 0x20 (d.fld .tgStatus F.tgStatus_PHASE + d.clock * 2 ^ 8) false).choiceTime 2
    else d)

/-- OPEN_CLOCK_STEP (01 R29): one step within 0 and the entry's CLOCK. -/
def execOpenClockStep (dt : Nat) (up : Bool) (s : State) : Host.Outcome State Fault Refusal :=
  s.upd (fun d =>
    let d := d.elapse dt
    if d.tide.phase.isSome ∧ d.phaseKind = 3 then
      (if up ∧ 0 < d.tide.cut then (d.setTide { d.tide with cut := d.tide.cut - 1 }).choiceTime 1
       else if !up ∧ 0 < d.clock then (d.setTide { d.tide with cut := d.tide.cut + 1 }).choiceTime 1
       else d)
    else d)

end Sys2Proof.Machine
end

