-- ==== Sys2Proof/Machine/Write.lean ====
section
/-! DEFINITION. Reads and writes of control space (00 R4 to R11, 15 R430 to R437): what a register reads as, and one write of a
register by a requester, with the action that the register's fields start. -/

namespace Sys2Proof.Machine

/-! ## Reading (00 R4, 15 R436) -/

/-- The agent command that runs on the agent of kind `k` and number `t`, in whatever queue. -/
def Dev.runOn (d : Dev) (k t : Nat) : Option Run :=
  d.queues.findSome? (fun p => if d.qKind p.1 == k && d.qTarget p.1 == t then p.2.runs.find? Run.agent else none)

/-- One of `n` values that time decides, 0 if there is no other (log entry 6). -/
def Dev.progressIn (d : Dev) (tag n : Nat) : Nat := Config.freeIndex d.free tag % max 1 n

/-- The run of the agent of kind `k` and number `t` that is one of its own commands, and whether it is frozen (02 R52, 10 R290). -/
def Dev.ownRun (d : Dev) (k t : Nat) : Option (Run × Bool) :=
  d.queues.findSome? (fun p =>
    if d.qKind p.1 == k && d.qTarget p.1 == t then
      (p.2.runs.find? (fun r => r.agent && r.own)).map (fun r => (r, d.frozenRun p.1 r))
    else none)

/-- 04, CORE_SG_STATUS: the output block in progress is one of the product's, and the failing one while it re-executes (R117, R118). -/
def Dev.sgStatus (d : Dev) (c : Nat) : Word :=
  match d.ownRun 0 c with
  | none => 0
  | some (r, frz) =>
    let g := sgParam (dRtn r.desc == 0x211) r.params
    let per := (sgBlocks g.m).length * (sgBlocks g.n).length
    let at' := if r.retrying then g.batch * per - r.todo.length else d.progressIn 1 g.batch * per + d.progressIn 2 per
    BitVec.ofNat 64 (1 + 2 * b2n frz + at' / max 1 per % 2 ^ 16 * 2 ^ 16 + at' % max 1 per * 2 ^ 32)

/-- The stages that a solver command goes through (05, CORE_SV_STATUS.STAGE): 1 factor, 2 initial solve, 3 refinement, 4 refactor,
5 bind. -/
def svStages (rtn : Nat) (g : SvParam) : List Nat :=
  let refine := if g.maxit = 0 then [] else [3]
  match rtn with
  | 0x300 => [5]
  | 0x301 => [1]
  | 0x302 => 2 :: refine
  | 0x303 => [1, 2] ++ refine ++ (if g.reuse then [4] else [])
  | _ => [0]

/-- 05, CORE_SV_STATUS: the group and stage in progress are among the command's, the group the failing one while it re-executes
(R149); a command that its checks refused is in no stage. -/
def Dev.svStatus (d : Dev) (c : Nat) : Word :=
  match d.ownRun 1 c with
  | none => 0
  | some (r, frz) =>
    if r.status ≠ 0 ∧ r.status ≠ stMemUncorr then BitVec.ofNat 64 (1 + 2 * b2n frz)
    else
      let g := svParam r.params
      let n := if dRtn r.desc = 0x300 ∨ dRtn r.desc = 0x304 then 1 else (g.count + 15) / 16
      let group := if r.retrying then n - r.todo.length else d.progressIn 3 n
      let ss := svStages (dRtn r.desc) g
      BitVec.ofNat 64 (1 + 2 * b2n frz + group * 2 ^ 16 + ss.getD (d.progressIn 4 ss.length) 0 * 2 ^ 32)

/-- 07, CORE_VX_STATUS. -/
def Dev.vxStatus (d : Dev) (c : Nat) : Word :=
  match d.ownRun 2 c with
  | none => 0
  | some _ => BitVec.ofNat 64 (1 + (d.core c).vloops.length % 8 * 2 + (d.core c).vpc % 2 ^ 16 * 2 ^ 16)

/-- 11, CV_BME_STATUS; DONE is the register's own field. -/
def Dev.bmeStatus (d : Dev) (v : Nat) : Word :=
  let done := d.fld (.cvBmeStatus v) F.cvBmeStatus_DONE * 2 ^ 16
  match d.runOn 5 v with
  | none => BitVec.ofNat 64 done
  | some r => BitVec.ofNat 64 (1 + (dRtn r.desc - 0x4FF) % 4 * 2 + 8 * b2n r.retrying + done)

/-- 09, CQ_STATUS; DBERR and CLOST are the register's own fields. -/
def Dev.queueStatus (d : Dev) (q : Nat) : Word :=
  let x := d.queue q
  BitVec.ofNat 64 (d.qState q + x.loops.length % 8 * 2 ^ 4 + b2n x.replay.isSome * 2 ^ 7 + b2n x.rcd.isSome * 2 ^ 8 +
    d.fld (.cqStatus q) F.cqStatus_DBERR * 2 ^ 9 + d.fld (.cqStatus q) F.cqStatus_CLOST * 2 ^ 10 + d.qHead q % 2 ^ 32 * 2 ^ 32)

/-- 06, CORE_SIG_n: while an `sv.sigload` into the slot runs, LOADING alone; else what the slot holds. -/
def Dev.sigRead (d : Dev) (c n : Nat) : Word :=
  if d.sigLoading c n then BitVec.ofNat 64 (2 ^ 56) else d.rd (.coreSig c n)

/-- 03 R106: a generator counter reads as it stood at the start of the running command, or live. -/
def Dev.rngRead (d : Dev) (c j : Nat) : Word :=
  if (d.ownRun 2 c).isSome then d.rd (.coreRngCtr c j) else BitVec.ofNat 64 (d.rngCtr c / 2 ^ (64 * j))

/-- 08, CC_CALL_STATUS.PENDING and TAKEN. -/
def Dev.callStatus (d : Dev) (k : Nat) : Word :=
  let mask (t : Bool) : Nat := (List.range 16).foldl (fun a n => a + b2n ((d.cc k).calls.any (fun p => p.1 == n && p.2.taken == t)) * 2 ^ n) 0
  BitVec.ofNat 64 (mask false + mask true * 2 ^ 16 + d.fld (.ccCallStatus k) F.ccCallStatus_IE * 2 ^ 32)

/-- What a register reads as. Those that show the state of a unit are computed; every other holds its value. -/
def Dev.regValue (d : Dev) (r : Reg) : Word :=
  match r with
  | .coreSgStatus c => d.sgStatus c
  | .coreSvStatus c => d.svStatus c
  | .coreVxStatus c => d.vxStatus c
  | .cvBmeStatus v => d.bmeStatus v
  | .cqStatus q => d.queueStatus q
  | .coreSig c n => d.sigRead c n
  | .coreRngCtr c j => d.rngRead c j
  | .fbTorusId => if d.loaded then d.rd r else 0
  | .ppCfg 1 => F.ppCfg_DUP.put 0 (d.rd r)
  | .ccCycle _ => BitVec.ofNat 64 d.cycle
  | .ccCallStatus k => d.callStatus k
  | .glSupplyStatus => d.supplyRead
  | .glThermStatus => d.thermRead
  | .tgCount => d.tide.count
  | .tgCycleNo => BitVec.ofNat 64 (d.tide.no % 2 ^ 48 + d.tidePos / 2 ^ 16 % 2 ^ 16 * 2 ^ 48)
  | .tgOffset => d.tide.offset
  | .tgZlatch => d.tide.zlatch
  | .tgPtime => BitVec.ofNat 64 d.ns
  | .tgPtimeFine => BitVec.ofNat 64 (d.nsFrac + d.ns % 2 ^ 48 * 2 ^ 16)
  | .clEntry n w => BitVec.ofNat 64 (numAt (d.logBytes n) (8 * w) 8)
  | .corePmcValue _ _ | .cvPmcValue _ _ | .fbPmcValue _ _ | .cnPmcValue _ | .tgPmcValue _ => d.counter r
  | _ => d.rd r

/-- R4, R436: one read of `size` bytes at a control-space offset; a read that no register answers, or that the requester may not make,
returns zero. -/
def Dev.ctlRead (d : Dev) (req : Req) (off size : Nat) : Nat :=
  match d.regAt off with
  | some r => if r.info.bytes == size && d.mayRead req r then (d.regValue r).toNat else 0
  | none => 0

/-! ## Writing -/

/-- 02, TG_CMD: the actions of the set bits, in bit order; a REMEASURE takes the hop that it measures (log entry 6). -/
def Dev.tgCmd (v : Word) (d : Dev) : Dev :=
  let d := if bit v.toNat 0 then d.tideResume else d
  let d := if bit v.toNat 1 then d.tideStep else d
  let d : Dev := if bit v.toNat 2 then
      Dev.measureHop ((Config.freeWord d.free).toNat % 2 ^ 17) { d with free := d.free + 1 } else d
  let d := if bit v.toNat 3 then d.forceStop else d
  if bit v.toNat 4 then Dev.tideInput 0 Dev.ptpLossIn d else d

/-- 09 R254: RESUME or STOP; a write that sets both is ignored. -/
def Dev.queueCtl (q : Nat) (v : Word) (d : Dev) : Dev :=
  match bit v.toNat 0, bit v.toNat 1 with
  | true, false => d.resumeQueue q
  | false, true => d.stopQueue q
  | _, _ => d

/-- 17, GL_CHK_CTL: a write that changes MASK is ignored whole unless no image is held. -/
def Dev.chkCtl (v : Word) (d : Dev) : Dev :=
  let st := d.fld .glImgStatus F.glImgStatus_STATE
  if F.glChkCtl_MASK.get v ≠ d.fld .glChkCtl F.glChkCtl_MASK ∧ st ≠ 0 ∧ st ≠ 3 then d
  else
    let d := d.wr .glChkCtl (Reg.written .glChkCtl v (d.rd .glChkCtl))
    if F.glChkCtl_INJ.get v = 1 then
      d.injectAt (F.glChkCtl_INJ_CORE.get v) (F.glChkCtl_INJ_UNIT.get v) (F.glChkCtl_INJ_COUNT.get v)
    else d

/-- 18 R516, R522: CN_REC_CTL; EN keeps its value while a replay is armed or runs. -/
def Dev.recCtl (v : Word) (d : Dev) : Dev :=
  let old := d.fld .cnRecCtl F.cnRecCtl_EN
  let st := d.fld .cnRplStatus F.cnRplStatus_STATE
  let en := if st = 1 ∨ st = 2 then old else F.cnRecCtl_EN.get v
  let d := (d.wr .cnRecCtl (Reg.written .cnRecCtl v (d.rd .cnRecCtl))).setFld .cnRecCtl F.cnRecCtl_EN en
  if old = 0 ∧ en = 1 ∧ d.loaded then d.recStart
  else if old = 1 ∧ en = 0 then d.recStop
  else d

/-- 16 R449: HL_MBOX_CTL; without GO its fields are written. -/
def Dev.mboxCtl (req : Req) (v : Word) (d : Dev) : Dev :=
  if F.hlMboxCtl_GO.get v = 1 then
    let d := if F.hlMboxCtl_DONE.get v = 1 then d.setFld .hlMboxCtl F.hlMboxCtl_DONE 0 else d
    d.mboxGo req (F.hlMboxCtl_CMD.get v) (F.hlMboxCtl_LEN.get v) (Dev.mboxServe (F.hlMboxCtl_CMD.get v))
  else d.wr .hlMboxCtl (Reg.written .hlMboxCtl v (d.rd .hlMboxCtl))

/-- 13 R390, R391: FB_GSTAT.ABORT and RESET. -/
def Dev.gstatCtl (g : Nat) (v : Word) (d : Dev) : Dev :=
  let d := if F.fbGstat_ABORT.get v = 1 then d.collBreak g none 0 0 3 else d
  if F.fbGstat_RESET.get v = 1 then d.gstatReset g else d

/-- The fields of a register after a write take their values, and come into force at its effect point. -/
def Dev.plainWrite (r : Reg) (v : Word) (d : Dev) : Dev := d.wrAt r (r.written v (d.rd r))

/-- A write that takes effect: the action of a register whose fields start one, and the fields it keeps. -/
def Dev.regWrite (req : Req) (r : Reg) (v : Word) (d : Dev) : Dev :=
  match r with
  | .tgCmd => d.tgCmd v
  | .tgPtimeStep => d.stepPtime v
  | .tgPtimeAdj => d.adjPtime v
  | .tgPmcSel 3 => d
  | .corePmcSel _ _ | .cvPmcSel _ _ | .fbPmcSel _ _ | .cnPmcSel _ => (d.lastCount r).plainWrite r v
  | .corePmcValue _ _ | .cvPmcValue _ _ | .fbPmcValue _ _ | .cnPmcValue _ => (d.plainWrite r v).lastCount r
  | .cqDoorbell q => d.doorbell req q v
  | .cqCtl q => d.queueCtl q v
  | .cqSig n => d.writeSig n v
  | .coreBank c b w => d.bankWrite c b w v
  | .coreRbank c =>
    let d := d.plainWrite r v
    if F.coreRbank_VERIFY.get v = 1 then d.verifyStart c else d
  | .coreRngKey c j => d.rngWrite c j v
  | .coreRngCtr c j => d.rngWrite c (2 + j) v
  | .cvHintQuota n =>
    let d := (d.plainWrite r v).trimKeep n
    if F.cvHintQuota_UNKEEP.get v = 1 then d.unkeepCove n else d
  | .glImgAddr => if d.fld .glImgStatus F.glImgStatus_STATE = 1 then d else d.plainWrite r v
  | .glImgCtl =>
    let d := if F.glImgCtl_LOAD.get v = 1 then d.loadImage [] else d
    if F.glImgCtl_UNLOAD.get v = 1 then d.unloadImage else d
  | .glBcastCtl =>
    let d := d.plainWrite r v
    if F.glBcastCtl_SEND.get v = 1 then d.bcastSend [] else d
  | .glFenceCtl =>
    if F.glFenceCtl_GO.get v = 1 then d.fenceAsk (F.glFenceCtl_CORE.get v) 3 none (F.glFenceCtl_PERSIST.get v == 1)
    else d.plainWrite r v
  | .glChkCtl => d.chkCtl v
  | .coreSound c =>
    if F.coreSound_GO.get v = 1 then d.soundStart c (F.coreSound_LEVEL.get v == 1) none none else d.plainWrite r v
  | .fbPeerDead => d.peerDead v
  | .fbGstat g => d.gstatCtl g v
  | .hlBiasCtl => if F.hlBiasCtl_GO.get v = 1 then d.flipBias v [] else d.plainWrite r v
  | .hlMboxCtl => d.mboxCtl req v
  | .hlHostDb => d.hostDb v
  | .hlFeatAccept _ => if d.flag .hlFeatCtl F.hlFeatCtl_LOCKED then d else d.plainWrite r v
  | .hlFeatCtl =>
    let d := d.plainWrite r v
    if F.hlFeatCtl_LOCK.get v = 1 then d.featLock else d
  | .ccCtl k =>
    let d := d.plainWrite r v
    let d := if F.ccCtl_RESTART.get v = 1 then d.restartCc k else d
    if F.ccCtl_DB_SET.get v = 1 then d.setFld (.ccCtl k) F.ccCtl_DB 1 else d
  | .glSupplyStatus => if F.glSupplyStatus_MIN_CLR.get v = 1 then d.setFld .glSupplyStatus F.glSupplyStatus_VIN_MIN 0xFFFF else d
  | .cnRdCtl =>
    let d := d.plainWrite r v
    if F.cnRdCtl_SNAP.get v = 1 then d.latchCounters 1 0 else d
  | .cnRecCtl => d.recCtl v
  | .cnRplCtl =>
    let d := d.plainWrite r v
    let d := if F.cnRplCtl_GO.get v = 1 then d.rplArm else d
    if F.cnRplCtl_ARM_OFF.get v = 1 then d.rplDisarm else d
  | .glFolioCtl =>
    let d := if F.glFolioCtl_GO.get v = 1 then d.folioAsk else d
    let d := if F.glFolioCtl_ABORT.get v = 1 then d.folioStop else d
    if F.glFolioCtl_RESTORE.get v = 1 then d.restoreStart (d.rd .glFolioMembers) d.folioL else d
  | _ => d.plainWrite r v

/-- R430: after loading, a register that only the image sets is locked. -/
def Dev.locked (d : Dev) (r : Reg) : Bool := r.info.eff == .load && d.loaded

/-- R4, R9, R430, R436: one write of `size` bytes at a control-space offset, by a requester: whole, or ignored. -/
def Dev.ctlWrite (req : Req) (off size : Nat) (v : Word) (d : Dev) : Dev :=
  match d.regAt off with
  | some r =>
    if r.info.bytes == size && d.mayWrite req r v && !d.locked r && d.writeTaken r v then d.regWrite req r v else d
  | none => d

/-- REGISTER_WRITE (R436). -/
def execRegisterWrite (req : Req) (off size : Nat) (v : Word) (s : State) : Host.Outcome State Fault Refusal :=
  s.upd (Dev.ctlWrite req off size v)

end Sys2Proof.Machine
end

