-- ==== Sys2Proof/Machine/CtlCore.lean ====
section
/-! DEFINITION. What the instructions of a control core share (08): traps, halts and interrupts (R209 to R212), privilege (R208),
the translated access of a fetch, load, store or atomic (R206; 10 R301, R302, R308; 12 R335), and the step of one instruction. -/

namespace Sys2Proof.Machine

/-! ## Modes and traps (R208 to R212) -/

/-- The core runs in supervisor mode. -/
def Dev.ccSup (d : Dev) (k : Nat) : Bool := d.flag (.ccStatus k) F.ccStatus_PRIV

/-- R434: the requester of a control core's accesses. -/
def Dev.ccReq (d : Dev) (k : Nat) : Req := if d.ccSup k then .sup k else .job k

/-- R212: the core halts, with a colophon entry, and the host is told. -/
def Dev.ccHalt (k code data : Nat) (d : Dev) : Dev :=
  let d := d.setFld (.ccStatus k) F.ccStatus_HALT 1
  ((d.setCc k { d.cc k with wait := .run }).setFld .hlEvent F.hlEvent_HALT 1).event (source 6 k) code data true

/-- R209: the four steps of a trap. `pc` is the address to return to, `addr` the faulting address or zero, `elem` the lowest faulting
element (R219). -/
def Dev.ccEnter (k cause : Nat) (int : Bool) (pc : Word) (addr : Nat) (elem : Option Nat) (d : Dev) : Dev :=
  let r := Reg.ccStatus k
  let d := d.wr (.ccTrapPc k) pc
  let d := d.wr (.ccTrapCause k) (BitVec.ofNat 64 (cause + b2n int * 2 ^ 8 + b2n elem.isSome * 2 ^ 15 + elem.getD 0 % 128 * 2 ^ 16))
  let d := d.wr (.ccTrapAddr k) (BitVec.ofNat 64 addr)
  let d := (d.setFld r F.ccStatus_SPRIV (d.fld r F.ccStatus_PRIV)).setFld r F.ccStatus_SIE (d.fld r F.ccStatus_IE)
  let d := ((d.setFld r F.ccStatus_TRAP 1).setFld r F.ccStatus_PRIV 1).setFld r F.ccStatus_IE 0
  d.setCc k { d.cc k with pc := d.rd (.ccTvec k) &&& ~~~(3 : Word), wait := .run }

/-- R209, R210, R212: a synchronous trap; one while TRAP is 1 halts the core as well. -/
def Dev.ccTrap (k cause : Nat) (pc : Word) (addr : Nat) (elem : Option Nat) (d : Dev) : Dev :=
  let again := d.flag (.ccStatus k) F.ccStatus_TRAP
  let d := d.ccEnter k cause false pc addr elem
  if again then d.ccHalt k 0x60 (cause + pc.toNat % 2 ^ 48 * 2 ^ 16) else d

/-- A trap at the instruction itself. -/
def Dev.ccFault (k cause addr : Nat) (d : Dev) : Dev := d.ccTrap k cause (d.cc k).pc addr none

/-! ## Translated accesses -/

/-- What an access is for. -/
inductive CcAcc where
  | fetch | load | store | atomic
  deriving DecidableEq, Repr

/-- A refused access: trap cause, faulting virtual address, and what is reported: uncorrectable words and a far-tier port that is
down. -/
structure CcStop where
  cause : Nat
  addr : Nat
  bad : List BadWord := []
  down : Option Nat := none
  deriving DecidableEq, Repr

/-- The trap cause of a failed translation, by access (table of trap causes). -/
def ccXlatCause : CcAcc → Nat
  | .fetch => 4
  | .load => 5
  | .store | .atomic => 6

/-- The rights an access needs of its leaf (10 R301, R302): U in job mode, X to fetch, W to write. -/
def leafAllows (l : Leaf) (acc : CcAcc) (sup : Bool) : Bool :=
  (sup || l.u) && (match acc with
    | .fetch => l.x
    | .load => true
    | .store | .atomic => l.w)

/-- The root of a control core's tables (10 R301). -/
def Dev.ccRoot (d : Dev) (k : Nat) : Nat := bits (d.rd (.ccXlatRoot k)).toNat 51 12 * 4096

/-- The leaf of a virtual address, or the trap cause: an address with a bit above 47, or a table outside memory, is an ACCESS
(10 R301; 16 R441). -/
def Dev.ccLeaf (d : Dev) (k va : Nat) (acc : CcAcc) : Except Nat Leaf :=
  match d.walk (d.ccRoot k) va with
  | .error e => .error (if e = 4 then 7 else ccXlatCause acc)
  | .ok l => if leafAllows l acc (d.ccSup k) then .ok l else .error (ccXlatCause acc)

/-- The uncorrectable words that a read of `n` bytes at a physical address meets in this package (10 R285). -/
def Dev.ccBad (d : Dev) (pa n : Nat) : List BadWord :=
  match d.locate pa with
  | .stack _ | .far _ => d.badIn pa n
  | .rack s o =>
    let w := wordSpan o n
    (match d.importFor s w.1 w.2, windowAddr o with
     | some j, some a =>
       if s = d.slot ∧ d.exportOk (d.fld (.fbImpKey j) F.fbImpKey_REGION) (d.fld (.fbImpKey j) F.fbImpKey_KEY) w.1 w.2 0
       then d.badIn a n else []
     | _, _ => [])
  | _ => []

/-- What keeps a control core from the table entries of a translation: an entry in a far-tier set with a port down (10 R308), or an
uncorrectable one (10 R285; log entry 40). -/
def Dev.ccTables (d : Dev) (k va : Nat) : Option CcStop :=
  let es := d.entries (d.ccRoot k) va
  match es.findSome? d.farDown with
  | some p => some ⟨8, va, [], some p⟩
  | none => if (es.flatMap (fun e => d.badIn e 8)).isEmpty then none else some ⟨8, va, es.flatMap (fun e => d.badIn e 8), none⟩

/-- R219: the first byte of an access at `va`, `base` in this package's memory, that lies in one of the words `ws`. -/
def firstBadVa (va base : Nat) (ws : List BadWord) : Nat :=
  match ws.map (fun w => max base w.addr - base) with
  | [] => va
  | x :: t => va + t.foldl min x

/-- A read of `n` bytes meets the uncorrectable words `ws`, or none. -/
def ccClean (va base : Nat) (ws : List BadWord) (l : Leaf) : Except CcStop Leaf :=
  if ws.isEmpty then .ok l else .error ⟨8, firstBadVa va base ws, ws, none⟩

/-- One piece of an access, within a page and a 256-byte unit: its leaf, or why it stops. `vec` is a vector access (R434). -/
def Dev.ccPiece (d : Dev) (k : Nat) (acc : CcAcc) (vec : Bool) (va n : Nat) : Except CcStop Leaf :=
  match d.ccTables k va with
  | some e => .error e
  | none =>
    match d.ccLeaf k va acc with
    | .error c => .error ⟨c, va, [], none⟩
    | .ok l =>
      match d.locate l.pa with
      | .nowhere => .error ⟨7, va, [], none⟩
      | .ctl _ => if vec then .error ⟨7, va, [], none⟩ else if acc = .fetch then .error ⟨1, 0, [], none⟩ else .ok l
      | .rack s o =>
        if !(d.slotPresent s && (windowAddr o).isSome) then .error ⟨7, va, [], none⟩
        else if acc = .store ∨ acc = .atomic then .ok l
        else ccClean va ((windowAddr o).getD 0) (d.ccBad l.pa n) l
      | _ =>
        if acc = .store then .ok l
        else match d.farDown l.pa with
          | some p => .error ⟨8, va, [], some p⟩
          | none => ccClean va l.pa (d.ccBad l.pa n) l

/-- The pieces of an access, in address order, with their leaves; the first that stops decides. -/
def Dev.ccPieces (d : Dev) (k : Nat) (acc : CcAcc) (vec : Bool) : List (Nat × Nat) → Except CcStop (List (Leaf × Nat))
  | [] => .ok []
  | p :: t =>
    match d.ccPiece k acc vec p.1 p.2 with
    | .error e => .error e
    | .ok l =>
      match Dev.ccPieces d k acc vec t with
      | .error e => .error e
      | .ok r => .ok ((l, p.2) :: r)

/-- A stopped access: what it found is reported, and the instruction traps. `elem` gives the element of an address (R219). -/
def Dev.ccStopped (k : Nat) (e : CcStop) (elem : Option (Nat → Nat)) (d : Dev) : Dev :=
  let d := d.uncorrAll e.bad
  let d := match e.down with
    | some p => d.farDownEvent p
    | none => d
  d.ccTrap k e.cause (d.cc k).pc e.addr (elem.map (fun f => f e.addr))

/-! ## The data cache (12 R339; log entry 52) -/

/-- How an access reaches memory: class normal, the hint of its leaf, STREAM in the uncached forms (10 R279). -/
def ccAccess (uncached : Bool) (l : Leaf) : Access := ⟨1, if uncached then 1 else l.hint⟩

/-- The part of line `y` that lies in `n` bytes at `pa`: where it starts and its length. -/
def linePart (pa n y : Nat) : Nat × Nat := (max pa y, min (pa + n) (y + 64) - max pa y)

/-- The bytes of one line that a cached read takes: of the data cache, if it holds the line still, else of memory. Which lines it gives
up is free. -/
def Dev.dcLine (k : Nat) (x : Access) (pa n y : Nat) (d : Dev) : Dev × List Byte :=
  let p := linePart pa n y
  let took (bs : List Byte) : List Byte := (bs.drop (p.1 - y)).take p.2
  let c := { d with free := d.free + 1 }
  match (d.cc k).dcache.find? (fun z => z.1 == y), Config.freeIndex d.free y % 2 with
  | some z, 0 => (c, took z.2)
  | _, _ =>
    let bs := d.physRead y 64
    let c := c.touch x false p.1 p.2
    let m := c.cc k
    (c.setCc k { m with dcache := ((y, bs) :: m.dcache.filter (fun z => z.1 != y)).take 1024 }, took bs)

/-- Bytes of this package's memory as a control core reads them. -/
def Dev.ccFetch (k : Nat) (uncached : Bool) (l : Leaf) (n : Nat) (d : Dev) : Dev × List Byte :=
  if uncached then (d.touch (ccAccess true l) false l.pa n, d.physRead l.pa n)
  else (linesOf l.pa n).foldl (fun a y =>
    let r := a.1.dcLine k (ccAccess false l) l.pa n y
    (r.1, a.2 ++ r.2)) (d, [])

/-- Bytes that a control core stores change the lines that its data cache holds. -/
def Dev.dcStore (k pa : Nat) (bs : List Byte) (d : Dev) : Dev :=
  let x := d.cc k
  if x.dcache.isEmpty then d
  else
    let line (y : Nat) (old : List Byte) : List Byte :=
      old.zipIdx.map (fun (b, j) => if pa ≤ y + j ∧ y + j < pa + bs.length then bs.getD (y + j - pa) 0 else b)
    d.setCc k { x with dcache := x.dcache.map (fun z => (z.1, line z.1 z.2)) }

/-- The lines that `n` bytes at `pa` touch leave a control core's data cache. -/
def Dev.dcDrop (k pa n : Nat) (d : Dev) : Dev :=
  let x := d.cc k
  d.setCc k { x with dcache := x.dcache.filter (fun z => !(linesOf pa n).contains z.1) }

/-! ## Reads and writes of translated pieces -/

/-- One piece read: its bytes, or the identifier of the packet that asks for them (12 R337, R338). `whole` says that the piece is the
whole access, which a control-space register needs (R4). -/
def Dev.ccRead (k : Nat) (whole uncached : Bool) (l : Leaf) (n : Nat) (d : Dev) : Dev × LoadPart :=
  match d.locate l.pa with
  | .stack _ | .far _ =>
    let r := d.ccFetch k uncached l n
    (r.1, ⟨none, 0, n, r.2⟩)
  | .rack s o =>
    (match d.rackLoad [] s o n with
     | some bs => (d.rackLoadCount s o n, ⟨none, 0, n, bs⟩)
     | none =>
       let w := wordSpan o n
       let j := (d.importFor s w.1 w.2).getD 0
       (d.sendMp s w.1 (d.fld (.fbImpKey j) F.fbImpKey_REGION) (d.fld (.fbImpKey j) F.fbImpKey_KEY) (.read w.2) false true
          { cc := some k }, ⟨some d.fabric.nextId, o - w.1, n, []⟩))
  | .ctl off =>
    ({ d with free := d.free + 1 }, ⟨none, 0, n, if whole then bytesOf n (d.ctlRead (d.ccReq k) off n) else zeros n⟩)
  | .nowhere => (d, ⟨none, 0, n, zeros n⟩)

/-- Pieces read in order. -/
def Dev.ccReadAll (k : Nat) (whole uncached : Bool) (d : Dev) (ps : List (Leaf × Nat)) : Dev × List LoadPart :=
  ps.foldl (fun a p =>
    let r := a.1.ccRead k whole uncached p.1 p.2
    (r.1, a.2 ++ [r.2])) (d, [])

/-- One piece written. A store to a far-tier set with a port down is dropped (10 R308); words that it covers in part and that are
uncorrectable are reported (10 R285). -/
def Dev.ccWrite (k : Nat) (whole uncached : Bool) (l : Leaf) (bs : List Byte) (d : Dev) : Dev :=
  let who : Issuer := { cc := some k, acc := some (ccAccess uncached l) }
  match d.locate l.pa with
  | .stack _ | .far _ =>
    (match d.farDown l.pa with
     | some p => d.farDownEvent p
     | none => ((d.uncorrAll (d.badPart l.pa bs.length)).store l.pa bs who).dcStore k l.pa bs)
  | .rack _ _ => d.store l.pa bs who
  | .ctl off => if whole then d.ctlWrite (d.ccReq k) off bs.length (BitVec.ofNat 64 (ofBytes bs)) else d
  | .nowhere => d

/-- Bytes written over pieces in order. -/
def Dev.ccWriteAll (k : Nat) (whole uncached : Bool) : List (Leaf × Nat) → List Byte → Dev → Dev
  | [], _, d => d
  | p :: t, bs, d => Dev.ccWriteAll k whole uncached t (bs.drop p.2) (d.ccWrite k whole uncached p.1 (bs.take p.2))

/-! ## One instruction -/

/-- The core can execute an instruction: it runs, waits for nothing, and its fetch does not stop. -/
def Dev.ccReady (d : Dev) (k : Nat) : Bool :=
  !d.flag (.ccStatus k) F.ccStatus_HALT && (d.cc k).wait == .run

/-- An instruction at the program counter: a fetch that stops traps instead (10 R301). -/
def Dev.ccStep (k : Nat) (f : Dev → Dev) (d : Dev) : Dev :=
  if d.ccReady k then
    match d.ccPiece k .fetch false (d.cc k).pc.toNat 4 with
    | .error e => d.ccStopped k e none
    | .ok _ => f d
  else d

/-! ## Interrupts (R211, R228, R233) -/

/-- The causes of the interrupts that are pending. -/
def Dev.ccPending (d : Dev) (k : Nat) : List Nat :=
  let mail := (List.range 64).any (fun n => bit (d.rd (.ccMboxIe k)).toNat n && d.mboxFull k n)
  let call := d.flag (.ccCallStatus k) F.ccCallStatus_IE && (d.cc k).calls.any (fun p => !p.2.taken)
  (if mail then [16] else []) ++ (if (d.cc k).supply then [17] else []) ++
    (if d.flag (.ccCtl k) F.ccCtl_DB then [18] else []) ++ (if (d.cc k).tide then [19] else []) ++ (if call then [20] else [])

/-- R211: a pending interrupt is taken. Which of several is taken first is not stated (log entry 40). -/
def Dev.ccInterrupt (k : Nat) (d : Dev) : Dev :=
  let ps := d.ccPending k
  let x := d.cc k
  let stalled : Bool := match x.wait with
    | .load _ _ _ => true
    | _ => false
  if d.flag (.ccStatus k) F.ccStatus_HALT ∨ ps = [] ∨ stalled then d
  else if d.flag (.ccStatus k) F.ccStatus_IE then
    let n := (Config.freeWord d.free).toNat % ps.length
    let d : Dev := if ps.length = 1 then d else { d with free := d.free + 1 }
    let cause := ps.getD n 0
    let d := d.setCc k { d.cc k with supply := x.supply && cause != 17, tide := x.tide && cause != 19 }
    d.ccEnter k cause true (if x.wait = .wfi then x.pc + 4 else x.pc) 0 none
  else if x.wait = .wfi then d.ccNext k
  else d

/-- INTERRUPT (R211). -/
def execInterrupt (k : Nat) (s : State) : Host.Outcome State Fault Refusal := s.upd (Dev.ccInterrupt k)

end Sys2Proof.Machine
end

