-- ==== Sys2Proof/Machine/Control.lean ====
section
/-! DEFINITION. The scalar instructions of a control core (08 R201 to R212), the mailbox and call instructions (R225 to R233) and
`cc.call`. -/

namespace Sys2Proof.Machine

/-! ## Integers (R203, R204) -/

/-- An operation of major opcodes 0x01 and 0x02. Shift amounts are taken modulo 64 (log entry 40). -/
def ccAlu (op : CcAlu) (a b : Word) : Word :=
  let n := b.toNat % 64
  match op with
  | .add => a + b
  | .sub => a - b
  | .and => a &&& b
  | .or => a ||| b
  | .xor => a ^^^ b
  | .sll => a <<< n
  | .srl => a >>> n
  | .sra => a.sshiftRight n
  | .slt => if a.toInt < b.toInt then 1 else 0
  | .sltu => if a.toNat < b.toNat then 1 else 0
  | .min => if b.toInt < a.toInt then b else a
  | .max => if a.toInt < b.toInt then b else a
  | .minu => if b.toNat < a.toNat then b else a
  | .maxu => if a.toNat < b.toNat then b else a

/-- R204: multiplication and division. -/
def ccMul (op : CcMul) (a b : Word) : Word :=
  match op with
  | .mul => a * b
  | .mulh => BitVec.ofInt 64 (a.toInt * b.toInt / (2 ^ 64 : Nat))
  | .mulhu => BitVec.ofNat 64 (a.toNat * b.toNat / 2 ^ 64)
  | .div => if b = 0 then BitVec.allOnes 64 else BitVec.ofInt 64 (a.toInt.tdiv b.toInt)
  | .divu => if b = 0 then BitVec.allOnes 64 else BitVec.ofNat 64 (a.toNat / b.toNat)
  | .rem => if b = 0 then a else BitVec.ofInt 64 (a.toInt.tmod b.toInt)
  | .remu => if b = 0 then a else BitVec.ofNat 64 (a.toNat % b.toNat)

/-- lui: a 16-bit immediate at bits 16·k + 15 : 16·k. -/
def ccLui (im : BitVec 16) (sh : Nat) : Word := BitVec.ofNat 64 (im.toNat * 2 ^ (16 * (sh % 4)))

/-- An integer instruction at the program counter; one that R203 calls illegal traps. -/
def Dev.ccInt (k : Nat) (x : CcInt) (d : Dev) : Dev :=
  match x with
  | .reg op rd ra rb => (d.setG k rd (ccAlu op (d.gReg k ra) (d.gReg k rb))).ccNext k
  | .imm op rd ra im => (d.setG k rd (ccAlu op (d.gReg k ra) (im.signExtend 64))).ccNext k
  | .lui rd im sh => (d.setG k rd (ccLui im sh)).ccNext k
  | .mul op rd ra rb => (d.setG k rd (ccMul op (d.gReg k ra) (d.gReg k rb))).ccNext k
  | .illegal => d.ccFault k 1 0

/-- CC_INTEGER_OP (R203, R204). -/
def execCcIntegerOp (k : Nat) (x : CcInt) (s : State) : Host.Outcome State Fault Refusal :=
  s.upd (Dev.ccStep k (Dev.ccInt k x))

/-! ## Loads, stores, atomics (R206, R207) -/

/-- The virtual address of a scalar access: a g register and a signed offset. -/
def Dev.ccAddr (d : Dev) (k ra : Nat) (off : BitVec 16) : Nat := (d.gReg k ra + off.signExtend 64).toNat

/-- R206: the access sizes in bytes. -/
def ccSize (n : Nat) : Bool := n == 1 || n == 2 || n == 4 || n == 8

/-- A scalar load. -/
def Dev.ccLoad (k size : Nat) (sgn uncached : Bool) (rd ra : Nat) (off : BitVec 16) (d : Dev) : Dev :=
  let va := d.ccAddr k ra off
  if !ccSize size then d.ccFault k 1 0
  else match d.ccPieces k .load false (cut256 2 va size) with
    | .error e => d.ccStopped k e none
    | .ok ps =>
      let r := Dev.ccReadAll k (ps.length == 1) uncached d ps
      r.1.loadEnd k rd sgn r.2

/-- 17 R482: `par` parity failures of the instruction: one is re-executed, a second halts the core. -/
def Dev.ccParity (k par : Nat) (f : Dev → Dev) (d : Dev) : Dev :=
  if par = 0 then f d
  else
    let pc := (d.cc k).pc.toNat % 2 ^ 48
    let d := d.retryEvent (source 6 k) 0 0 0 false
    if par = 1 then f d else d.ccHalt k 0x61 pc

/-- CC_LOAD (R206; 17 R482). The uncached forms pass the data cache by. -/
def execCcLoad (k par size : Nat) (sgn uncached : Bool) (rd ra : Nat) (off : BitVec 16) (s : State) :
    Host.Outcome State Fault Refusal :=
  s.upd (Dev.ccStep k (Dev.ccParity k par (Dev.ccLoad k size sgn uncached rd ra off)))

/-- A scalar store of the low bytes of a g register. -/
def Dev.ccStore (k size : Nat) (uncached : Bool) (rb ra : Nat) (off : BitVec 16) (d : Dev) : Dev :=
  let va := d.ccAddr k ra off
  if !ccSize size then d.ccFault k 1 0
  else match d.ccPieces k .store false (cut256 2 va size) with
    | .error e => d.ccStopped k e none
    | .ok ps => (Dev.ccWriteAll k (ps.length == 1) uncached ps (bytesOf size (d.gReg k rb).toNat) d).ccNext k

/-- CC_STORE (R206, R207). -/
def execCcStore (k size : Nat) (uncached : Bool) (rb ra : Nat) (off : BitVec 16) (s : State) : Host.Outcome State Fault Refusal :=
  s.upd (Dev.ccStep k (Dev.ccStore k size uncached rb ra off))

/-- 12 R344: the operation code of an atomic. -/
def ccAmoCode : CcAmo → Nat
  | .cas => 0xD
  | .swap => 0xC
  | .fadd => 0x8
  | .fmin => 0xA
  | .fmax => 0xB

/-- R206, 12 R344, R345: an atomic on the aligned word at the address in a g register: of `cas`, RB is compared and RC stored; the others
take RB. -/
def Dev.ccAtomic (k : Nat) (op : CcAmo) (rd ra rb rc : Nat) (d : Dev) : Dev :=
  let va := (d.gReg k ra).toNat
  let a := (d.gReg k rb).toNat
  let b := (d.gReg k rc).toNat
  let code := ccAmoCode op
  if va % 8 ≠ 0 then d.ccFault k 3 va
  else match d.ccPiece k .atomic false va 8 with
    | .error e => d.ccStopped k e none
    | .ok l =>
      match d.locate l.pa with
      | .rack s o =>
        let id := d.fabric.nextId
        let r := d.rackAtomic s o code a b (64 + k) { cc := some k }
        (match r.2 with
         | .value v => r.1.loadEnd k rd false [⟨none, 0, 8, bytesOf 8 v⟩]
         | .await _ => r.1.loadEnd k rd false [⟨some id, 0, 8, []⟩]
         | .dropped => r.1.loadEnd k rd false [⟨none, 0, 8, zeros 8⟩])
      | .ctl off =>
        let old := d.ctlRead (d.ccReq k) off 8
        let d := { d with free := d.free + 1 }.ctlWrite (d.ccReq k) off 8 (BitVec.ofNat 64 (atomicNew code old a b))
        d.loadEnd k rd false [⟨none, 0, 8, bytesOf 8 old⟩]
      | _ =>
        let r := ((d.dcDrop k l.pa 8).touch (ccAccess false l) true l.pa 8).localAtomic (64 + k) l.pa code a b
        r.1.loadEnd k rd false [⟨none, 0, 8, bytesOf 8 r.2⟩]

/-- CC_ATOMIC (R206). -/
def execCcAtomic (k : Nat) (op : CcAmo) (rd ra rb rc : Nat) (s : State) : Host.Outcome State Fault Refusal :=
  s.upd (Dev.ccStep k (Dev.ccAtomic k op rd ra rb rc))

/-! ## Branches and jumps (R202) -/

/-- The condition of a branch. -/
def ccTaken (c : CcCond) (a b : Word) : Bool :=
  match c with
  | .beq => a == b
  | .bne => a != b
  | .blt => decide (a.toInt < b.toInt)
  | .bge => decide (b.toInt ≤ a.toInt)
  | .bltu => decide (a.toNat < b.toNat)
  | .bgeu => decide (b.toNat ≤ a.toNat)

/-- A transfer of control that writes its link: one to an address that is not a multiple of 4 traps at the jump. -/
def Dev.ccJumpTo (k : Nat) (link : Option Nat) (target : Word) (d : Dev) : Dev :=
  if target.toNat % 4 ≠ 0 then d.ccFault k 3 target.toNat
  else
    let d := match link with
      | some rd => d.setG k rd ((d.cc k).pc + 4)
      | none => d
    d.ccGoto k target

/-- A branch or jump. -/
def Dev.ccJump (k : Nat) (x : CcJump) (d : Dev) : Dev :=
  let pc := (d.cc k).pc
  match x with
  | .br c ra rb disp =>
    if ccTaken c (d.gReg k ra) (d.gReg k rb) then d.ccJumpTo k none (pc + BitVec.ofInt 64 disp) else d.ccNext k
  | .jal rd disp => d.ccJumpTo k (some rd) (pc + BitVec.ofInt 64 disp)
  | .jr ra => d.ccJumpTo k none (d.gReg k ra)
  | .jalr rd ra => d.ccJumpTo k (some rd) (d.gReg k ra)

/-- CC_BRANCH (R202). -/
def execCcBranch (k : Nat) (x : CcJump) (s : State) : Host.Outcome State Fault Refusal := s.upd (Dev.ccStep k (Dev.ccJump k x))

/-! ## Floating point (R205) -/

/-- R80: the sticky flags of the scalar side. -/
def Dev.ccFlag (k fl : Nat) (d : Dev) : Dev :=
  d.setFld (.ccFlags k) F.ccFlags_IEEE (d.fld (.ccFlags k) F.ccFlags_IEEE ||| fl)

/-- A long format: binary64 or binary32. -/
def ccFmt (dbl : Bool) : FFmt := if dbl then f64 else f32

/-- An operand in a long format: a binary32 value ignores bits 63:32. -/
def Dev.fReg (d : Dev) (k : Nat) (dbl : Bool) (n : Nat) : Nat := (d.gReg k n).toNat % 2 ^ (ccFmt dbl).w

/-- A comparison as a number: 1 where the relation holds. -/
def fltRel (r : Bool × Nat) : FRes := ⟨b2n r.1, r.2⟩

/-- An operation of major opcodes 0x10 and 0x11. -/
def ccFlt (op : CcFlt) (F : FFmt) (rm a b c : Nat) : FRes :=
  match op with
  | .add => F.add rm a b
  | .sub => F.sub rm a b
  | .mul => F.mul rm a b
  | .fma => F.fma rm a b c
  | .div => F.div rm a b
  | .sqrt => F.sqrt rm a
  | .min => F.minmax false a b
  | .max => F.minmax true a b
  | .minnum => F.minmaxNum false a b
  | .maxnum => F.minmaxNum true a b
  | .eq => fltRel (F.cmp 0 a b)
  | .lt => fltRel (F.cmp 1 a b)
  | .le => fltRel (F.cmp 2 a b)
  | .un => fltRel (F.cmp 3 a b)
  | .rint => F.rint rm a

/-- A result and its flags; the instruction completes. -/
def Dev.fltEnd (k rd : Nat) (r : FRes) (d : Dev) : Dev := ((d.setG k rd (BitVec.ofNat 64 r.code)).ccFlag k r.flags).ccNext k

/-- CC_FLOAT_OP (R205): rounding codes 5 to 7 are illegal. -/
def execCcFloatOp (k : Nat) (dbl : Bool) (op : CcFlt) (rm rd ra rb rc : Nat) (s : State) : Host.Outcome State Fault Refusal :=
  s.upd (Dev.ccStep k (fun d =>
    if 5 ≤ rm then d.ccFault k 1 0
    else d.fltEnd k rd (ccFlt op (ccFmt dbl) rm (d.fReg k dbl ra) (d.fReg k dbl rb) (d.fReg k dbl rc))))

/-- The integer widths of conversions. -/
def ccIntBits (n : Nat) : Bool := n == 8 || n == 16 || n == 32 || n == 64

/-- An integer of `bits` bits as a g register holds it (log entry 40). -/
def intCode (sgn : Bool) (bits : Nat) (z : Int) : Nat := if sgn then scode 64 z else scode bits z

/-- A conversion of a long format to an integer; the result of one that IEEE calls invalid is not stated: a free value (log
entry 40). -/
def Dev.ccToInt (d : Dev) (k : Nat) (dbl : Bool) (bits : Nat) (sgn : Bool) (rm ra : Nat) : FRes :=
  match cvtToInt (ccFmt dbl) rm bits sgn (d.fReg k dbl ra) with
  | (some z, fl) => ⟨intCode sgn bits z, fl⟩
  | (none, fl) => ⟨(Config.freeWord d.free).toNat, fl⟩

/-- The result of a conversion. -/
def Dev.ccCvt (d : Dev) (k : Nat) (op : CcCvt) (rm ra : Nat) : FRes :=
  match op with
  | .f64to32 => cvtLong f64 f32 rm (d.fReg k true ra)
  | .f32to64 => cvtLong f32 f64 rm (d.fReg k false ra)
  | .toInt dbl bits sgn => d.ccToInt k dbl bits sgn rm ra
  | .ofInt dbl bits sgn =>
    let v := (d.gReg k ra).toNat % 2 ^ bits
    cvtOfInt (ccFmt dbl) rm (if sgn then sval bits v else (v : Int))

/-- The form names widths that exist. -/
def ccCvtOk : CcCvt → Bool
  | .f64to32 | .f32to64 => true
  | .toInt _ b _ | .ofInt _ b _ => ccIntBits b

/-- CC_FLOAT_CONVERT (R205; 03 R102). -/
def execCcFloatConvert (k : Nat) (op : CcCvt) (rm rd ra : Nat) (s : State) : Host.Outcome State Fault Refusal :=
  s.upd (Dev.ccStep k (fun d =>
    if 5 ≤ rm ∨ !ccCvtOk op then d.ccFault k 1 0 else { d with free := d.free + 1 }.fltEnd k rd (d.ccCvt k op rm ra)))

/-! ## System instructions (R207 to R212) -/

/-- A trap of the instruction's own: CC_TRAP_PC holds the next address (R210). -/
def Dev.ccCallTrap (k cause : Nat) (d : Dev) : Dev := (d.countCn 1 1).ccTrap k cause ((d.cc k).pc + 4) 0 none

/-- SYS: the trap, and the invalidation of the core's data cache (log entry 52). -/
def execCcSys (k : Nat) (s : State) : Host.Outcome State Fault Refusal :=
  s.upd (Dev.ccStep k (fun d => (d.setCc k { d.cc k with dcache := [] }).ccCallTrap k 9))

/-- BRK. -/
def execCcBrk (k : Nat) (s : State) : Host.Outcome State Fault Refusal := s.upd (Dev.ccStep k (Dev.ccCallTrap k 10))

/-- An instruction that only the supervisor executes (R208). -/
def Dev.ccPriv (k : Nat) (f : Dev → Dev) (d : Dev) : Dev := if d.ccSup k then f d else d.ccFault k 2 0

/-- R209: the return from a trap; to an address that is not a multiple of 4 it traps at itself. -/
def Dev.ccReturn (k : Nat) (d : Dev) : Dev :=
  let pc := d.rd (.ccTrapPc k)
  if pc.toNat % 4 ≠ 0 then d.ccFault k 3 pc.toNat
  else
    let r := Reg.ccStatus k
    let d := (d.setFld r F.ccStatus_PRIV (d.fld r F.ccStatus_SPRIV)).setFld r F.ccStatus_IE (d.fld r F.ccStatus_SIE)
    (d.setFld r F.ccStatus_TRAP 0).ccGoto k pc

/-- TRET (R208, R209). -/
def execCcTret (k : Nat) (s : State) : Host.Outcome State Fault Refusal := s.upd (Dev.ccStep k (Dev.ccPriv k (Dev.ccReturn k)))

/-- R207, 12 R351: a store or atomic of the core that its destination has not acknowledged. -/
def Dev.ccUnsettled (d : Dev) (k : Nat) : Bool := d.fabric.trackers.any (fun t => t.cc == some k && t.seq.isSome)

/-- FENCE (R207): it completes once every store is visible; a row that comes before that changes nothing. -/
def execCcFence (k : Nat) (s : State) : Host.Outcome State Fault Refusal :=
  s.upd (Dev.ccStep k (fun d => if d.ccUnsettled k then d else d.ccNext k))

/-- WFI (R208): it ends at once where an interrupt is pending, else it waits for one (log entry 40). -/
def execCcWfi (k : Nat) (s : State) : Host.Outcome State Fault Refusal :=
  s.upd (Dev.ccStep k (Dev.ccPriv k (fun d =>
    if (d.ccPending k).isEmpty then d.setCc k { d.cc k with wait := .wfi } else d.ccNext k)))

/-- The register that a system-register name stands for (R208, R234). -/
def srReg (k : Nat) : CcSr → Reg
  | .status => .ccStatus k
  | .tvec => .ccTvec k
  | .trapCause => .ccTrapCause k
  | .trapPc => .ccTrapPc k
  | .trapAddr => .ccTrapAddr k
  | .flags => .ccFlags k
  | .vstate => .ccVstate k
  | .cycle => .ccCycle k
  | .mboxIe => .ccMboxIe k
  | .callStatus => .ccCallStatus k
  | .xlatRoot => .ccXlatRoot k
  | .xlatInv => .ccXlatInv k
  | .jobPerm => .ccJobPerm k
  | .ctl => .ccCtl k

/-- R208: the system registers that job code reaches. -/
def srJob : CcSr → Bool
  | .flags | .vstate | .cycle => true
  | _ => false

/-- SR_RD (R208). -/
def execSrRd (k rd : Nat) (r : CcSr) (s : State) : Host.Outcome State Fault Refusal :=
  s.upd (Dev.ccStep k (fun d =>
    if d.ccSup k || srJob r then (d.setG k rd (d.regValue (srReg k r))).ccNext k else d.ccFault k 2 0))

/-- R208, R234: a system register written by its own core; CC_FLAGS is cleared by ones in both modes. -/
def Dev.srWrite (k : Nat) (r : CcSr) (v : Word) (d : Dev) : Dev :=
  let g := srReg k r
  if r = .flags then d.plainWrite g v
  else if d.mayWrite (.sup k) g v && !d.locked g && d.writeTaken g v then d.regWrite (.sup k) g v
  else d

/-- SR_WR (R208, R234). -/
def execSrWr (k : Nat) (r : CcSr) (ra : Nat) (s : State) : Host.Outcome State Fault Refusal :=
  s.upd (Dev.ccStep k (fun d =>
    if d.ccSup k || srJob r then (d.srWrite k r (d.gReg k ra)).ccNext k else d.ccFault k 2 0))

/-! ## Mailbox entries (R225 to R227) -/

/-- MBWAIT (R225). -/
def execMbwait (k rd ra rb : Nat) (s : State) : Host.Outcome State Fault Refusal :=
  s.upd (Dev.ccStep k (fun d =>
    let t := (d.gReg k rb).toNat
    match d.mboxHit k (d.gReg k ra) with
    | some n => (d.setG k rd (BitVec.ofNat 64 n)).ccNext k
    | none =>
      if t ≤ d.cycle then (d.setG k rd 64).ccNext k else d.setCc k { d.cc k with wait := .mbwait rd ra t }))

/-- MBWAIT_DEADLINE (R225). -/
def execMbwaitDeadline (k dt : Nat) (s : State) : Host.Outcome State Fault Refusal :=
  s.upd (fun d =>
    let d := d.elapse dt
    match (d.cc k).wait with
    | .mbwait rd _ t => if t ≤ d.cycle then (d.setG k rd 64).ccNext k else d
    | _ => d)

/-- MBTAKE (R226). -/
def execMbtake (k rd re n : Nat) (s : State) : Host.Outcome State Fault Refusal :=
  s.upd (Dev.ccStep k (fun d =>
    let r := Reg.ccMboxTag k (n % 64)
    let tag := d.rd r
    let d := (d.setG k rd (d.rd (.ccMboxVal k (n % 64)))).setG k re tag
    ((d.setFld r F.ccMboxTag_FULL 0).setFld r F.ccMboxTag_OVW 0).ccNext k))

/-! ## Calls from a queue (R229 to R233) -/

/-- The lowest slot with an untaken call. -/
def Dev.callUntaken (d : Dev) (k : Nat) : Option Nat :=
  (List.range 16).find? (fun n => (d.cc k).calls.any (fun p => p.1 == n && !p.2.taken))

/-- The taken call of a slot. -/
def Dev.callTaken (d : Dev) (k n : Nat) : Option Call :=
  match (d.cc k).calls.find? (fun p => p.1 == n) with
  | some p => if p.2.taken then some p.2 else none
  | none => none

/-- R231: the lowest untaken call is taken and its slot written to a g register. -/
def Dev.callTake (k rd n : Nat) (d : Dev) : Dev :=
  let x := d.cc k
  let d := d.setCc k { x with calls := x.calls.map (fun p => if p.1 = n then (n, { p.2 with taken := true }) else p) }
  (d.setG k rd (BitVec.ofNat 64 n)).ccNext k

/-- R231: a waiting cctake completes once a call has come; one whose deadline has passed before that writes 16. -/
def Dev.callTry (k : Nat) (d : Dev) : Dev :=
  match (d.cc k).wait, d.callUntaken k with
  | .cctake rd t, some n => if t ≤ d.cycle then (d.setG k rd 16).ccNext k else d.callTake k rd n
  | _, _ => d

/-- CCTAKE (R231). -/
def execCctake (k rd rb : Nat) (s : State) : Host.Outcome State Fault Refusal :=
  s.upd (Dev.ccStep k (fun d =>
    let t := (d.gReg k rb).toNat
    match d.callUntaken k with
    | some n => d.callTake k rd n
    | none => if t ≤ d.cycle then (d.setG k rd 16).ccNext k else d.setCc k { d.cc k with wait := .cctake rd t }))

/-- CCTAKE_DEADLINE (R231). -/
def execCctakeDeadline (k dt : Nat) (s : State) : Host.Outcome State Fault Refusal :=
  s.upd (fun d =>
    let d := d.elapse dt
    match (d.cc k).wait with
    | .cctake rd t => if t ≤ d.cycle then (d.setG k rd 16).ccNext k else d
    | _ => d)

/-- CCARG (R231). -/
def execCcarg (k rd rs n : Nat) (s : State) : Host.Outcome State Fault Refusal :=
  s.upd (Dev.ccStep k (fun d =>
    match d.callTaken k ((d.gReg k rs).toNat % 16) with
    | some c => if n % 8 < 6 then (d.setG k rd (c.params.getD (n % 8) 0)).ccNext k else d.ccFault k 1 0
    | none => d.ccFault k 1 0))

/-- R232: the fence comes first; a row that comes before every store is visible changes nothing. -/
def Dev.ccDone (k rs re : Nat) (d : Dev) : Dev :=
  let n := (d.gReg k rs).toNat % 16
  let e := (d.gReg k re).toNat
  if d.ccUnsettled k then d
  else match d.callTaken k n with
    | none => d.ccFault k 1 0
    | some c =>
      let x := d.cc k
      let d := d.setCc k { x with calls := x.calls.filter (fun p => p.1 != n) }
      (if bits e 15 0 = 0 then d.finishN c.queue c.serial 0 0 else d.finishN c.queue c.serial 0x0B00 (bits e 47 16)).ccNext k

/-- CCDONE (R232). -/
def execCcdone (k rs re : Nat) (s : State) : Host.Outcome State Fault Refusal := s.upd (Dev.ccStep k (Dev.ccDone k rs re))

/-- R230: what a call slot records: ARG0 to ARG3, queue and PBLK, serial. -/
def callWords (q serial : Nat) (ws : List Word) : List Word :=
  (List.range 4).map (fun j => ws.getD (4 + j) 0) ++ [BitVec.ofNat 64 (q % 2 ^ 12 + dPblk ws * 2 ^ 16), BitVec.ofNat 64 serial]

/-- R230: the lowest free call slot. -/
def Dev.callFree (d : Dev) (k : Nat) : Option Nat := (List.range 16).find? (fun n => !(d.cc k).calls.any (fun p => p.1 == n))

/-- CC_CALL (R229, R230): it starts only when a slot is free, and runs until its `ccdone`. -/
def execCcCall (q : Nat) (s : State) : Host.Outcome State Fault Refusal :=
  s.upd (fun d =>
    let k := d.qTarget q
    match d.callFree k with
    | none => d
    | some n => d.startCmd q 0x800 (fun ws d =>
      let d := d.setRun q (fun r => { r with done := false })
      let serial := d.newest q
      let x := d.cc k
      (d.setCc k { x with calls := x.calls ++ [(n, ⟨q, serial, callWords q serial ws, false⟩)] }).callTry k))

end Sys2Proof.Machine
end

