-- ==== Sys2Proof/Machine/ControlVec.lean ====
section
/-! DEFINITION. The long-vector extension of a control core (08 R213 to R221). -/

namespace Sys2Proof.Machine

/-! ## setvl (R214, R215) -/

/-- R214, R215: vtype and vl from an immediate; an invalid one leaves vl 0 and ILL 1. -/
def Dev.setVl (k rd : Nat) (avl : Nat) (im : BitVec 32) (d : Dev) : Dev :=
  let r := Reg.ccVstate k
  if 16 ≤ im.toNat then ((d.setFld r F.ccVstate_VL 0).setFld r F.ccVstate_ILL 1).setG k rd 0
  else
    let ew := im.toNat % 4
    let vl := min avl (128 / 2 ^ ew)
    let d := (d.setFld r F.ccVstate_EW ew).setFld r F.ccVstate_QRND (im.toNat / 4)
    ((d.setFld r F.ccVstate_VL vl).setFld r F.ccVstate_ILL 0).setG k rd (BitVec.ofNat 64 vl)

/-- SETVL (R214, R215). -/
def execSetvl (k rd ra : Nat) (im : BitVec 32) (s : State) : Host.Outcome State Fault Refusal :=
  s.upd (Dev.ccStep k (fun d => (d.setVl k rd (d.gReg k ra).toNat im).ccNext k))

/-- R215, R216: a vector instruction other than setvl: illegal while ILL is 1; with vl 0 it changes nothing. -/
def Dev.cvStep (k : Nat) (f : Dev → Dev) (d : Dev) : Dev :=
  d.ccStep k (fun d =>
    if d.flag (.ccVstate k) F.ccVstate_ILL then d.ccFault k 1 0
    else if d.cvLen k = 0 then d.ccNext k
    else f d)

/-! ## Memory (R217 to R219) -/

/-- The bytes of consecutive elements merged into runs: address and length. -/
def cvRuns (base es : Nat) : List Nat → List (Nat × Nat)
  | [] => []
  | i :: t =>
    match cvRuns base es t with
    | (a, n) :: r => if base + es * (i + 1) = a then (base + es * i, es + n) :: r else (base + es * i, es) :: (a, n) :: r
    | [] => [(base + es * i, es)]

/-- The pieces of a vector access: the runs of active elements, cut at 256-byte units. -/
def Dev.cvSpan (d : Dev) (k ra pg : Nat) : List (Nat × Nat) :=
  (cvRuns (d.gReg k ra).toNat (d.cvBits k / 8) (d.cvActive k pg)).flatMap (fun p => cut256 6 p.1 p.2)

/-- R219: the element that holds an address. -/
def Dev.cvElem (d : Dev) (k ra a : Nat) : Nat := (a - (d.gReg k ra).toNat) / (d.cvBits k / 8)

/-- VLD (R217, R219). -/
def execVld (k vd ra pg : Nat) (s : State) : Host.Outcome State Fault Refusal :=
  s.upd (Dev.cvStep k (fun d =>
    match d.ccPieces k .load true (d.cvSpan k ra pg) with
    | .error e => d.ccStopped k e (some (d.cvElem k ra))
    | .ok ps =>
      let r := Dev.ccReadAll k false false d ps
      r.1.vloadEnd k vd pg r.2))

/-- The bytes of the active elements of a register, in order. -/
def Dev.cvBytes (d : Dev) (k vs pg : Nat) : List Byte :=
  (d.cvActive k pg).flatMap (fun i => bytesOf (d.cvBits k / 8) (elemAt (d.cvBits k) (d.vReg k vs) i))

/-- The bytes of each piece, in order. -/
def pieceBytes : List (Leaf × Nat) → List Byte → List (Leaf × List (Option Byte))
  | [], _ => []
  | p :: t, bs => (p.1, (bs.take p.2).map some) :: pieceBytes t (bs.drop p.2)

/-- 12 R337: the pieces in one 256-byte unit of a rack window make one masked write. -/
def Dev.joinUnits (d : Dev) : List (Leaf × List (Option Byte)) → List (Leaf × List (Option Byte))
  | [] => []
  | p :: t =>
    match d.locate p.1.pa, d.joinUnits t with
    | .rack _ _, m :: r =>
      if p.1.pa / 256 = m.1.pa / 256 then
        (p.1, p.2 ++ List.replicate (m.1.pa - (p.1.pa + p.2.length)) none ++ m.2) :: r
      else p :: m :: r
    | _, r => p :: r

/-- The pieces of a vector store written, in order. -/
def Dev.cvStore (k : Nat) (ps : List (Leaf × List (Option Byte))) (d : Dev) : Dev :=
  (d.joinUnits ps).foldl (fun d p => match d.locate p.1.pa with
    | .rack s o => d.rackStore s o p.2 { cc := some k }
    | _ => d.ccWrite k false false p.1 (p.2.filterMap id)) d

/-- VST (R217 to R219): every active element translates before a byte is written. -/
def execVst (k vs ra pg : Nat) (s : State) : Host.Outcome State Fault Refusal :=
  s.upd (Dev.cvStep k (fun d =>
    match d.ccPieces k .store true (d.cvSpan k ra pg) with
    | .error e => d.ccStopped k e (some (d.cvElem k ra))
    | .ok ps => (d.cvStore k (pieceBytes ps (d.cvBytes k vs pg))).ccNext k))

/-! ## ALU and multiplier (R216) -/

/-- The second operand at element `i`: of a vector register, or a g register for every element. -/
def Dev.cvSrc (d : Dev) (k : Nat) (b : CvSrc) (i : Nat) : Nat :=
  match b with
  | .v n => elemAt (d.cvBits k) (d.vReg k n) i
  | .g n => (d.gReg k n).toNat % 2 ^ d.cvBits k

/-- The relation of a vcmp on elements of `w` bits. -/
def cvRel (r : CvRel) (w a b : Nat) : Bool :=
  match r with
  | .eq => a == b
  | .ne => a != b
  | .lt => decide (sval w a < sval w b)
  | .le => decide (sval w a ≤ sval w b)
  | .ltu => decide (a < b)
  | .leu => decide (a ≤ b)

/-- One element of an ALU instruction of class 0x22. -/
def cvAlu (op : CvAlu) (w a b : Nat) : Nat :=
  let n := b % w
  match op with
  | .vadd => a + b
  | .vsub => a + 2 ^ w - b
  | .vand => a &&& b
  | .vor => a ||| b
  | .vxor => a ^^^ b
  | .vshl => a * 2 ^ n
  | .vshr => a / 2 ^ n
  | .vsar => scode w (sval w a / (2 ^ n : Nat))
  | .vmin => if sval w b < sval w a then b else a
  | .vmax => if sval w a < sval w b then b else a
  | .vminu => min a b
  | .vmaxu => max a b
  | .vdup => b
  | .vcmp _ | .vsel | .vtog => a

/-- An ALU instruction: vcmp writes a predicate, vtog a g register, vsel takes VA where the predicate bit is 1 and the second operand
where it is 0 (log entry 41). -/
def Dev.cvAluRun (k : Nat) (op : CvAlu) (vd va : Nat) (b : CvSrc) (pg : Nat) (d : Dev) : Dev :=
  let w := d.cvBits k
  let act := d.cvActive k pg
  let a (i : Nat) : Nat := elemAt w (d.vReg k va) i
  match op with
  | .vcmp r => d.cvPutP k vd (act.map (fun i => (i, cvRel r w (a i) (d.cvSrc k b i))))
  | .vtog => if act.contains 0 then d.setG k vd (BitVec.ofNat 64 (a 0)) else d
  | .vsel =>
    d.cvPut k vd ((List.range (d.cvLen k)).map (fun i => (i, if bit (d.pReg k pg) i then a i else d.cvSrc k b i)))
  | op => d.cvPut k vd (act.map (fun i => (i, cvAlu op w (a i) (d.cvSrc k b i))))

/-- VECTOR_ALU (R216): vdup takes a g register only. -/
def execVectorAlu (k : Nat) (op : CvAlu) (vd va : Nat) (b : CvSrc) (pg : Nat) (s : State) : Host.Outcome State Fault Refusal :=
  s.upd (Dev.cvStep k (fun d =>
    match op, b with
    | .vdup, .v _ => d.ccFault k 1 0
    | _, _ => (d.cvAluRun k op vd va b pg).ccNext k))

/-! ## Fixed point (R220, R221) -/

/-- The rounding of *Fixed point*: `qrnd` 0 HEV, 1 HUP, 2 HAW, 3 TRUNC. -/
def qRnd (v : Int) (dr qrnd : Nat) : Int :=
  if dr = 0 then v
  else
    let q := v / (2 ^ dr : Nat)
    let r := v - q * (2 ^ dr : Nat)
    let h : Int := (2 ^ (dr - 1) : Nat)
    let inc := match qrnd with
      | 0 => decide (h < r) || (decide (r = h) && decide (q % 2 = 1))
      | 1 => decide (h ≤ r)
      | 2 => decide (h < r) || (decide (r = h) && decide (0 < v))
      | _ => false
    q + (if inc then 1 else 0)

/-- The form reads its elements as signed numbers. -/
def fixSigned : CvFix → Bool
  | .qadd | .qsub | .qavg | .qhsub | .qrshr => true
  | _ => false

/-- R220: one element: the code and whether it saturated. -/
def cvFix (op : CvFix) (w qrnd a b : Nat) : Nat × Bool :=
  let sgn := fixSigned op
  let u := readInt sgn w a
  let v := readInt sgn w b
  let sat (z : Int) : Nat × Bool := (scode w (clampInt sgn w z).1, (clampInt sgn w z).2)
  match op with
  | .qadd | .qaddu => sat (u + v)
  | .qsub | .qsubu => sat (u - v)
  | .qavg | .qavgu => (scode w (qRnd (u + v) 1 qrnd), false)
  | .qhsub | .qhsubu => (scode w (qRnd (u - v) 1 qrnd), false)
  | .qrshr | .qrshru => (scode w (qRnd u (b % w) qrnd), false)

/-- R220: qfmul. -/
def cvFmul (w qrnd a b : Nat) : Nat × Bool :=
  let z := clampInt true w (qRnd (sval w a * sval w b) (w - 1) qrnd)
  (scode w z.1, z.2)

/-- One element of a multiplier instruction of class 0x23. -/
def cvMul (op : CvMul) (w qrnd a b : Nat) : Nat × Bool :=
  match op with
  | .vmul => (a * b, false)
  | .vmulhi => (scode w (sval w a * sval w b / (2 ^ w : Nat)), false)
  | .vmulhiu => (a * b / 2 ^ w, false)
  | .qfmul => cvFmul w qrnd a b

/-- QRND. -/
def Dev.cvRnd (d : Dev) (k : Nat) : Nat := d.fld (.ccVstate k) F.ccVstate_QRND

/-- R216, R221: the results of the active elements, and VSAT where one saturated. -/
def Dev.cvFixPut (k vd va : Nat) (b : CvSrc) (pg : Nat) (f : Nat → Nat → Nat × Bool) (d : Dev) : Dev :=
  let w := d.cvBits k
  let rs := (d.cvActive k pg).map (fun i => (i, f (elemAt w (d.vReg k va) i) (d.cvSrc k b i)))
  let d := d.cvPut k vd (rs.map (fun p => (p.1, p.2.1)))
  if rs.any (fun p => p.2.2) then d.setFld (.ccFlags k) F.ccFlags_VSAT 1 else d

/-- VECTOR_MULTIPLY (R216, R220). -/
def execVectorMultiply (k : Nat) (op : CvMul) (vd va : Nat) (b : CvSrc) (pg : Nat) (s : State) : Host.Outcome State Fault Refusal :=
  s.upd (Dev.cvStep k (fun d => (d.cvFixPut k vd va b pg (cvMul op (d.cvBits k) (d.cvRnd k))).ccNext k))

/-- FIXED_POINT_OP (R220, R221). -/
def execFixedPointOp (k : Nat) (op : CvFix) (vd va : Nat) (b : CvSrc) (pg : Nat) (s : State) : Host.Outcome State Fault Refusal :=
  s.upd (Dev.cvStep k (fun d => (d.cvFixPut k vd va b pg (cvFix op (d.cvBits k) (d.cvRnd k))).ccNext k))

/-! ## Reductions and predicate logic (R216) -/

/-- Two elements combined. -/
def cvRedPair (op : CvRed) (w a b : Nat) : Nat :=
  match op with
  | .vrsum => (a + b) % 2 ^ w
  | .vrmax => cvAlu .vmax w a b
  | .vrmin => cvAlu .vmin w a b
  | .vrmaxu => max a b
  | .vrminu => min a b
  | .pand | .por | .pnot => a

/-- What an inactive element holds in the tree of 07 R188: the value of the width that changes no other (07 R189). -/
def cvRedNone (op : CvRed) (w : Nat) : Nat :=
  match op with
  | .vrmax => 2 ^ (w - 1)
  | .vrmin => 2 ^ (w - 1) - 1
  | .vrminu => 2 ^ w - 1
  | _ => 0

/-- A reduction of the active elements into element 0. -/
def Dev.cvReduce (k : Nat) (op : CvRed) (vd va pg : Nat) (d : Dev) : Dev :=
  let w := d.cvBits k
  d.cvPut k vd [(0, ((d.cvActive k pg).map (elemAt w (d.vReg k va))).foldl (cvRedPair op w) (cvRedNone op w))]

/-- VECTOR_REDUCTION: reductions, and and, or, not of predicate registers. -/
def execVectorReduction (k : Nat) (op : CvRed) (vd va vb pg : Nat) (s : State) : Host.Outcome State Fault Refusal :=
  s.upd (Dev.cvStep k (fun d =>
    let act := d.cvActive k pg
    let a (i : Nat) : Bool := bit (d.pReg k va) i
    let b (i : Nat) : Bool := bit (d.pReg k vb) i
    (match op with
     | .pand => d.cvPutP k vd (act.map (fun i => (i, a i && b i)))
     | .por => d.cvPutP k vd (act.map (fun i => (i, a i || b i)))
     | .pnot => d.cvPutP k vd (act.map (fun i => (i, !a i)))
     | op => d.cvReduce k op vd va pg).ccNext k))

end Sys2Proof.Machine
end

