-- ==== Sys2Proof/Machine/Dispatch.lean ====
section
/-! DEFINITION. What each command does to everything but the queue: one arm per constructor. -/

namespace Sys2Proof.Machine

/-- The effect of a command. -/
def exec (i : Instr) (s : State) : Host.Outcome State Fault Refusal :=
  match i with
  | .encoderEdge t a b => Sys2Proof.Machine.execEncoderEdge t a b s
  | .encoderLevelLoss line => Sys2Proof.Machine.execEncoderLevelLoss line s
  | .zEdge t => Sys2Proof.Machine.execZEdge t s
  | .mainsPulse dt small => Sys2Proof.Machine.execMainsPulse dt small s
  | .pllLockLoss => Sys2Proof.Machine.execPllLockLoss s
  | .ppsEdge dt => Sys2Proof.Machine.execPpsEdge dt s
  | .ppsMissingLoss dt => Sys2Proof.Machine.execPpsMissingLoss dt s
  | .stoppedCountsLoss dt => Sys2Proof.Machine.execStoppedCountsLoss dt s
  | .coastEnd dt => Sys2Proof.Machine.execCoastEnd dt s
  | .tideCycleStart dt => Sys2Proof.Machine.execTideCycleStart dt s
  | .shortCycleHoldEnd dt => Sys2Proof.Machine.execShortCycleHoldEnd dt s
  | .markFire dt m => Sys2Proof.Machine.execMarkFire dt m s
  | .freePhaseComplete => Sys2Proof.Machine.execFreePhaseComplete s
  | .tideLock dt rtt => Sys2Proof.Machine.execTideLock dt rtt s
  | .lockTimeout dt => Sys2Proof.Machine.execLockTimeout dt s
  | .resume req => Sys2Proof.Machine.execResume req s
  | .tideStep req => Sys2Proof.Machine.execTideStep req s
  | .remeasure req rtt => Sys2Proof.Machine.execRemeasure req rtt s
  | .forceStop req => Sys2Proof.Machine.execForceStop req s
  | .ptpLoss req => Sys2Proof.Machine.execPtpLoss req s
  | .tgPtimeStepWrite req v => Sys2Proof.Machine.execTgPtimeStepWrite req v s
  | .tgPtimeAdjWrite req v => Sys2Proof.Machine.execTgPtimeAdjWrite req v s
  | .relaySend dt => Sys2Proof.Machine.execRelaySend dt s
  | .relayMessage dt m => Sys2Proof.Machine.execRelayMessage dt m s
  | .relayLoss dt => Sys2Proof.Machine.execRelayLoss dt s
  | .tgStep q => Sys2Proof.Machine.execTgStep q s
  | .tgStop q => Sys2Proof.Machine.execTgStop q s
  | .phaseCompletionReport who entry => Sys2Proof.Machine.execPhaseCompletionReport who entry s
  | .powerThrottle dt pin => Sys2Proof.Machine.execPowerThrottle dt pin s
  | .openClockStep dt up => Sys2Proof.Machine.execOpenClockStep dt up s
  | .rngRegisterWrite req c j v => Sys2Proof.Machine.execRngRegisterWrite req c j v s
  | .sgMm q bad => Sys2Proof.Machine.execSgMm q bad s
  | .sgMmb q bad => Sys2Proof.Machine.execSgMmb q bad s
  | .checkReexecution q bad => Sys2Proof.Machine.execCheckReexecution q bad s
  | .svBind q => Sys2Proof.Machine.execSvBind q s
  | .svFactor q bad => Sys2Proof.Machine.execSvFactor q bad s
  | .svSolve q bad => Sys2Proof.Machine.execSvSolve q bad s
  | .svFsolve q bad => Sys2Proof.Machine.execSvFsolve q bad s
  | .svSigload q => Sys2Proof.Machine.execSvSigload q s
  | .dmDelta q bad => Sys2Proof.Machine.execDmDelta q bad s
  | .dmDense q bad => Sys2Proof.Machine.execDmDense q bad s
  | .vectorCommand q bad => Sys2Proof.Machine.execVectorCommand q bad s
  | .vxLd c x => Sys2Proof.Machine.execVxLd c x s
  | .vxSt c x => Sys2Proof.Machine.execVxSt c x s
  | .vxFloatArithmetic c op x => Sys2Proof.Machine.execVxFloatArithmetic c op x s
  | .vxFloatCompare c op x => Sys2Proof.Machine.execVxFloatCompare c op x s
  | .vxInteger c op x => Sys2Proof.Machine.execVxInteger c op x s
  | .vxShiftLogic c op x => Sys2Proof.Machine.execVxShiftLogic c op x s
  | .vxMove c op x => Sys2Proof.Machine.execVxMove c op x s
  | .vxReduction c op x => Sys2Proof.Machine.execVxReduction c op x s
  | .vxCvt c op x => Sys2Proof.Machine.execVxCvt c op x s
  | .vxScale c x => Sys2Proof.Machine.execVxScale c x s
  | .vxSmry c x => Sys2Proof.Machine.execVxSmry c x s
  | .vxLoop c x => Sys2Proof.Machine.execVxLoop c x s
  | .vxEndloop c x => Sys2Proof.Machine.execVxEndloop c x s
  | .vxEnd c x => Sys2Proof.Machine.execVxEnd c x s
  | .vxScalarControl c op x => Sys2Proof.Machine.execVxScalarControl c op x s
  | .mailboxPost c => Sys2Proof.Machine.execMailboxPost c s
  | .ccIntegerOp k x => Sys2Proof.Machine.execCcIntegerOp k x s
  | .ccLoad k par size sgn uncached rd ra off => Sys2Proof.Machine.execCcLoad k par size sgn uncached rd ra off s
  | .ccStore k size uncached rb ra off => Sys2Proof.Machine.execCcStore k size uncached rb ra off s
  | .ccAtomic k op rd ra rb rc => Sys2Proof.Machine.execCcAtomic k op rd ra rb rc s
  | .ccBranch k x => Sys2Proof.Machine.execCcBranch k x s
  | .ccFloatOp k dbl op rm rd ra rb rc => Sys2Proof.Machine.execCcFloatOp k dbl op rm rd ra rb rc s
  | .ccFloatConvert k op rm rd ra => Sys2Proof.Machine.execCcFloatConvert k op rm rd ra s
  | .ccSys k => Sys2Proof.Machine.execCcSys k s
  | .ccBrk k => Sys2Proof.Machine.execCcBrk k s
  | .ccTret k => Sys2Proof.Machine.execCcTret k s
  | .ccFence k => Sys2Proof.Machine.execCcFence k s
  | .ccWfi k => Sys2Proof.Machine.execCcWfi k s
  | .srRd k rd r => Sys2Proof.Machine.execSrRd k rd r s
  | .srWr k r ra => Sys2Proof.Machine.execSrWr k r ra s
  | .interrupt k => Sys2Proof.Machine.execInterrupt k s
  | .mbwait k rd ra rb => Sys2Proof.Machine.execMbwait k rd ra rb s
  | .mbwaitDeadline k dt => Sys2Proof.Machine.execMbwaitDeadline k dt s
  | .mbtake k rd re n => Sys2Proof.Machine.execMbtake k rd re n s
  | .cctake k rd rb => Sys2Proof.Machine.execCctake k rd rb s
  | .cctakeDeadline k dt => Sys2Proof.Machine.execCctakeDeadline k dt s
  | .ccarg k rd rs n => Sys2Proof.Machine.execCcarg k rd rs n s
  | .ccdone k rs re => Sys2Proof.Machine.execCcdone k rs re s
  | .setvl k rd ra im => Sys2Proof.Machine.execSetvl k rd ra im s
  | .vld k vd ra pg => Sys2Proof.Machine.execVld k vd ra pg s
  | .vst k vs ra pg => Sys2Proof.Machine.execVst k vs ra pg s
  | .vectorAlu k op vd va b pg => Sys2Proof.Machine.execVectorAlu k op vd va b pg s
  | .vectorMultiply k op vd va b pg => Sys2Proof.Machine.execVectorMultiply k op vd va b pg s
  | .fixedPointOp k op vd va b pg => Sys2Proof.Machine.execFixedPointOp k op vd va b pg s
  | .vectorReduction k op vd va vb pg => Sys2Proof.Machine.execVectorReduction k op vd va vb pg s
  | .ccCall q => Sys2Proof.Machine.execCcCall q s
  | .doorbellWrite req q b => Sys2Proof.Machine.execDoorbellWrite req q b s
  | .cqResume req q => Sys2Proof.Machine.execCqResume req q s
  | .cqStop req q => Sys2Proof.Machine.execCqStop req q s
  | .signalCounterWrite req n v => Sys2Proof.Machine.execSignalCounterWrite req n v s
  | .routineInvalid q => Sys2Proof.Machine.execRoutineInvalid q s
  | .commandCompletion q => Sys2Proof.Machine.execCommandCompletion q s
  | .cqNop q => Sys2Proof.Machine.execCqNop q s
  | .cqPatchfence q => Sys2Proof.Machine.execCqPatchfence q s
  | .cqLoop q => Sys2Proof.Machine.execCqLoop q s
  | .cqEndloop q => Sys2Proof.Machine.execCqEndloop q s
  | .cqRecord q => Sys2Proof.Machine.execCqRecord q s
  | .segmentCopy q => Sys2Proof.Machine.execSegmentCopy q s
  | .cqEndrec q => Sys2Proof.Machine.execCqEndrec q s
  | .cqReplay q => Sys2Proof.Machine.execCqReplay q s
  | .cqSwapbank q => Sys2Proof.Machine.execCqSwapbank q s
  | .routineBankWrite req c bank off v => Sys2Proof.Machine.execRoutineBankWrite req c bank off v s
  | .verify req c => Sys2Proof.Machine.execVerify req c s
  | .bankVerifyEnd c ok dir => Sys2Proof.Machine.execBankVerifyEnd c ok dir s
  | .coveAccess src addr wr len found => Sys2Proof.Machine.execCoveAccess src addr wr len found s
  | .bulkPromotion w => Sys2Proof.Machine.execBulkPromotion w s
  | .patrolScrub v addr flaw passEnd => Sys2Proof.Machine.execPatrolScrub v addr flaw passEnd s
  | .stackTempSample v t0 t1 t2 t3 => Sys2Proof.Machine.execStackTempSample v t0 t1 t2 t3 s
  | .stackThrottleEval v => Sys2Proof.Machine.execStackThrottleEval v s
  | .junctionThrottle v j0 j1 => Sys2Proof.Machine.execJunctionThrottle v j0 j1 s
  | .unkeep req v => Sys2Proof.Machine.execUnkeep req v s
  | .dmCopy q bad => Sys2Proof.Machine.execDmCopy q bad s
  | .dmStride q bad => Sys2Proof.Machine.execDmStride q bad s
  | .dmGather q bad => Sys2Proof.Machine.execDmGather q bad s
  | .dmScatter q bad => Sys2Proof.Machine.execDmScatter q bad s
  | .xlatInv req u => Sys2Proof.Machine.execXlatInv req u s
  | .farPortDown p => Sys2Proof.Machine.execFarPortDown p s
  | .farTierAerEvent p unc cor => Sys2Proof.Machine.execFarTierAerEvent p unc cor s
  | .dramRefresh v => Sys2Proof.Machine.execDramRefresh v s
  | .bmeSgd q bad => Sys2Proof.Machine.execBmeSgd q bad s
  | .bmeAdamw q bad => Sys2Proof.Machine.execBmeAdamw q bad s
  | .bmeRowada q bad => Sys2Proof.Machine.execBmeRowada q bad s
  | .memoryPlaneAccessReceive m => Sys2Proof.Machine.execMemoryPlaneAccessReceive m s
  | .remoteAtomic => Sys2Proof.Machine.execRemoteAtomic s
  | .acknowledgementSend slot => Sys2Proof.Machine.execAcknowledgementSend slot s
  | .acknowledgementReceive slot n => Sys2Proof.Machine.execAcknowledgementReceive slot n s
  | .remoteReadResponse id data => Sys2Proof.Machine.execRemoteReadResponse id data s
  | .rackPathDown path => Sys2Proof.Machine.execRackPathDown path s
  | .torusPortDown die port => Sys2Proof.Machine.execTorusPortDown die port s
  | .linkLevelRetransmission die port => Sys2Proof.Machine.execLinkLevelRetransmission die port s
  | .torusPacketHop m => Sys2Proof.Machine.execTorusPacketHop m s
  | .fbPeerDeadWrite req v => Sys2Proof.Machine.execFbPeerDeadWrite req v s
  | .fbAmo q => Sys2Proof.Machine.execFbAmo q s
  | .fbSend q accepted => Sys2Proof.Machine.execFbSend q accepted s
  | .sendPayloadDone id => Sys2Proof.Machine.execSendPayloadDone id s
  | .fbRecv q => Sys2Proof.Machine.execFbRecv q s
  | .messageHeaderArrival die src tag len id => Sys2Proof.Machine.execMessageHeaderArrival die src tag len id s
  | .messageReceiveDone die data => Sys2Proof.Machine.execMessageReceiveDone die data s
  | .headerResend q accepted => Sys2Proof.Machine.execHeaderResend q accepted s
  | .fbNop q => Sys2Proof.Machine.execFbNop q s
  | .fbAllreduce q => Sys2Proof.Machine.execFbAllreduce q s
  | .fbRscat q => Sys2Proof.Machine.execFbRscat q s
  | .fbAgather q => Sys2Proof.Machine.execFbAgather q s
  | .fbBcast q => Sys2Proof.Machine.execFbBcast q s
  | .fbBarrier q => Sys2Proof.Machine.execFbBarrier q s
  | .segmentAdmission => Sys2Proof.Machine.execSegmentAdmission s
  | .triggeredOperation g seg x => Sys2Proof.Machine.execTriggeredOperation g seg x s
  | .collectivePacketArrival m => Sys2Proof.Machine.execCollectivePacketArrival m s
  | .abortToken g => Sys2Proof.Machine.execAbortToken g s
  | .fbGstatAbort req g => Sys2Proof.Machine.execFbGstatAbort req g s
  | .fbGstatReset req g => Sys2Proof.Machine.execFbGstatReset req g s
  | .slotCommit dt p n held => Sys2Proof.Machine.execSlotCommit dt p n held s
  | .keepAliveSend dt p n => Sys2Proof.Machine.execKeepAliveSend dt p n s
  | .frameReceive dt p frame fcsOk => Sys2Proof.Machine.execFrameReceive dt p frame fcsOk s
  | .ppFbload q => Sys2Proof.Machine.execPpFbload q s
  | .ppSend q dt => Sys2Proof.Machine.execPpSend q dt s
  | .plantLinkDown p => Sys2Proof.Machine.execPlantLinkDown p s
  | .plantLinkUp p => Sys2Proof.Machine.execPlantLinkUp p s
  | .imgLoad req banks => Sys2Proof.Machine.execImgLoad req banks s
  | .unload req => Sys2Proof.Machine.execUnload req s
  | .registerWrite req off size v => Sys2Proof.Machine.execRegisterWrite req off size v s
  | .biasFlip req v dirty => Sys2Proof.Machine.execBiasFlip req v dirty s
  | .identity req len => Sys2Proof.Machine.execIdentity req len s
  | .attest req len => Sys2Proof.Machine.execAttest req len s
  | .ownerSet req len signed => Sys2Proof.Machine.execOwnerSet req len signed s
  | .mgmt req len signed => Sys2Proof.Machine.execMgmt req len signed s
  | .mailboxBadRequest req cmd len => Sys2Proof.Machine.execMailboxBadRequest req cmd len s
  | .hlHostDbWrite req v => Sys2Proof.Machine.execHlHostDbWrite req v s
  | .restart req k => Sys2Proof.Machine.execRestart req k s
  | .dbSet req k => Sys2Proof.Machine.execDbSet req k s
  | .featLock req => Sys2Proof.Machine.execFeatLock req s
  | .hostless => Sys2Proof.Machine.execHostless s
  | .hostLinkDown => Sys2Proof.Machine.execHostLinkDown s
  | .hostLinkUp => Sys2Proof.Machine.execHostLinkUp s
  | .powerGood board boot => Sys2Proof.Machine.execPowerGood board boot s
  | .identityTreesBuilt ok => Sys2Proof.Machine.execIdentityTreesBuilt ok s
  | .bcastSend req banks => Sys2Proof.Machine.execBcastSend req banks s
  | .chunkReceive root size n data => Sys2Proof.Machine.execChunkReceive root size n data s
  | .chunkTimeout => Sys2Proof.Machine.execChunkTimeout s
  | .broadcastAcknowledgement child count => Sys2Proof.Machine.execBroadcastAcknowledgement child count s
  | .broadcastResendRequest child => Sys2Proof.Machine.execBroadcastResendRequest child s
  | .broadcastDiscardNotice => Sys2Proof.Machine.execBroadcastDiscardNotice s
  | .bcastStart banks => Sys2Proof.Machine.execBcastStart banks s
  | .fenceGo req c persist => Sys2Proof.Machine.execFenceGo req c persist s
  | .fenceReport c => Sys2Proof.Machine.execFenceReport c s
  | .inj req c unit count => Sys2Proof.Machine.execInj req c unit count s
  | .soundingTestGo req c full => Sys2Proof.Machine.execSoundingTestGo req c full s
  | .coreSoundCommand q => Sys2Proof.Machine.execCoreSoundCommand q s
  | .soundResult c fail => Sys2Proof.Machine.execSoundResult c fail s
  | .custodianEvent => Sys2Proof.Machine.execCustodianEvent s
  | .custodianError e => Sys2Proof.Machine.execCustodianError e s
  | .tideCmp u again => Sys2Proof.Machine.execTideCmp u again s
  | .supplyWarn vin => Sys2Proof.Machine.execSupplyWarn vin s
  | .supplyWarnClear vin => Sys2Proof.Machine.execSupplyWarnClear vin s
  | .supplyReset vin => Sys2Proof.Machine.execSupplyReset vin s
  | .powerDown vin => Sys2Proof.Machine.execPowerDown vin s
  | .resetN => Sys2Proof.Machine.execResetN s
  | .perstN low => Sys2Proof.Machine.execPerstN low s
  | .recordResume => Sys2Proof.Machine.execRecordResume s
  | .replayGo req kinds => Sys2Proof.Machine.execReplayGo req kinds s
  | .armOff req => Sys2Proof.Machine.execArmOff req s
  | .replayDeliver dt => Sys2Proof.Machine.execReplayDeliver dt s
  | .snap req => Sys2Proof.Machine.execSnap req s
  | .snapshotWrite => Sys2Proof.Machine.execSnapshotWrite s
  | .folioTrigger => Sys2Proof.Machine.execFolioTrigger s
  | .folioGo req => Sys2Proof.Machine.execFolioGo req s
  | .folioRequest x => Sys2Proof.Machine.execFolioRequest x s
  | .leafCopy => Sys2Proof.Machine.execLeafCopy s
  | .folioCommit => Sys2Proof.Machine.execFolioCommit s
  | .folioValid => Sys2Proof.Machine.execFolioValid s
  | .folioAbort req => Sys2Proof.Machine.execFolioAbort req s
  | .abandonNotice gen cause => Sys2Proof.Machine.execAbandonNotice gen cause s
  | .restore req mask leaves => Sys2Proof.Machine.execRestore req mask leaves s
  | .restoreChoice rank gen => Sys2Proof.Machine.execRestoreChoice rank gen s
  | .restoreAnnouncement gen lost x => Sys2Proof.Machine.execRestoreAnnouncement gen lost x s
  | .restoreEnd => Sys2Proof.Machine.execRestoreEnd s
  | .healthSummary => Sys2Proof.Machine.execHealthSummary s
  | .healthGet tag => Sys2Proof.Machine.execHealthGet tag s
  | .fenceCore tag c persist => Sys2Proof.Machine.execFenceCore tag c persist s
  | .sound tag c full => Sys2Proof.Machine.execSound tag c full s
  | .setCap tag cap floor => Sys2Proof.Machine.execSetCap tag cap floor s
  | .setThresh tag warn rst => Sys2Proof.Machine.execSetThresh tag warn rst s
  | .logFetch tag first count => Sys2Proof.Machine.execLogFetch tag first count s
  | .mgmtReset tag => Sys2Proof.Machine.execMgmtReset tag s
  | .managementAttest tag nonce => Sys2Proof.Machine.execManagementAttest tag nonce s
  | .managementOwnerSet tag req signed => Sys2Proof.Machine.execManagementOwnerSet tag req signed s
  | .reparent tag id => Sys2Proof.Machine.execReparent tag id s
  | .addChild tag id => Sys2Proof.Machine.execAddChild tag id s
  | .dropChild tag id => Sys2Proof.Machine.execDropChild tag id s
  | .mctpControl m => Sys2Proof.Machine.execMctpControl m s
  | .pldmMonitoring m => Sys2Proof.Machine.execPldmMonitoring m s
  | .pldmFirmwareUpdate m => Sys2Proof.Machine.execPldmFirmwareUpdate m s
  | .i3cDynamicAddressAssignment addr => Sys2Proof.Machine.execI3cDynamicAddressAssignment addr s
  | .minClr req => Sys2Proof.Machine.execMinClr req s

end Sys2Proof.Machine
end

