-- ==== Sys2Proof/Safety.lean ====
section
/-! DEFINITION. What the statements speak of: a command that answers a next state, the canonical form of every memory of the package,
and the invariant that every step keeps. -/

namespace Sys2Proof.Machine

/-- Command `c` answers a next state whose package has the property `P`; the commands that wait are as they were. -/
def Yields (c : Instr) (s : State) (P : Dev → Prop) : Prop := ∃ t, exec c s = .next t ∧ t.pending = s.pending ∧ P t.dev

/-- Every memory of the package is in canonical form: the stacked memory, the far tier, and each core's store. -/
def Dev.memWf (d : Dev) : Prop :=
  Memory.wf d.mem = true ∧ Memory.wf d.far = true ∧ ∀ p ∈ d.cores, Memory.wf p.2.store = true

/-- 17 R496: the custodian's pending queue holds at most 64 events. -/
def Dev.custWf (d : Dev) : Prop := d.custQ.length ≤ 64

/-- What every step keeps: canonical memories, and a custodian's queue within its bound. -/
def Dev.Inv (d : Dev) : Prop := d.memWf ∧ d.custWf

/-- 15 R436: the register exists, and the requester may write it. -/
def Dev.allows (d : Dev) (req : Req) (r : Reg) (v : Word) : Prop := d.exists r = true ∧ d.mayWrite req r v = true

/-- 09 R250, R252, R257: what stands in package `d` after the start, in package `d0`, of the command with descriptor `ws` in queue `q`:
the queue's serial has grown by one, and the command is the last of the running ones, with that serial, its descriptor and the block
that its descriptor names; it has status `st`. -/
def Dev.started (d0 : Dev) (q : Nat) (ws : List Word) (st : Nat) (d : Dev) : Prop :=
  d.fld (.cqSerial q) ⟨47, 0⟩ = (d0.fld (.cqSerial q) ⟨47, 0⟩ + 1) % 2 ^ 48 ∧
    ∃ r, (d.queue q).runs = (d0.queue q).runs ++ [r] ∧ r.serial = (d0.fld (.cqSerial q) ⟨47, 0⟩ + 1) % 2 ^ 48 ∧ r.desc = ws ∧
      r.params = d0.paramBlock (d0.qHome q) (dPblk ws) ∧ r.status = st

/-- 02 R61: the package `d` coasts after a loss of cause `cause` in the package `d0`: TG_STATUS shows it, and COAST + 1 cycles are left. -/
def Dev.coasts (d0 : Dev) (cause : Nat) (d : Dev) : Prop :=
  d.tideState = 3 ∧ d.fld .tgStatus F.tgStatus_CAUSE = cause ∧ d.fld .tgStatus F.tgStatus_COAST_EV = 1 ∧
    d.tide.coastLeft = d0.lfld .tgLoss F.tgLoss_COAST + 1

/-- 02 R62, R64: the tide gate stands in STOP, and TG_STATUS.STOP_EV says so. -/
def Dev.inStop (d : Dev) : Prop := d.tideState = 4 ∧ d.fld .tgStatus F.tgStatus_STOP_EV = 1

/-- 02 R57: a free-tide advance of `d` goes where the next phase starts, or to the cycle end, without being held by the 20 us floor. -/
def Dev.mayAdvance (d : Dev) : Prop :=
  d.tideState = 2 ∧ d.tideSrc = 4 ∧ d.tide.hold = false ∧ d.tidePos < d.nextStop ∧ d.nextStop < 2 ^ 63 ∧
    (d.nextStop < d.tideLen ∨ d.tide.cycAt + floor20 ≤ d.ptime)

/-- 02 R57: the tide count of `d` is the one to which a free-tide advance of `d0` goes. -/
def Dev.advancedFrom (d0 d : Dev) : Prop := d.tide.count = d0.tide.cycStart + BitVec.ofNat 64 d0.nextStop

/-- 09 R252: no running command of queue `q` has the serial that the next start gives. -/
def Dev.fresh (d : Dev) (q : Nat) : Prop := ∀ r ∈ (d.queue q).runs, r.serial ≠ (d.fld (.cqSerial q) ⟨47, 0⟩ + 1) % 2 ^ 48

/-- 04 R108, R109: after a surrogate product with parameters `g` on core `c` of `d0`, each element of C holds what the product of the
operands as they stood gives, and every other byte of the core store is as it was. -/
def Dev.sgDone (d0 : Dev) (c : Nat) (g : SgParam) (d : Dev) : Prop :=
  (∀ item i j, item < g.batch → i < g.m → j < g.n →
    d.csRead c (g.c.addr + item * g.c.bs + i * g.c.ld + 4 * j) 4 = bytesOf 4 (d0.sgOut c g item i j)) ∧
  ∀ a, (∀ item i, item < g.batch → i < g.m →
      a < g.c.addr + item * g.c.bs + i * g.c.ld ∨ g.c.addr + item * g.c.bs + i * g.c.ld + 4 * g.n ≤ a) →
    Mem.get (d.core c).store a = Mem.get (d0.core c).store a

/-- No check of core `c` fails by an injection: none waits there. -/
def Dev.noInj (d : Dev) (c : Nat) : Prop := (d.core c).inj = none

/-- 07 R180, R182: the vector engine of core `c` stands at an instruction of the routine that runs in queue `q` as `r`, outside the body
of a zero-count loop, with no word of its routine store in error, and its check does not fail. -/
def Dev.vxAt (d : Dev) (c q : Nat) (r : Run) : Prop :=
  d.vxRun c = some (q, r) ∧ r ∈ (d.queue q).runs ∧ (d.core c).vskip = 0 ∧ d.noInj c ∧ r.failAt ≠ some r.icount ∧
    ∀ w ∈ d.badWords, w.kind = 5 → w.unit ≠ c

/-- 09 R252, R257, 10 R303: the run of the command with descriptor `ws` that queue `q` of `d` starts. -/
def Dev.newRun (d : Dev) (q : Nat) (ws : List Word) : Run :=
  { serial := (d.fld (.cqSerial q) ⟨47, 0⟩ + 1) % 2 ^ 48, slot := (d.queue q).slotNow, desc := ws
    params := d.paramBlock (d.qHome q) (dPblk ws), root := d.rootOf (d.qHome q) }

/-- 10 R294, R297: source, destination and length of each element of a mover command of routine `rtn` with parameters `w`. -/
def Dev.dmElems (d : Dev) (c : DmSite) (rtn : Nat) (w : List Word) : List (Nat × Nat × Nat) :=
  match rtn with
  | 0x100 => (copyElems w).map (·.2)
  | 0x101 => (strideElems w).map (·.2)
  | _ => (listElems w).filterMap (fun i => match d.listEntry [] c w i with
    | .ok (_, bs) =>
      let x := listSides (decide (rtn = 0x103)) w i (ofBytes bs)
      some (x.1, x.2, (listCount w).2.2)
    | .error _ => none)

/-- The engine of core `c` has come from `d0` to `d` at the next instruction, with the core store, the scalar registers, the vector
registers but those that `v` names and the predicates but those that `p` names as they were. -/
def Dev.vxKept (d0 : Dev) (c : Nat) (v p : Nat → Prop) (d : Dev) : Prop :=
  (d.core c).vpc = (d0.core c).vpc + 1 ∧ (d.core c).store = (d0.core c).store ∧ (∀ n, d.scal c n = d0.scal c n) ∧
    (∀ n, ¬ v n → d.vreg c n = d0.vreg c n) ∧ ∀ n, ¬ p n → d.pred c n = d0.pred c n

/-- Element `i` of register `n` of core `c`, `b` bits wide. -/
def Dev.vxElem (d : Dev) (c b n i : Nat) : Nat := d.vreg c n / 2 ^ (b * i) % 2 ^ b

/-- 07 R178: the elements of VD are `f` where the governing predicate is set, else zero or what they were; nothing else of the core
changes. -/
def Dev.vxWrote (d0 : Dev) (c : Nat) (x : VxIns) (b n : Nat) (f : Nat → Nat) (d : Dev) : Prop :=
  d0.vxKept c (· = x.vd) (fun _ => False) d ∧ ∀ i, i < n → d.vxElem c b x.vd i =
    if bit (d0.pred c x.pg) i then f i % 2 ^ b else if x.z then 0 else d0.vxElem c b x.vd i

/-- 07 R177, R178: the bits of predicate VD below the element count are `f` where the governing predicate is set, else zero or what they
were, and those above are 0; p0 stays all ones. -/
def Dev.vxWroteP (d0 : Dev) (c : Nat) (x : VxIns) (n : Nat) (f : Nat → Bool) (d : Dev) : Prop :=
  d0.vxKept c (fun _ => False) (fun p => p % 8 = x.vd % 8 ∧ x.vd % 8 ≠ 0) d ∧ (x.vd % 8 ≠ 0 → ∀ i, i < 256 → bit (d.pred c x.vd) i =
    (decide (i < n) && if bit (d0.pred c x.pg) i then f i else !x.z && bit (d0.pred c x.vd) i))

/-- A run with serial `n` of queue `q` has ended with status `st`. -/
def Dev.ended (q n st : Nat) (d : Dev) : Prop := ∃ r ∈ (d.queue q).runs, r.serial = n ∧ r.status = st ∧ r.done = true

/-- 08 R202, R206: control core `k` can execute the instruction at its program counter: it is not halted, waits for nothing, and its fetch
does not stop. -/
def Dev.ccAt (d : Dev) (k : Nat) : Prop :=
  d.ccReady k = true ∧ ∃ l, d.ccPiece k .fetch false (d.cc k).pc.toNat 4 = .ok l

/-- Control core `k` has come from `d0` to `d` at address `pc`, ready for its next instruction, with the g registers but those that `g`
names, the vector registers but those that `v` names and the predicates but those that `p` names as they were. -/
def Dev.ccKept (d0 : Dev) (k : Nat) (pc : Word) (g v p : Nat → Prop) (d : Dev) : Prop :=
  (d.cc k).pc = pc ∧ (d.cc k).wait = .run ∧ (∀ n, ¬ g (n % 32) → d.gReg k n = d0.gReg k n) ∧
    (∀ n, ¬ v (n % 32) → d.vReg k n = d0.vReg k n) ∧ ∀ n, ¬ p (n % 8) → d.pReg k n = d0.pReg k n

/-- 08 R202: an instruction of core `k` has completed with `x` in register `rd` (g0 stays zero), and nothing else of the core's registers
has changed. -/
def Dev.ccDid (d0 : Dev) (k rd : Nat) (x : Word) (d : Dev) : Prop :=
  d0.ccKept k ((d0.cc k).pc + 4) (fun n => n = rd % 32 ∧ rd % 32 ≠ 0) (fun _ => False) (fun _ => False) d ∧
    (rd % 32 ≠ 0 → d.gReg k rd = x)

/-- 08 R209: control core `k` has taken a trap out of `d0`: the saved address, cause and faulting address, the saved and the new status,
and the program counter at the vector; TRAP was 0, so that the core is not halted. -/
def Dev.trapped (d0 : Dev) (k cause : Nat) (pc : Word) (addr : Nat) (d : Dev) : Prop :=
  d.rd (.ccTrapPc k) = pc ∧ d.fld (.ccTrapCause k) F.ccTrapCause_CAUSE = cause ∧ d.rd (.ccTrapAddr k) = BitVec.ofNat 64 addr ∧
    d.fld (.ccStatus k) F.ccStatus_SPRIV = d0.fld (.ccStatus k) F.ccStatus_PRIV ∧
    d.fld (.ccStatus k) F.ccStatus_SIE = d0.fld (.ccStatus k) F.ccStatus_IE ∧
    d.fld (.ccStatus k) F.ccStatus_PRIV = 1 ∧ d.fld (.ccStatus k) F.ccStatus_IE = 0 ∧ d.fld (.ccStatus k) F.ccStatus_TRAP = 1 ∧
    d.fld (.ccStatus k) F.ccStatus_HALT = d0.fld (.ccStatus k) F.ccStatus_HALT ∧
    (d.cc k).pc = d0.rd (.ccTvec k) &&& ~~~(3 : Word) ∧ (d.cc k).g = (d0.cc k).g

/-- 08 R215, R216: the long-vector state of core `k` is valid and vl is not zero. -/
def Dev.cvOn (d : Dev) (k : Nat) : Prop := d.flag (.ccVstate k) F.ccVstate_ILL = false ∧ d.cvLen k ≠ 0

/-- 08 R216: the active elements of vector register `vd` are `f`, the others and every other register as they were. -/
def Dev.cvWrote (d0 : Dev) (k vd pg : Nat) (f : Nat → Nat) (d : Dev) : Prop :=
  d0.ccKept k ((d0.cc k).pc + 4) (fun _ => False) (· = vd % 32) (fun _ => False) d ∧
    ∀ i, i < 1024 / d0.cvBits k → elemAt (d0.cvBits k) (d.vReg k vd) i =
      if i < d0.cvLen k ∧ bit (d0.pReg k pg) i = true then f i % 2 ^ d0.cvBits k else elemAt (d0.cvBits k) (d0.vReg k vd) i

/-- 19 R537: no folio is copying, so that a store finds no leaf to copy first. -/
def Dev.noCopy (d : Dev) : Prop := d.fld .glFolioStatus F.glFolioStatus_STATE ≠ 2

/-- Bytes `bs` stand at stacked address `a` of `d`, and every other byte of stacked memory is as in `d0`. -/
def Dev.memPut (d0 : Dev) (a : Nat) (bs : List Byte) (d : Dev) : Prop :=
  Mem.read d.mem a bs.length = bs ∧ ∀ x, (x < a ∨ a + bs.length ≤ x) → Mem.get d.mem x = Mem.get d0.mem x

/-- A frame: from package `d0` to `d` only the fields that `keep` copies have changed, the registers that differ are among `touch`, and
every byte of stacked memory and the far tier reads as it did. -/
def Dev.framed (d0 : Dev) (keep : Dev → Dev) (touch : Reg → Prop) (d : Dev) : Prop :=
  d = keep d ∧ (∀ r, ¬ touch r → d.rd r = d0.rd r) ∧ ∀ a, Mem.get d.mem a = Mem.get d0.mem a ∧ Mem.get d.far a = Mem.get d0.far a

/-- The registers of control core `k` that its instructions write, and the registers that count and report what they do. -/
def Reg.ofCc (k : Nat) (r : Reg) : Prop :=
  r ∈ [.ccStatus k, .ccTrapPc k, .ccTrapCause k, .ccTrapAddr k, .ccFlags k, .ccVstate k, .hlEvent, .glErrStatus] ∨
    ∃ n, r ∈ [.ccMboxTag k n, .cnPmcValue n, .cvEcc n, .cvEccAddr n, .ftPort n]

/-- The registers that a command of core `c` in queue `q` writes while its core is not fenced. -/
def Reg.ofEngine (c q : Nat) (r : Reg) : Prop :=
  r ∈ [.cnChoiceBit, .cnChoiceTime, .cqSerial q, .coreChkStatus c, .coreVxFlags c, .glErrStatus, .glChkCtl] ∨
    ∃ n i, r ∈ [.cqSig n, .corePmcValue c n, .coreRngCtr c n, .coreSig c n, .cvEcc n, .cvEccAddr n, .cvPmcValue n i, .ftPort n]

/-- The registers that the tide gate writes on a loss, a stop or the passing of time. -/
def Reg.ofTide (r : Reg) : Prop :=
  r ∈ [.tgStatus, .tgRelay, .cnChoiceTime, .glErrStatus, .cnRplStatus] ∨ ∃ n, r ∈ [.tgPmcValue n, .ppStatus n]

end Sys2Proof.Machine
end

