-- ==== Sys2Proof/Certificates/Slice0/Obligations.lean ====
section
/-! DEFINITION. The statements for the provers: the whole machine, the rules stated whole, frames, and then what the commands of each
chapter of the spec do. A statement whose docstring names log entries follows the model's choices there, in notes/assumptions. -/

open Sys2Proof Sys2Proof.Machine

/-! ### The whole machine, and rules stated whole -/

/-- A step runs the command at the front of the queue on the state with the queue's rest; on an empty queue one cycle of the processor
die passes (the model's choice, log entry 5). -/
def Obligations.StepTakesCommandsInOrder : Prop :=
  ∀ (s : State), (∀ c rest, s.pending = c :: rest → step s = exec c { s with pending := rest }) ∧
    (s.pending = [] → step s = .next { s with dev := s.dev.elapse 1 })

/-- Every command answers a next state and leaves the waiting commands as they are; only an access that no cove serves stops, by name
(16 R441). -/
def Obligations.CommandsAnswer : Prop :=
  ∀ (c : Instr) (s : State), (∃ t, exec c s = .next t ∧ t.pending = s.pending) ∨
    (exec c s = .fault .noSuchAddress ∧ ∃ src addr wr len found, c = .coveAccess src addr wr len found ∧
      s.dev.coveReach src addr ((wr.map List.length).getD len) = false)

/-- R10: right after reset every register holds the value of its Reset column, no image is loaded, no command waits; memories list
nothing (the model's choice, log entry 2), and the invariant of the package holds. -/
def Obligations.ResetState : Prop :=
  State.reset.pending = [] ∧ (∀ r, State.reset.dev.rd r = r.rst) ∧ State.reset.dev.Inv ∧
  State.reset.dev.fld .glPwrCap F.glPwrCap_CAP = 3400 ∧ State.reset.dev.fld .glPwrCap F.glPwrCap_FLOOR = 2400 ∧
  State.reset.dev.tideState = 0 ∧ State.reset.dev.loaded = false ∧ State.reset.dev.fld (.ccStatus 0) F.ccStatus_HALT = 1 ∧
  State.reset.dev.fld (.ccStatus 0) F.ccStatus_PRIV = 1 ∧ State.reset.dev.fld (.ccVstate 0) F.ccVstate_ILL = 1 ∧
  (∀ q, (State.reset.dev.queue q).mode = .unbound) ∧ ∀ a, Mem.get State.reset.dev.mem a = 0

/-- Every step keeps the package's invariant: the stacked memory, the far tier and every core store stay in canonical form (log entry
2), and the custodian's pending queue holds at most 64 events (17 R496). -/
def Obligations.EveryStepKeepsInv : Prop :=
  ∀ (s t : State), s.dev.Inv → step s = .next t → t.dev.Inv

/-- R430 and R9, at the operation that every software write of a register goes through: a write that the image locks, and a write of a
value that the register's table lists as unused, are ignored. -/
def Obligations.WritesIgnoredWhole : Prop :=
  ∀ (s : State) (req : Req) (off size : Nat) (v : Word) (r : Reg), s.dev.regAt off = some r →
    ((r.info.eff = .load ∧ s.dev.loaded = true) ∨ (∃ f ∈ r.info.fields, f.writable = true ∧ f.inUse v.toNat = false)) →
    exec (.registerWrite req off size v) s = .next s ∧ s.dev.ctlWrite req off size v = s.dev

/-- R64: FORCE_STOP enters STOP from LOCKED and from COAST, and does nothing elsewhere. -/
def Obligations.ForceStopEntersStop : Prop :=
  ∀ (s : State) (req : Req), s.dev.allows req .tgCmd 8 →
    ((s.dev.tideState = 2 ∨ s.dev.tideState = 3) → Yields (.forceStop req) s Dev.inStop) ∧
    (s.dev.tideState ∈ [0, 1, 4] → exec (.forceStop req) s = .next s)

/-- R435: a register whose chapter does not say who may access it: the host driver and the custodian may read and write it, the
supervisor may read it, and job code reads zero; a write that is not allowed is ignored. -/
def Obligations.DefaultAccess : Prop :=
  ∀ (s : State) (off size k : Nat) (v : Word) (r : Reg), s.dev.regAt off = some r → r.info.acl = .dflt → r.info.bytes = size →
    (∀ req ∈ [Req.host, .custodian], s.dev.mayWrite req r v = true) ∧
    (∀ req ∈ [Req.host, .custodian, .sup k], s.dev.ctlRead req off size = (s.dev.regValue r).toNat) ∧
    s.dev.ctlRead (.job k) off size = 0 ∧
    ∀ req ∈ [Req.sup k, .job k], exec (.registerWrite req off size v) s = .next s

/-- R455 and R456: with the host link down at the end of start-up step 5, the custodian locks the offered vector itself and sets
HOSTLESS; a broadcast START that was held loads its image then. Where the spec leaves a corner open, the clauses follow the model's
choices of log entry 48. -/
def Obligations.HostlessLock : Prop :=
  ∀ (s : State), let d0 := s.dev
    let locks := fun (d : Dev) => d.fld .hlFeatCtl F.hlFeatCtl_LOCKED = 1 ∧ d.fld .hlFeatCtl F.hlFeatCtl_HOSTLESS = 1 ∧
      ∀ j, j < 2 → d.rd (.hlFeatAccept j) = d0.rd (.hlFeatOffer j)
    d0.fld .glBootStatus F.glBootStatus_STAGE = 4 → d0.hostLink = false → d0.flag .hlFeatCtl F.hlFeatCtl_LOCKED = false →
    (d0.bcast.startHeld = false → Yields .hostless s locks) ∧
    (d0.bcast.startHeld = true → Yields .hostless s (fun d => ∃ x, locks x ∧ d = x.loadImage d0.bcast.dirs))

/-! ### Frames: what commands leave as it was -/

/-- R202, R206, R209 and R216: an instruction of control core `k` changes nothing but its own core's registers and state, what reports
it, and what a fetch or load may find; a store is left out here, as its own statement frames it. A `vld` changes memory only where it
discards a dirty line with the hint LAST_USE (10 R278). -/
def Obligations.FrameOfControlCores : Prop :=
  ∀ (s t : State) (c : Instr) (k par size rd ra rb rc rm n vd va pg vb : Nat) (sgn un dbl : Bool) (off : BitVec 16) (im : BitVec 32)
    (x : CcInt) (j : CcJump) (fo : CcFlt) (cv : CcCvt) (sr : CcSr) (al : CvAlu) (mu : CvMul) (fx : CvFix) (ro : CvRed) (b : CvSrc),
    let d0 := s.dev
    let same := ∀ i, i ≠ k → t.dev.cc i = d0.cc i
    exec c s = .next t →
    (c ∈ [.ccIntegerOp k x, .ccBranch k j, .ccFloatOp k dbl fo rm rd ra rb rc, .ccFloatConvert k cv rm rd ra, .ccSys k, .ccBrk k,
        .ccTret k, .ccFence k, .ccWfi k, .srRd k rd sr, .mbwait k rd ra rb, .mbtake k rd ra n, .cctake k rd rb, .ccarg k rd ra n,
        .interrupt k, .setvl k rd ra im, .vectorAlu k al vd va b pg, .vectorMultiply k mu vd va b pg, .fixedPointOp k fx vd va b pg,
        .vectorReduction k ro vd va vb pg] →
      same ∧ d0.framed (fun d => { d0 with regs := d.regs, ccs := d.ccs, custQ := d.custQ, custLost := d.custLost, free := d.free })
        (Reg.ofCc k) t.dev) ∧
    (c = .ccdone k ra rb → same ∧ d0.framed (fun d =>
      { d0 with regs := d.regs, ccs := d.ccs, queues := d.queues, custQ := d.custQ, custLost := d.custLost }) (Reg.ofCc k) t.dev) ∧
    (c ∈ [.ccLoad k par size sgn un rd ra off, .vld k vd ra pg] → same ∧
      t.dev = { d0 with
        mem := t.dev.mem, far := t.dev.far, regs := t.dev.regs, ccs := t.dev.ccs, fabric := t.dev.fabric, cache := t.dev.cache
        custQ := t.dev.custQ, custLost := t.dev.custLost, out := t.dev.out, free := t.dev.free } ∧
      (∀ r, ¬ (Reg.ofCc k r ∨ r = .cnChoiceTime ∨ ∃ i m, r ∈ [.fbMpStatus i, .fbPmcValue i m, .cvPmcValue i m]) →
        t.dev.rd r = d0.rd r) ∧
      ((c = .ccLoad k par size sgn un rd ra off ∨ ∀ y ∈ d0.cache, y.old = none) →
        ∀ a, Mem.get t.dev.mem a = Mem.get d0.mem a ∧ Mem.get t.dev.far a = Mem.get d0.far a))

/-- R108, R109, R141, R162, R178, R481: a command or instruction of an engine of core `c` leaves every other core, the control cores,
the plant ports and the tide gate as they were, and, unless it fences its core, changes no byte of memory outside its core store. -/
def Obligations.FrameOfEngines : Prop :=
  ∀ (s t : State) (cmd : Instr) (c q : Nat) (bad : Silicon) (r : Run) (x : VxIns) (fo : VxFArith) (cm : VxFCmp) (io : VxIntOp) (sh : VxShiftOp)
    (mo : VxMoveOp) (ro : VxRedOp) (co : VxCvtForm) (sc : VxCtlOp),
    let d0 := s.dev
    exec cmd s = .next t → (∀ y ∈ bad.words, y.kind = 4 → y.tries ≤ 3) →
    ((c = d0.qTarget q ∧ cmd ∈ [.sgMm q bad, .sgMmb q bad, .svBind q, .svFactor q bad, .svSolve q bad, .svFsolve q bad]) ∨
      (d0.vxRun c = some (q, r) ∧ cmd ∈ [.vxLd c x, .vxSt c x, .vxFloatArithmetic c fo x, .vxFloatCompare c cm x, .vxInteger c io x,
        .vxShiftLogic c sh x, .vxMove c mo x, .vxReduction c ro x, .vxCvt c co x, .vxScale c x, .vxSmry c x, .vxLoop c x, .vxEndloop c x,
        .vxEnd c x, .vxScalarControl c sc x])) →
    (∀ i, i ≠ c → t.dev.core i = d0.core i) ∧ t.dev.ccs = d0.ccs ∧ t.dev.plants = d0.plants ∧ t.dev.tide = d0.tide ∧
    (t.dev.coreFenced c = d0.coreFenced c → d0.framed (fun d => { d0 with
      regs := d.regs, cores := d.cores, queues := d.queues, badWords := d.badWords, corr := d.corr, custQ := d.custQ, custLost := d.custLost,
      free := d.free }) (Reg.ofEngine c q) t.dev)

/-- R61, R62, R64, R235, R248, R252, R254, R280, R288: losses and stops of the tide, the commands of queues that move no data, and the
counting commands change nothing outside the parts of the package that their rules name. And R359, R476, R541, R543, R561, R563:
commands of the fabric, the folio, the broadcast and the management port change nothing outside the parts of the package that their
rules name. -/
def Obligations.FrameOfOtherCommands : Prop :=
  (∀ (s t : State) (cs : List Instr) (c : Instr) (keep : Dev → Dev) (touch : Reg → Prop) (req : Req) (line : EncLine) (dt rtt q n v p : Nat)
    (up : Bool) (w : Word) (u : XlatUnit),
    let d0 := s.dev
    exec c s = .next t →
    (cs, keep, touch) ∈
      ([([.encoderLevelLoss line, .pllLockLoss, .ppsMissingLoss dt, .stoppedCountsLoss dt, .relayLoss dt, .shortCycleHoldEnd dt,
          .forceStop req, .remeasure req rtt, .tgPtimeStepWrite req w, .relaySend dt, .powerThrottle dt n, .openClockStep dt up],
         fun d => { d0 with regs := d.regs, cycle := d.cycle, ptime := d.ptime, tide := d.tide, ccs := d.ccs, plants := d.plants,
                            custQ := d.custQ, custLost := d.custLost, mgmt := d.mgmt, out := d.out }, Reg.ofTide),
        ([.tideStep req], fun d => { d0 with tide := d.tide }, fun _ => False),
        ([.freePhaseComplete, .phaseCompletionReport n v], fun d => { d0 with tide := d.tide, out := d.out }, fun _ => False),
        ([.tgPtimeAdjWrite req w], fun d => { d0 with regs := d.regs }, (· = .tgPtimeAdj)),
        ([.cqNop q, .cqLoop q, .cqEndloop q, .cqReplay q, .fbNop q, .routineInvalid q, .cqPatchfence q],
         fun d => { d0 with regs := d.regs, queues := d.queues },
         fun r => r ∈ [.cnChoiceBit, .cqSerial q] ∨ (∃ i j, r ∈ [.cqSig i, .corePmcValue i j]) ∨
           (c = .cqPatchfence q ∧ ∃ i j, r = .coreParam (d0.qHome q) i j)),
        ([.cqResume req q, .cqStop req q], fun d => { d0 with queues := d.queues }, fun _ => False),
        ([.signalCounterWrite req n w], fun d => { d0 with regs := d.regs }, (· = .cqSig n)),
        ([.bulkPromotion ⟨v, n⟩, .dramRefresh v], fun d => { d0 with regs := d.regs }, fun r => ∃ j, r = .cvPmcValue v j),
        ([.unkeep req v], fun d => { d0 with cache := d.cache }, fun _ => False),
        ([.xlatInv req u], fun _ => d0, fun _ => False),
        ([.rngRegisterWrite req n v w], fun d => { d0 with cores := d.cores }, fun _ => False),
        ([.plantLinkUp p], fun d => { d0 with regs := d.regs }, (· = .ppStatus p)),
        ([.dbSet req n], fun d => { d0 with regs := d.regs }, (· = .ccCtl n)),
        ([.fbGstatReset req n], fun d => { d0 with regs := d.regs }, (· = .fbGstat n))] :
        List (List Instr × (Dev → Dev) × (Reg → Prop))) →
    c ∈ cs → d0.framed keep touch t.dev) ∧
  (∀ (s t : State) (cs : List Instr) (c : Instr) (keep : Dev → Dev) (touch : Reg → Prop) (req : Req) (n v tag cap floor : Nat) (w : Word)
    (nonce : List Byte) (m : TorusPacket) (mc : MctpReq) (pm : PldmReq) (fw : FwReq) (ok : Bool),
    let d0 := s.dev
    let reply := fun r => r ∈ [.glMgmtStatus, .hlEvent, .hlMboxCtl] ∨ ∃ i, r = .hlMbox i
    exec c s = .next t →
    (cs, keep, touch) ∈
      ([([.acknowledgementSend n, .hlHostDbWrite req w, .pldmMonitoring pm], fun d => { d0 with out := d.out }, fun _ => False),
        ([.acknowledgementReceive n v], fun d => { d0 with fabric := d.fabric, out := d.out }, fun _ => False),
        ([.torusPacketHop m], fun d => { d0 with fabric := d.fabric, out := d.out }, fun _ => False),
        ([.folioTrigger, .folioGo req, .folioRequest n, .folioAbort req, .abandonNotice n v, .restore req w n, .restoreChoice n v,
          .restoreEnd, .folioValid], fun d => { d0 with regs := d.regs, folio := d.folio, out := d.out }, (· = .glFolioStatus)),
        ([.broadcastDiscardNotice, .chunkTimeout, .broadcastResendRequest n],
         fun d => { d0 with regs := d.regs, bcast := d.bcast, out := d.out }, (· = .glBcastStatus)),
        ([.reparent tag n, .addChild tag n], fun d => { d0 with regs := d.regs, bcast := d.bcast, out := d.out },
         fun r => reply r ∨ r = .glBcastStatus),
        ([.healthGet tag, .logFetch tag n v, .mctpControl mc],
         fun d => { d0 with regs := d.regs, out := d.out, free := d.free }, reply),
        ([.managementAttest tag nonce], fun d => { d0 with regs := d.regs, out := d.out, leaf := d.leaf }, reply),
        ([.healthSummary], fun d => { d0 with regs := d.regs, out := d.out, mgmt := d.mgmt }, reply),
        ([.setCap tag cap floor], fun d => { d0 with regs := d.regs, held := d.held, out := d.out }, fun r => reply r ∨ r = .glPwrCap),
        ([.setThresh tag cap floor], fun d => { d0 with regs := d.regs, held := d.held, out := d.out },
         fun r => reply r ∨ r = .glSupplyCfg),
        ([.i3cDynamicAddressAssignment n], fun d => { d0 with regs := d.regs }, (· = .glMgmtStatus)),
        ([.pldmFirmwareUpdate fw], fun d => { d0 with board := d.board, mgmt := d.mgmt, out := d.out }, fun _ => False),
        ([.identityTreesBuilt ok], fun d => { d0 with regs := d.regs }, (· = .glBootStatus)),
        ([.minClr req], fun d => { d0 with regs := d.regs }, (· = .glSupplyStatus)),
        ([.armOff req], fun d => { d0 with regs := d.regs }, (· = .cnRplStatus)),
        ([.hostLinkUp], fun d => { d0 with hostLink := d.hostLink }, fun _ => False)] :
        List (List Instr × (Dev → Dev) × (Reg → Prop))) →
    c ∈ cs → d0.framed keep touch t.dev)

/-! ### The tide (02) and the power cap (01) -/

/-- R61 with R60, R567, R38, R39 and R68: while the tide is LOCKED, each source loss enters coast with its cause. Where the spec leaves
a corner open, the clauses follow the model's choices of log entry 13. -/
def Obligations.SourceLossEntersCoast : Prop :=
  ∀ (s : State) (dt : Nat) (req : Req) (line : EncLine), s.dev.tideState = 2 →
    (s.dev.tideSrc = 0 → s.dev.replayed 1 = false → (line = .z → s.dev.flag .tgSrcCfg F.tgSrcCfg_ZCHECK = true) →
      Yields (.encoderLevelLoss line) s (s.dev.coasts 2)) ∧
    (s.dev.tideSrc = 1 → Yields .pllLockLoss s (s.dev.coasts 3)) ∧
    (s.dev.tideSrc = 2 → s.dev.tide.ppsAt + 3000000000 < s.dev.cycle + dt → Yields (.ppsMissingLoss dt) s (s.dev.coasts 3)) ∧
    ((s.dev.elapse dt).countsStopped = true → Yields (.stoppedCountsLoss dt) s (s.dev.coasts 1)) ∧
    (s.dev.tideSrc = 2 → s.dev.allows req .tgCmd 16 → s.dev.replayed 1 = false →
      Yields (.ptpLoss req) s (s.dev.coasts 3)) ∧
    (s.dev.tideSrc = 5 → s.dev.tide.relayPt + 40000 * nsUnit ≤ (s.dev.elapse dt).ptime → Yields (.relayLoss dt) s (s.dev.coasts 3))

/-- R35, R36, R37, R38, R39: what the glitch filter stops, an illegal transition, and what an edge of each tide input does to the tide
gate. Where the spec leaves a corner open, the clauses follow the model's choices of log entries 12 and 13. -/
def Obligations.TideInputsCount : Prop :=
  ∀ (s : State) (dt keep : Nat) (a b small : Bool), s.dev.tideState ≠ 0 → s.dev.replayed 1 = false →
    (s.dev.tideSrc = 0 → s.dev.filtered keep = false →
      Yields (.encoderEdge ⟨dt, keep⟩ a b) s (fun d =>
        d.tide.encA = s.dev.tide.encA ∧ d.tide.encB = s.dev.tide.encB ∧ d.tide.debt = s.dev.tide.debt ∧
        d.tide.src = s.dev.tide.src)) ∧
    (s.dev.tideSrc = 0 → s.dev.filtered keep = true → s.dev.tideState = 2 → a ≠ s.dev.tide.encA → b ≠ s.dev.tide.encB →
      Yields (.encoderEdge ⟨dt, keep⟩ a b) s (s.dev.coasts 2)) ∧
    (s.dev.tideSrc = 0 → s.dev.filtered keep = true → (a != s.dev.tide.encA) ≠ (b != s.dev.tide.encB) →
      s.dev.decodes (a != s.dev.tide.encA) (if a != s.dev.tide.encA then a else b) = true →
      (s.dev.tide.anySeen = true → s.dev.tide.lastAny + 40 ≤ s.dev.cycle + dt) →
      Yields (.encoderEdge ⟨dt, keep⟩ a b) s (fun d =>
        d.tide.lastAny = s.dev.cycle + dt ∧ d.tide.encA = a ∧ d.tide.encB = b ∧
        (if (if a != s.dev.tide.encA then a != b else a == b) = s.dev.flag .tgSrcCfg F.tgSrcCfg_DIR then d.tide.debt = s.dev.tide.debt + 1 ∧ d.tide.src = s.dev.tide.src
         else if 0 < s.dev.tide.debt then d.tide.debt = s.dev.tide.debt - 1 ∧ d.tide.src = s.dev.tide.src
         else d.tide.debt = 0 ∧ d.tide.src = s.dev.tide.src + 65536))) ∧
    (s.dev.tideSrc = 0 → s.dev.filtered keep = true → Yields (.zEdge ⟨dt, keep⟩) s (fun d =>
        d.tide.zlatch = (s.dev.elapse dt).tide.count ∧ d.tide.count = (s.dev.elapse dt).tide.count)) ∧
    (s.dev.tideSrc = 1 → s.dev.tide.mainsSeen = true → Yields (.mainsPulse dt small) s (fun d =>
        d.tide.src = s.dev.tide.src + BitVec.ofNat 64 (s.dev.lfld .tgSrcRate F.tgSrcRate_RATE * 65536) ∧
        d.tide.mainsAt = s.dev.cycle + dt)) ∧
    (s.dev.tideSrc = 2 → Yields (.ppsEdge dt) s (fun d =>
        d.tide.ppsSeen = true ∧ d.tide.ppsAt = s.dev.cycle + dt ∧
        (s.dev.tide.epoch = none → s.dev.tideState = 2 → d.tide.epoch = some (s.dev.elapse dt).ptime)))

/-- R47, R54, R63 and the lock sequence: a lock, a resumption, the start of a cycle, the end of a short cycle and the firing of a mark.
Where the spec leaves a corner open, the clauses follow the model's choices of log entries 11, 12 and 13. -/
def Obligations.TideLocksAndCycles : Prop :=
  ∀ (s : State) (dt rtt m : Nat) (req : Req),
    ((s.dev.tideState = 1 ∧ ((s.dev.elapse dt).measureHop rtt).acquired = true) →
      Yields (.tideLock dt rtt) s (fun d =>
        d.tideState = 2 ∧ d.tide.no = 0 ∧ d.tide.fired = [] ∧ d.tide.offset = 0 ∧ d.tide.cycStart = d.tide.count)) ∧
    (((s.dev.tideState = 3 ∨ s.dev.tideState = 4) ∧ s.dev.acquired = true ∧ s.dev.tide.noPos = false ∧
        (s.dev.tideSrc = 5 → s.dev.tide.relayState = 2) ∧ s.dev.allows req .tgCmd 1) →
      Yields (.resume req) s (fun d => d.tideState = 2 ∧ d.tide.count = s.dev.tide.count ∧ d.tide.debt = 0)) ∧
    (((s.dev.elapse dt).cycleDue = true ∧ (s.dev.elapse dt).coastDue = false) →
      Yields (.tideCycleStart dt) s (fun d =>
        d.tide.no = (s.dev.tide.no + 1) % 2 ^ 48 ∧ d.tide.fired = [] ∧
        d.tide.cycStart = s.dev.tide.cycStart + BitVec.ofNat 64 s.dev.tideLen)) ∧
    (((s.dev.elapse dt).tide.hold = true ∧ (s.dev.tideState = 2 ∨ s.dev.tideState = 3) ∧
        s.dev.tide.cycAt + floor20 ≤ (s.dev.elapse dt).ptime) →
      Yields (.shortCycleHoldEnd dt) s (fun d =>
        d.tide.hold = false ∧ d.fld .tgStatus F.tgStatus_SHORT = 1 ∧ d.tide.count = (s.dev.elapse dt).tide.count)) ∧
    (((s.dev.tideState = 2 ∨ s.dev.tideState = 3) ∧ (s.dev.elapse dt).markDue m = true) →
      Yields (.markFire dt m) s (fun d => m ∈ d.tide.fired))

/-- R62, R63, R69: the end of coast, a lock timeout and `tg.stop` enter STOP. And R57, R59, R69: STEP, `tg.step` and the completion of
the phase in force advance a free tide; a follower's report is kept until all have come. Where the spec leaves a corner open, the
clauses follow the model's choices of log entries 13 and 22. -/
def Obligations.TideStopsAndFreeTide : Prop :=
  (∀ (s : State) (dt q : Nat) (ws : List Word),
    ((s.dev.elapse dt).coastDue = true → Yields (.coastEnd dt) s Dev.inStop) ∧
    ((s.dev.tideState = 1 ∧ (s.dev.elapse dt).acquired = false ∧
        s.dev.tide.acqAt + s.dev.lfld .tgLoss F.tgLoss_LOCK_TO * 2000000000 ≤ s.dev.cycle + dt) →
      Yields (.lockTimeout dt) s Dev.inStop) ∧
    (((s.dev.tideState = 2 ∨ s.dev.tideState = 3) ∧ s.dev.startable q 0xA01 = some ws ∧ s.dev.tideDenied q = false) →
      Yields (.tgStop q) s Dev.inStop)) ∧
  (∀ (s : State) (q who entry : Nat) (req : Req) (ws : List Word),
    ((s.dev.mayAdvance ∧ s.dev.allows req .tgCmd 2) → Yields (.tideStep req) s s.dev.advancedFrom) ∧
    ((s.dev.mayAdvance ∧ s.dev.startable q 0xA00 = some ws ∧ s.dev.tideDenied q = false) →
      Yields (.tgStep q) s s.dev.advancedFrom) ∧
    ((s.dev.mayAdvance ∧ s.dev.phaseComplete = true ∧ s.dev.allReported = true) →
      Yields .freePhaseComplete s s.dev.advancedFrom) ∧
    ((s.dev.flag .tgStatus F.tgStatus_MASTER = true ∧ s.dev.tideState = 2 ∧ s.dev.tideSrc = 4 ∧ s.dev.phaseComplete = false) →
      Yields (.phaseCompletionReport who entry) s (fun d =>
        (who, entry) ∈ d.tide.phaseDone ∧ d.tide.count = s.dev.tide.count)))

/-- R41, R65, R66, and 01 R29 and R30: package time, the relay, and one step of the engine clock. Where the spec leaves a corner open,
the clauses follow the model's choices of log entries 23 and 13. -/
def Obligations.PackageTimeRelayAndClock : Prop :=
  ∀ (s : State) (dt rtt pin : Nat) (req : Req) (v : Word) (m : RelayMsg),
    (s.dev.allows req .tgPtimeStep v →
      Yields (.tgPtimeStepWrite req v) s (fun d =>
        d.ptime = (((s.dev.ptime : Int) + v.toInt * (nsUnit : Nat)) % ((2 ^ 113 : Nat) : Int)).toNat)) ∧
    (s.dev.allows req .tgPtimeAdj v →
      Yields (.tgPtimeAdjWrite req v) s (fun d =>
        d.ptime = s.dev.ptime ∧
        d.fld .tgPtimeAdj F.tgPtimeAdj_ADJ =
          if (sval 40 (F.tgPtimeAdj_ADJ.get v)).natAbs ≤ 140737488355 then F.tgPtimeAdj_ADJ.get v
          else s.dev.fld .tgPtimeAdj F.tgPtimeAdj_ADJ)) ∧
    ((s.dev.flag .tgStatus F.tgStatus_MASTER = true ∧ 2 ≤ s.dev.tideState) →
      Yields (.relaySend dt) s (fun d => d.out = s.dev.out ++ [.relay (s.dev.elapse dt).relayNow])) ∧
    ((s.dev.tideSrc = 5 ∧ s.dev.tideState ≠ 0 ∧ s.dev.replayed 5 = false) →
      Yields (.relayMessage dt m) s (fun d =>
        d.tide.relayMsgs = s.dev.tide.relayMsgs + 1 ∧ d.tide.relayAt = s.dev.cycle + dt ∧ d.tide.relayPt = (s.dev.elapse dt).ptime ∧
        (s.dev.tideState = 2 → m.state = 4 → d.inStop))) ∧
    ((s.dev.tideSrc = 5 ∧ s.dev.allows req .tgCmd 4) →
      Yields (.remeasure req rtt) s (fun d =>
        if 2 ≤ s.dev.tideState ∧ s.dev.tide.noPos = false then d.tide.hopNew = some (rtt / 2 % 2 ^ 16) ∧ d.tide.hop = s.dev.tide.hop
        else d.tide.hop = some (rtt / 2 % 2 ^ 16))) ∧
    ((s.dev.tide.phase.isSome = true ∧ s.dev.phaseKind ≠ 3 ∧ s.dev.capInForce ≤ pin ∧ 0 < s.dev.clock) →
      Yields (.powerThrottle dt pin) s (fun d => d.clock = s.dev.clock - 1 ∧ d.fld .cnChoiceTime F.cnChoiceTime_LAST = 2)) ∧
    ((s.dev.tide.phase.isSome = true ∧ s.dev.phaseKind = 3 ∧ 0 < s.dev.tide.cut ∧ s.dev.tide.cut ≤ s.dev.tide.openClk) →
      Yields (.openClockStep dt true) s (fun d => d.clock = s.dev.clock + 1 ∧ d.fld .cnChoiceTime F.cnChoiceTime_LAST = 1)) ∧
    ((s.dev.tide.phase.isSome = true ∧ s.dev.phaseKind = 3 ∧ 0 < s.dev.clock) →
      Yields (.openClockStep dt false) s (fun d => d.clock = s.dev.clock - 1 ∧ d.fld .cnChoiceTime F.cnChoiceTime_LAST = 1))

/-! ### The surrogate engine (04) and re-execution (17) -/

/-- R108, R109, R117, R257: a product that its checks pass writes C and nothing else of the core store; its status says only whether it
read an uncorrectable word. And R122, R123: a product that a check refuses ends with the status of the first one that fails, and no core
store changes. Where the spec leaves a corner open, the clauses follow the model's choices of log entry 16. -/
def Obligations.SurrogateCommands : Prop :=
  (∀ (s : State) (q : Nat) (ws : List Word) (batched : Bool),
    let c := s.dev.qTarget q
    let g := sgParam batched (s.dev.paramBlock (s.dev.qHome q) (dPblk ws))
    let st := if s.dev.csBad c g.reads (s.dev.sgUnits c g) = [] then 0 else stMemUncorr
    s.dev.memWf → s.dev.noInj c → g.check.1 = 0 → s.dev.startable q (if batched then 0x211 else 0x210) = some ws →
    Yields (if batched then .sgMmb q {} else .sgMm q {}) s (fun d => s.dev.started q ws st d ∧ s.dev.sgDone c g d)) ∧
  (∀ (s : State) (q : Nat) (ws : List Word) (bad : Silicon),
    let g := sgParam true (s.dev.paramBlock (s.dev.qHome q) (dPblk ws))
    let ends := fun st => Yields (.sgMmb q bad) s (fun d => s.dev.started q ws st d ∧ d.cores = s.dev.cores)
    s.dev.startable q 0x211 = some ws → bad.words = [] →
    ((g.m = 0 ∨ g.n = 0 ∨ g.k = 0 ∨ g.batch = 0) → ends 0x200) ∧
    ((0 < g.m ∧ 0 < g.n ∧ 0 < g.k ∧ 0 < g.batch ∧ g.k % 32 = 0 ∧ (g.a.fmt = 0 ∨ 6 < g.a.fmt ∨ g.c.fmt ≠ 1)) → ends 0x201) ∧
    (g.check.1 ≠ 0 → ends g.check.1))

/-- R481, R484, R487 and R485: a unit whose check fails is held back and the command re-executes; a re-execution that passes writes what
was held back, and one that fails again fences the core. Where the spec leaves a corner open, the clauses follow the model's choices of
log entry 16. -/
def Obligations.ChecksAndReexecution : Prop :=
  ∀ (s : State) (q f n : Nat) (ws : List Word) (r : Run),
    let c := s.dev.qTarget q
    let g := sgParam false (s.dev.paramBlock (s.dev.qHome q) (dPblk ws))
    (s.dev.startable q 0x210 = some ws → g.check.1 = 0 → s.dev.noInj c → f < (s.dev.sgUnits c g).length →
        s.dev.flag .glChkCtl F.glChkCtl_MASK = false → s.dev.coreRetrying c = false →
      Yields (.sgMm q ⟨some f, []⟩) s (fun d =>
        (∃ r', (d.queue q).runs.getLast? = some r' ∧ r'.retrying = true ∧ r'.retried = true ∧
          r'.todo = (s.dev.sgUnits c g).drop f) ∧
        d.fld .glErrStatus F.glErrStatus_RETRY_EV = 1 ∧
        d.fld (.coreChkStatus c) F.coreChkStatus_RETRIES =
          satAdd 16 (s.dev.fld (.coreChkStatus c) F.coreChkStatus_RETRIES) 1)) ∧
    (s.dev.retryRun q = some r → s.dev.frozenRun q r = false → s.dev.qKind q ≤ 5 →
        (s.dev.qKind q ≠ 5 → s.dev.injWaits c [r.unit] = none) →
      Yields (.checkReexecution q none) s (fun d =>
        ∀ x ∈ (d.queue q).runs, x.serial = r.serial → x.retrying = false ∧ x.todo = [])) ∧
    (s.dev.retryRun q = some r → s.dev.frozenRun q r = false → s.dev.qKind q ≤ 4 → s.dev.injWaits c [r.unit] = none →
        s.dev.coreFenced c = false → n < max 1 r.todo.length →
      Yields (.checkReexecution q (some n)) s (fun d => d.coreFenced c = true))

/-! ### The solver engine (05, 06) -/

/-- R130, R131, R144, R257: `sv.bind` writes the 128 header bytes, and without KEEP zeroes the status and aux areas; a block that it
refuses writes nothing. And R138, R141, R142, R144: a command that the checks pass gives every problem it covers its status word and aux
words; a solve of a problem without valid factors gives it status code 4; a command that a check refuses writes nothing. Where the spec
leaves a corner open, the clauses follow the model's choices of log entries 17, 18 and 30. -/
def Obligations.SolverBindAndCommands : Prop :=
  (∀ (s : State) (q : Nat) (ws : List Word) (b : List Byte),
    let c := s.dev.qTarget q
    let w := s.dev.paramBlock (s.dev.qHome q) (dPblk ws)
    let h := bindQuire w (sigHdr b)
    s.dev.memWf → s.dev.startable q 0x300 = some ws →
    (s.dev.sigOf c (bits (wd w 0) 3 0) = none →
      Yields (.svBind q) s (fun d => s.dev.started q ws 0x301 d ∧ d.cores = s.dev.cores)) ∧
    (s.dev.sigOf c (bits (wd w 0) 3 0) = some b →
      ((h.p = 0 ∨ 65536 < h.p ∨ h.nrhs = 0 ∨ 16 < h.nrhs) →
        Yields (.svBind q) s (fun d => s.dev.started q ws 0x302 d ∧ d.cores = s.dev.cores)) ∧
      (0 < h.p → h.p ≤ 65536 → 0 < h.nrhs → h.nrhs ≤ 16 → bindRsv w = false →
        (h.areaCheck.1 ≠ 0 → Yields (.svBind q) s (fun d => s.dev.started q ws h.areaCheck.1 d ∧ d.cores = s.dev.cores)) ∧
        (h.areaCheck.1 = 0 →
          Yields (.svBind q) s (fun d => s.dev.started q ws 0 d ∧ d.csRead c h.haddr 128 = h.bytes (sigHdr b) ∧
            (bit (wd w 0) 9 = false → d.csRead c h.sa (8 * h.p) = zeros (8 * h.p) ∧ d.csRead c h.aa (32 * h.p) = zeros (32 * h.p)) ∧
            (bit (wd w 0) 9 = true → d.csRead c h.sa (8 * h.p) = s.dev.csRead c h.sa (8 * h.p) ∧
              d.csRead c h.aa (32 * h.p) = s.dev.csRead c h.aa (32 * h.p))))))) ∧
  (∀ (s : State) (q rtn : Nat) (ws : List Word) (cmd : Instr),
    (rtn, cmd) ∈ [(0x301, .svFactor q {}), (0x302, .svSolve q {}), (0x303, .svFsolve q {})] →
    let c := s.dev.qTarget q
    let w := s.dev.paramBlock (s.dev.qHome q) (dPblk ws)
    let g := svParam w
    let h := s.dev.quireAt c (bits (wd w 0) 22 0)
    let p := s.dev.svProblem c rtn g h (tget [] h.slot (s.dev.core c).sigs)
    s.dev.memWf → s.dev.noInj c → s.dev.startable q rtn = some ws →
    ((s.dev.svCheck c rtn g h).1 ≠ 0 →
      Yields cmd s (fun d => s.dev.started q ws (s.dev.svCheck c rtn g h).1 d ∧ d.cores = s.dev.cores)) ∧
    ((s.dev.svCheck c rtn g h).1 = 0 → h.e ≤ h.ef → (∀ x ∈ s.dev.badWords, x.kind = 2 ∨ x.kind = 6 → x.unit ≠ c) →
      Yields cmd s (fun d => s.dev.started q ws 0 d ∧ ∀ i, g.first ≤ i → i < g.first + g.count →
        d.csRead c (h.sa + 8 * i) 8 = bytesOf 8 (p i).status ∧
        d.csRead c (h.aa + 32 * i) 32 = (p i).aux.flatMap (bytesOf 8) ∧
        (rtn = 0x302 → bit (s.dev.csNum c (h.aa + 32 * i + 16) 8) 0 = false →
          d.csNum c (h.sa + 8 * i) 8 % 16 = 4))))

/-- R162 to R164: `sv.sigload` refuses a misaligned address, and a signature that it reads and that its checks pass stands in its slot,
absent for the commands that start before the load completes. And R132, R134, R135: a delta list of one entry changes that value, adds
the change to DSUM, and nothing else of the core store; an entry out of range stops the command with DELTA_RANGE; `dm.dense` copies a
block and sets DSUM to infinity. Where the spec leaves a corner open, the clauses follow the model's choices of log entries 17 and 30.
-/
def Obligations.SignatureLoadAndDeltas : Prop :=
  (∀ (s : State) (q : Nat) (ws : List Word) (ps0 ps : List (Nat × Nat)),
    let c := s.dev.qTarget q
    let w := s.dev.paramBlock (s.dev.qHome q) (dPblk ws)
    let slot := bits (wd w 0) 3 0
    let head := ps0.flatMap (fun p => s.dev.physRead p.1 p.2)
    let b := ps.flatMap (fun p => s.dev.physRead p.1 p.2)
    s.dev.startable q 0x304 = some ws →
    (wd w 1 % 64 ≠ 0 → Yields (.svSigload q) s (fun d => s.dev.started q ws stDescAlign d ∧ d.cores = s.dev.cores)) ∧
    (wd w 1 % 64 = 0 → s.dev.badWords = [] → (∀ p ∈ ps0 ++ ps, p.1 + p.2 ≤ stackSize) → s.dev.pagesFrom (s.dev.rootOf c) (wd w 1) false 40 0 128 = .ok ps0 →
      s.dev.pagesFrom (s.dev.rootOf c) (wd w 1) false 40 0 (if sizeOk (sigHdr head).size then (sigHdr head).size else 128) = .ok ps →
      (sigCheck b).1 = 0 →
      (∀ n, n < 16 → n ≠ slot → s.dev.flag (.coreSig c n) F.coreSig_VALID = true →
        s.dev.fld (.coreSig c n) F.coreSig_ID ≠ (sigHdr b).id) →
      Yields (.svSigload q) s (fun d => s.dev.started q ws 0 d ∧
        d.flag (.coreSig c slot) F.coreSig_VALID = true ∧ d.fld (.coreSig c slot) F.coreSig_ID = (sigHdr b).id ∧
        tget [] slot (d.core c).sigs = b.take (sigHdr b).size ∧ d.sigOf c slot = none))) ∧
  (∀ (s : State) (q i p e v : Nat) (ws : List Word) (ps pi : List DmPiece) (bs : List Byte),
    let c := s.dev.qTarget q
    let w := s.dev.paramBlock (s.dev.qHome q) (dPblk ws)
    let h := s.dev.quireAt c (bits (wd w 0) 22 0)
    let va := h.va.1 + p * h.va.2
    let da := h.aa + 32 * p + 8
    let site : DmSite := ⟨c, s.dev.rootOf (s.dev.qHome q)⟩
    s.dev.memWf → s.dev.fresh q → s.dev.noInj c → s.dev.badWords = [] → bits (wd w 2) 28 16 = i → bits (wd w 2) 12 0 = i + 1 →
    s.dev.covering c h.haddr p = none → 0 < h.va.2 → 8 * h.e ≤ h.va.2 → (∀ k, s.dev.slotDead k = false) → va + 8 * h.e ≤ da ∨ da + 8 ≤ va →
    (s.dev.startable q 0x140 = some ws → s.dev.deltaCheck c false w h = 0 → (∀ x ∈ ps, x.addr + x.n ≤ stackSize) →
      s.dev.dmFetch [] site false (wd w 1 + 16 * i) 16 = .ok (ps, bs) → numAt bs 0 4 = p → numAt bs 4 4 = e → numAt bs 8 8 = v →
      if h.p ≤ p ∨ h.e ≤ e then
        Yields (.dmDelta q {}) s (fun d => s.dev.started q ws 0x500 d ∧ d.csRead c va (8 * h.e) = s.dev.csRead c va (8 * h.e))
      else
        Yields (.dmDelta q {}) s (fun d => s.dev.started q ws 0 d ∧ d.csRead c (va + 8 * e) 8 = bytesOf 8 v ∧
          d.csRead c da 8 = bytesOf 8 (f64.add 0 (s.dev.csNum c da 8)
            (f64.abs (f64.sub 0 v (s.dev.csNum c (va + 8 * e) 8)).code)).code ∧
          ∀ a, (a < va + 8 * e ∨ va + 8 * e + 8 ≤ a) → (a < da ∨ da + 8 ≤ a) →
            Mem.get (d.core c).store a = Mem.get (s.dev.core c).store a)) ∧
    (s.dev.startable q 0x141 = some ws → s.dev.deltaCheck c true w h = 0 → (∀ x ∈ pi ++ ps, x.addr + x.n ≤ stackSize) →
      s.dev.dmFetch [] site false (wd w 4 + 4 * i) 4 = .ok (pi, bytesOf 4 p) → p < h.p →
      s.dev.dmFetch [] site false (wd w 1 + i * bits (wd w 3) 31 0) (8 * h.e) = .ok (ps, bs) →
      Yields (.dmDense q {}) s (fun d => s.dev.started q ws 0 d ∧ d.csRead c va (8 * h.e) = bs ∧
        d.csRead c da 8 = bytesOf 8 (f64.infCode false))))

/-! ### The vector engine (07) -/

/-- R180, R182, R184, R267, 03 R106: a vector command starts its routine at instruction 0 outside any loop, with the held generator
writes live, and a bank routine of a solver queue starts; loops open, run again, close or are passed over; `vx.end` ends a routine, and
an instruction that is illegal ends it too. Where the spec leaves a corner open, the clauses follow the model's choices of log entry 31.
-/
def Obligations.VectorRoutines : Prop :=
  ∀ (s : State) (c q : Nat) (r : Run) (ws : List Word) (bad : Silicon) (x : VxIns) (l : VLoop) (t : List VLoop),
    let k := s.dev.core c
    ((∀ y ∈ bad.words, y.kind = 4 → y.tries ≤ 3) → s.dev.startable q (dRtn ws) = some ws →
      (s.dev.qKind q = 2 → bankRoutine 2 (dRtn ws) = true → s.dev.qTarget q = c →
          (∀ p ∈ k.rngHeld, ∃ j, j < 4 ∧ p.1 = rngReg c j) →
        Yields (.vectorCommand q bad) s (fun d => s.dev.started q ws 0 d ∧ (d.core c).vpc = 0 ∧ (d.core c).vloops = [] ∧
          (d.core c).vskip = 0 ∧ (d.core c).rngHeld = [] ∧ (d.core c).vregs = k.vregs ∧ (d.core c).preds = k.preds ∧
          (d.core c).scal = k.scal)) ∧
      (s.dev.qKind q = 1 → bankRoutine 1 (dRtn ws) = true →
        Yields (.vectorCommand q bad) s (fun d => s.dev.started q ws 0 d ∧ d.cores = s.dev.cores))) ∧
    (s.dev.vxAt c q r → vxLegal x true false = true →
      Yields (.vxEnd c x) s (Dev.ended q r.serial r.status) ∧
      (k.vloops.length < 4 → Yields (.vxLoop c x) s (fun d => (d.core c).vpc = k.vpc + 1 ∧
        if s.dev.scal c x.va = 0 then (d.core c).vskip = 1 ∧ (d.core c).vloops = k.vloops
        else (d.core c).vskip = 0 ∧ (d.core c).vloops = ⟨k.vpc + 1, s.dev.scal c x.va⟩ :: k.vloops)) ∧
      (4 ≤ k.vloops.length → Yields (.vxLoop c x) s (Dev.ended q r.serial 0x400)) ∧
      (k.vloops = l :: t → Yields (.vxEndloop c x) s (fun d =>
        if 1 < l.left then (d.core c).vpc = l.start ∧ (d.core c).vloops = ⟨l.start, l.left - 1⟩ :: t
        else (d.core c).vpc = k.vpc + 1 ∧ (d.core c).vloops = t)) ∧
      (k.vloops = [] → Yields (.vxEndloop c x) s (Dev.ended q r.serial 0x400))) ∧
    (s.dev.vxRun c = some (q, r) → k.vskip ≠ 0 →
      Yields (.vxLoop c x) s (fun d => d = s.dev.setCore c { k with vpc := k.vpc + 1, vskip := k.vskip + 1 }) ∧
      Yields (.vxEndloop c x) s (fun d => d = s.dev.setCore c { k with vpc := k.vpc + 1, vskip := k.vskip - 1 }) ∧
      Yields (.vxEnd c x) s (fun d => d = s.dev.setCore c { k with vpc := k.vpc + 1 })) ∧
    (s.dev.vxRun c = some (q, r) → r ∈ (s.dev.queue q).runs → k.vskip = 0 → vxLegal x true false = false →
      Yields (.vxLd c x) s (Dev.ended q r.serial 0x400) ∧ Yields (.vxSt c x) s (Dev.ended q r.serial 0x400) ∧
      Yields (.vxLoop c x) s (Dev.ended q r.serial 0x400) ∧ Yields (.vxEndloop c x) s (Dev.ended q r.serial 0x400) ∧
      Yields (.vxEnd c x) s (Dev.ended q r.serial 0x400)) ∧
    (s.dev.vxRun c = some (q, r) → r ∈ (s.dev.queue q).runs → k.vskip = 0 → vxLegal x true false = true →
      ⟨5, c, s.dev.vxPlace c r / 8 * 8⟩ ∈ s.dev.badWords → 2 ^ 40 + s.dev.vxPlace c r ∉ r.places →
      Yields (.vxEnd c x) s (Dev.ended q r.serial stMemUncorr))

/-- R183: `vx.ld` and `vx.st` move L bytes, and end the command with VX_ALIGN or VX_BOUNDS where the address is wrong. And R179, R196 to
R198: scalar instructions, summaries with their posts, and the entry that a post writes. Where the spec leaves a corner open, the
clauses follow the model's choices of log entry 31. -/
def Obligations.VectorMemoryScalarsAndSummaries : Prop :=
  (∀ (s : State) (c q : Nat) (r : Run) (x : VxIns),
    let a := s.dev.scal c x.va + 8 * bits x.imm.toNat 7 0
    let l := 8 * (bits x.imm.toNat 12 8 + 1)
    s.dev.memWf → s.dev.badWords = [] → s.dev.vxAt c q r → vxLegal x true false = true →
    (a % 8 = 0 → a + l ≤ coreStoreSize →
      Yields (.vxLd c x) s (fun d => s.dev.vxKept c (· = x.vd) (fun _ => False) d ∧
        d.vreg c x.vd = s.dev.vreg c x.vd / 2 ^ (8 * l) * 2 ^ (8 * l) + s.dev.csNum c a l) ∧
      Yields (.vxSt c x) s (fun d => (d.core c).vpc = (s.dev.core c).vpc + 1 ∧ (d.core c).vregs = (s.dev.core c).vregs ∧
        d.csRead c a l = bytesOf l (s.dev.vreg c x.vd) ∧
        ∀ y, (y < a ∨ a + l ≤ y) → Mem.get (d.core c).store y = Mem.get (s.dev.core c).store y)) ∧
    (a % 8 ≠ 0 → Yields (.vxLd c x) s (Dev.ended q r.serial 0x401) ∧ Yields (.vxSt c x) s (Dev.ended q r.serial 0x401)) ∧
    (a % 8 = 0 → coreStoreSize < a + l →
      Yields (.vxLd c x) s (Dev.ended q r.serial 0x402) ∧ Yields (.vxSt c x) s (Dev.ended q r.serial 0x402))) ∧
  (∀ (s : State) (c q : Nat) (r : Run) (x : VxIns) (p : Post) (t : List Post),
    let im := x.imm.toNat
    let A := fun v d => (∀ n, d.vreg c n = s.dev.vreg c n) ∧ (d.core c).vpc = (s.dev.core c).vpc + 1 ∧
      ∀ n, d.scal c n = if n % 16 = x.vd % 16 then v % 2 ^ 64 else s.dev.scal c n
    let k := s.dev.fld (.coreBind c) F.coreBind_CCORE
    let m := 8 * s.dev.fld (.coreBind c) F.coreBind_LOCAL + p.slot
    let old := tget (⟨0, 0⟩ : Smry) (bits im 2 0) (s.dev.core c).smry
    (s.dev.vxAt c q r → vxLegal x true false = true →
      Yields (.vxScalarControl c .nop x) s (s.dev.vxKept c (fun _ => False) (fun _ => False)) ∧
      Yields (.vxScalarControl c .ai x) s (A (scode 64 (sval 16 im))) ∧
      Yields (.vxScalarControl c .apar x) s (A (wd r.params (bits im 3 0))) ∧
      Yields (.vxScalarControl c .aadd x) s (A (s.dev.scal c x.va + s.dev.scal c x.vb)) ∧
      Yields (.vxScalarControl c .ashl x) s
        (A (s.dev.scal c x.va * 2 ^ (if x.imsh then bits im 7 0 else s.dev.scal c x.vb % 256)))) ∧
    (s.dev.vxAt c q r → vxLegal x false false = true → smOk x = true → (bit im 3 = true ∨ old.kind = smKind x) →
      let v := BitVec.ofNat 64 (s.dev.smCombine c x (if bit im 3 then smId (smKind x) else old.val.toNat)).1
      Yields (.vxSmry c x) s (fun d => s.dev.vxKept c (fun _ => False) (fun _ => False) d ∧
        tget ⟨0, 0⟩ (bits im 2 0) (d.core c).smry = ⟨smKind x, v⟩ ∧
        (d.core c).posts = if bit im 4 = true ∧ s.dev.coreFenced c = false
          then (s.dev.core c).posts ++ [⟨bits im 2 0, smKind x, v, r.serial % 2 ^ 32⟩] else (s.dev.core c).posts)) ∧
    (s.dev.vxAt c q r → vxLegal x false false = true → smOk x = true → bit im 3 = false → old.kind ≠ smKind x →
      Yields (.vxSmry c x) s (Dev.ended q r.serial 0x400)) ∧
    ((s.dev.core c).posts = p :: t →
      Yields (.mailboxPost c) s (fun d => (d.core c).posts = t ∧ d.rd (.ccMboxVal k m) = p.val ∧
        d.fld (.ccMboxTag k m) F.ccMboxTag_FULL = 1 ∧
        d.fld (.ccMboxTag k m) F.ccMboxTag_SEQ = (s.dev.fld (.ccMboxTag k m) F.ccMboxTag_SEQ + 1) % 2 ^ 16 ∧
        d.fld (.ccMboxTag k m) F.ccMboxTag_KIND = p.kind % 16 ∧
        d.fld (.ccMboxTag k m) F.ccMboxTag_CMD = p.cmd % 2 ^ 32 ∧
        (s.dev.mboxFull k m = true → d.fld (.ccMboxTag k m) F.ccMboxTag_OVW = 1))))

/-- R185 to R187, R177, R178: the element-wise float, compare, integer and shift instructions, each with the elements it computes. Where
the spec leaves a corner open, the clauses follow the model's choices of log entry 31. -/
def Obligations.VectorElements : Prop :=
  ∀ (s : State) (c q k : Nat) (r : Run) (x : VxIns) (fo : VxFArith) (co : VxFCmp) (io : VxIntOp) (so : VxShiftOp),
    let b := vxBits x.w
    let n := vxCount x.w
    let ea := s.dev.vxElem c b x.va
    let eb := s.dev.vxElem c b x.vb
    let ec := s.dev.vxElem c b x.vc
    s.dev.vxAt c q r → vxLegal x false false = true → x.w ≤ 3 →
    (2 ≤ x.w → fo ≠ .unassigned → Yields (.vxFloatArithmetic c fo x) s
      (s.dev.vxWrote c x b n (fun i => (vxFArith (vxFmt x.w) fo x.rm (ea i) (eb i) (ec i)).code))) ∧
    (2 ≤ x.w → vxRel co = some k → Yields (.vxFloatCompare c co x) s
      (s.dev.vxWroteP c x n (fun i => ((vxFmt x.w).cmp k (ea i) (eb i)).1))) ∧
    (2 ≤ x.w → co ∈ [.fmin, .fmax, .fminnum, .fmaxnum] → Yields (.vxFloatCompare c co x) s
      (s.dev.vxWrote c x b n (fun i => (vxMinMax (vxFmt x.w) co (ea i) (eb i)).code))) ∧
    (x.w ≤ 2 → vxIsCmp io = true → Yields (.vxInteger c io x) s
      (s.dev.vxWroteP c x n (fun i => vxICmp io (readInt x.sgn b (ea i)) (readInt x.sgn b (eb i))))) ∧
    (x.w ≤ 2 → io ∈ [.add, .sub, .min, .max] → Yields (.vxInteger c io x) s (fun d =>
      s.dev.vxWrote c x b n (fun i => (vxInt io x.sgn x.sat b (ea i) (eb i)).1) d ∧
      d.fld (.coreVxFlags c) F.coreVxFlags_SAT =
        if ∃ i, i < n ∧ bit (s.dev.pred c x.pg) i = true ∧ (vxInt io x.sgn x.sat b (ea i) (eb i)).2 = true then 1
        else s.dev.fld (.coreVxFlags c) F.coreVxFlags_SAT)) ∧
    (so ≠ .unassigned → Yields (.vxShiftLogic c so x) s
      (s.dev.vxWrote c x b n (fun i =>
        vxShift so x.sgn b (ea i) (eb i) (if x.imsh then bits x.imm.toNat 7 0 else eb i % 256))))

/-- The move class, R188, R189 and R190 to R194: moves, reductions, conversions and block scales. Where the spec leaves a corner open,
the clauses follow the model's choices of log entry 31. -/
def Obligations.VectorMovesReductionsConversions : Prop :=
  ∀ (s : State) (c q : Nat) (r : Run) (x : VxIns) (ro : VxRedOp),
    let b := vxBits x.w
    let n := vxCount x.w
    let ea := s.dev.vxElem c b x.va
    let im := x.imm.toNat
    let P := fun v d => s.dev.vxKept c (fun _ => False) (fun p => p % 8 = x.vd % 8 ∧ x.vd % 8 ≠ 0) d ∧
      (x.vd % 8 ≠ 0 → d.pred c x.vd = v)
    s.dev.vxAt c q r →
    (vxLegal x false false = true → x.w ≤ 3 →
      Yields (.vxMove c .sel x) s (fun d => s.dev.vxKept c (· = x.vd) (fun _ => False) d ∧ ∀ i, i < n →
        d.vxElem c b x.vd i = if bit (s.dev.pred c x.pg) i then ea i else s.dev.vxElem c b x.vb i) ∧
      Yields (.vxMove c .bcast x) s (fun d => ∃ v, (im < n → v = ea im) ∧ s.dev.vxWrote c x b n (fun _ => v) d) ∧
      Yields (.vxMove c .movi x) s (s.dev.vxWrote c x b n (fun _ => scode b (sval 16 im))) ∧
      Yields (.vxMove c .pmov x) s (P (s.dev.pred c x.va)) ∧
      Yields (.vxMove c .pand x) s (P (s.dev.pred c x.va &&& s.dev.pred c x.vb)) ∧
      Yields (.vxMove c .por x) s (P (s.dev.pred c x.va ||| s.dev.pred c x.vb)) ∧
      Yields (.vxMove c .pnot x) s (P (2 ^ 256 - 1 - s.dev.pred c x.va))) ∧
    (vxLegal x false false = true → ro ≠ .unassigned → (if redInt ro = true then x.w ≤ 2 else 2 ≤ x.w ∧ x.w ≤ 3) →
      Yields (.vxReduction c ro x) s (fun d => s.dev.vxKept c (· = x.vd) (fun _ => False) d ∧
        d.vreg c x.vd = (redTree (redFun ro x.rm x.sgn x.w) 8 ((List.range n).map (fun i =>
          if bit (s.dev.pred c x.pg) i then some (ea i) else none)) 0).1.getD (redId ro x.sgn x.w) % 2 ^ 2048)) ∧
    (vxLegal x false false = true → 2 ≤ x.w → x.w ≤ 3 →
      (x.fmt ≤ 1 → Yields (.vxCvt c .longLong x) s (s.dev.vxWrote c x (if x.fmt = 0 then 64 else 32) (if x.w = 2 ∧ x.fmt = 1 then 64 else 32)
        (fun i => (cvtLong (vxFmt x.w) (if x.fmt = 0 then f64 else f32) x.rm (ea i)).code))) ∧
      Yields (.vxCvt c .longInt x) s (s.dev.vxWrote c x 32 (cvtCount x.w) (fun i => (vxToInt (vxFmt x.w) x.rm x.sgn (ea i)).code)) ∧
      (x.w = 2 → x.fmt ≤ 1 → Yields (.vxCvt c .intLong x) s (s.dev.vxWrote c x (if x.fmt = 0 then 64 else 32) (if x.fmt = 1 then 64 else 32)
        (fun i => (cvtOfInt (if x.fmt = 0 then f64 else f32) x.rm (readInt x.sgn 32 (ea i))).code)))) ∧
    (vxLegal x false true = true → vxCvtOk .longShort x = true →
      Yields (.vxCvt c .longShort x) s (fun d => s.dev.vxKept c (· = x.vd) (fun _ => False) d ∧ ∀ i, i < cvtCount x.w →
        d.vreg c x.vd / 2 ^ (8 * (vxPacked x).1) / 2 ^ (fmtBits x.fmt * i) % 2 ^ fmtBits x.fmt =
          if bit (s.dev.pred c x.pg) i
          then ((vxShort x).enc x.rm (s.dev.vxScaleOf c x (i / 32)) (s.dev.vxRng c i) ((vxFmt x.w).dec (ea i))).code % 2 ^ fmtBits x.fmt
          else s.dev.vreg c x.vd / 2 ^ (8 * (vxPacked x).1) / 2 ^ (fmtBits x.fmt * i) % 2 ^ fmtBits x.fmt)) ∧
    (vxLegal x false false = true → vxCvtOk .shortLong x = true →
      Yields (.vxCvt c .shortLong x) s (s.dev.vxWrote c x b (cvtCount x.w) (fun i =>
        ((vxShort x).toLong (vxFmt x.w) x.rm (s.dev.vxScaleOf c x (i / 32))
          (s.dev.vreg c x.va / 2 ^ (8 * (vxPacked x).1) / 2 ^ (fmtBits x.fmt * i) % 2 ^ fmtBits x.fmt)).code))) ∧
    (vxLegal x false false = true → 2 ≤ x.w → x.w ≤ 3 → (shortOf x.fmt).isSome = true → x.pg = 0 →
      Yields (.vxScale c x) s (fun d => s.dev.vxKept c (· = x.vd) (fun _ => False) d ∧
        d.vxElem c 8 x.vd (bits im 7 0) =
          scaleOf (vxShort x) ((List.range 32).map (fun i => (vxFmt x.w).dec (ea i))) % 256 ∧
        (bits im 7 0 < 255 → d.vxElem c 8 x.vd (bits im 7 0 + 1) = if x.w = 3 then s.dev.vxElem c 8 x.vd (bits im 7 0 + 1)
          else scaleOf (vxShort x) ((List.range 32).map (fun i => (vxFmt x.w).dec (ea (32 + i)))) % 256)))

/-! ### Control cores and their long-vector extension (08) -/

/-- R202 to R204: the integer instructions, and the branches and jumps with their links and their trap. Where the spec leaves a corner
open, the clauses follow the model's choices of log entry 40. -/
def Obligations.ControlIntegersAndJumps : Prop :=
  ∀ (s : State) (k rd ra rb sh : Nat) (op : CcAlu) (mu : CcMul) (im : BitVec 16) (cond : CcCond) (disp : Int),
    let a := s.dev.gReg k ra
    let b := s.dev.gReg k rb
    let pc := (s.dev.cc k).pc
    let goes := fun (t : Word) => s.dev.ccKept k t (fun _ => False) (fun _ => False) (fun _ => False)
    let links := fun (t : Word) (d : Dev) => (d.cc k).pc = t ∧ (∀ n, n % 32 ≠ rd % 32 → d.gReg k n = s.dev.gReg k n) ∧
      (rd % 32 ≠ 0 → d.gReg k rd = pc + 4) ∧ d.gReg k 0 = 0
    s.dev.ccAt k →
    Yields (.ccIntegerOp k (.reg op rd ra rb)) s (s.dev.ccDid k rd (ccAlu op a b)) ∧
    Yields (.ccIntegerOp k (.imm op rd ra im)) s (s.dev.ccDid k rd (ccAlu op a (im.signExtend 64))) ∧
    Yields (.ccIntegerOp k (.lui rd im sh)) s (s.dev.ccDid k rd (BitVec.ofNat 64 (im.toNat * 2 ^ (16 * (sh % 4))))) ∧
    Yields (.ccIntegerOp k (.mul mu rd ra rb)) s (s.dev.ccDid k rd (ccMul mu a b)) ∧
    (b = 0 → Yields (.ccIntegerOp k (.mul .div rd ra rb)) s (s.dev.ccDid k rd (BitVec.allOnes 64)) ∧
      Yields (.ccIntegerOp k (.mul .remu rd ra rb)) s (s.dev.ccDid k rd a)) ∧
    (ccTaken cond a b = true → (pc + BitVec.ofInt 64 disp).toNat % 4 = 0 →
      Yields (.ccBranch k (.br cond ra rb disp)) s (goes (pc + BitVec.ofInt 64 disp))) ∧
    (ccTaken cond a b = false → Yields (.ccBranch k (.br cond ra rb disp)) s (goes (pc + 4))) ∧
    ((pc + BitVec.ofInt 64 disp).toNat % 4 = 0 → Yields (.ccBranch k (.jal rd disp)) s (links (pc + BitVec.ofInt 64 disp))) ∧
    (a.toNat % 4 = 0 → Yields (.ccBranch k (.jr ra)) s (goes a) ∧ Yields (.ccBranch k (.jalr rd ra)) s (links a)) ∧
    (s.dev.flag (.ccStatus k) F.ccStatus_TRAP = false →
      Yields (.ccIntegerOp k .illegal) s (s.dev.trapped k 1 pc 0) ∧
      (a.toNat % 4 ≠ 0 → Yields (.ccBranch k (.jr ra)) s (s.dev.trapped k 3 pc a.toNat)))

/-- R205 and 03 R80: floating-point operations and conversions write their result and raise their sticky flags; rounding codes 5 to 7
trap. Where the spec leaves a corner open, the clauses follow the model's choices of log entry 40. -/
def Obligations.ControlFloats : Prop :=
  ∀ (s : State) (k rm rd ra rb rc : Nat) (dbl : Bool) (op : CcFlt) (cv : CcCvt),
    let r := ccFlt op (ccFmt dbl) rm (s.dev.fReg k dbl ra) (s.dev.fReg k dbl rb) (s.dev.fReg k dbl rc)
    let c := s.dev.ccCvt k cv rm ra
    let ends := fun (x : FRes) (d : Dev) => s.dev.ccDid k rd (BitVec.ofNat 64 x.code) d ∧
      d.fld (.ccFlags k) F.ccFlags_IEEE = (s.dev.fld (.ccFlags k) F.ccFlags_IEEE ||| x.flags) % 32 ∧
      d.fld (.ccFlags k) F.ccFlags_VSAT = s.dev.fld (.ccFlags k) F.ccFlags_VSAT
    s.dev.ccAt k →
    (rm < 5 → Yields (.ccFloatOp k dbl op rm rd ra rb rc) s (ends r)) ∧
    (rm < 5 → ccCvtOk cv = true → Yields (.ccFloatConvert k cv rm rd ra) s (ends c)) ∧
    (5 ≤ rm → s.dev.flag (.ccStatus k) F.ccStatus_TRAP = false →
      Yields (.ccFloatOp k dbl op rm rd ra rb rc) s (s.dev.trapped k 1 (s.dev.cc k).pc 0) ∧
      Yields (.ccFloatConvert k cv rm rd ra) s (s.dev.trapped k 1 (s.dev.cc k).pc 0))

/-- R206, R482, 12 R339: scalar loads, stores and atomics whose bytes lie in one piece of stacked memory; a cached load takes them from
memory where its data cache holds none of their lines. Where the spec leaves a corner open, the clauses follow the model's choices of
log entries 40 and 52. -/
def Obligations.ControlMemory : Prop :=
  ∀ (s : State) (k par size rd ra rb rc : Nat) (sgn un : Bool) (off : BitVec 16) (op : CcAmo) (l : Leaf),
    let va := (s.dev.gReg k ra + off.signExtend 64).toNat
    let old := s.dev.physNum l.pa 8
    let new := atomicNew (ccAmoCode op) old (s.dev.gReg k rb).toNat (s.dev.gReg k rc).toNat
    s.dev.memWf → s.dev.noCopy → s.dev.ccAt k → l.pa + 8 ≤ stackSize →
    (size ∈ [1, 2, 4, 8] → par < 2 → (un = false → ∀ z ∈ (s.dev.cc k).dcache, z.1 ∉ linesOf l.pa size) →
      s.dev.ccPieces k .load false (cut256 2 va size) = .ok [(l, size)] →
      Yields (.ccLoad k par size sgn un rd ra off) s (fun d =>
        s.dev.ccDid k rd (extendLoad (s.dev.physRead l.pa size) sgn) d ∧ d.mem = s.dev.mem ∧
        (par = 1 → d.fld .glErrStatus F.glErrStatus_RETRY_EV = 1))) ∧
    (2 ≤ par → Yields (.ccLoad k par size sgn un rd ra off) s (fun d =>
      d.fld (.ccStatus k) F.ccStatus_HALT = 1 ∧ (d.cc k).pc = (s.dev.cc k).pc ∧ (d.cc k).g = (s.dev.cc k).g)) ∧
    (size ∈ [1, 2, 4, 8] → s.dev.ccPieces k .store false (cut256 2 va size) = .ok [(l, size)] →
      Yields (.ccStore k size un rb ra off) s (fun d => s.dev.ccDid k 0 0 d ∧
        s.dev.memPut l.pa (bytesOf size (s.dev.gReg k rb).toNat) d)) ∧
    ((s.dev.gReg k ra).toNat % 8 = 0 → s.dev.fabric.atoms = [] → s.dev.ccPiece k .atomic false (s.dev.gReg k ra).toNat 8 = .ok l →
      Yields (.ccAtomic k op rd ra rb rc) s (fun d => s.dev.ccDid k rd (BitVec.ofNat 64 old) d ∧ s.dev.memPut l.pa (bytesOf 8 new) d)) ∧
    ((s.dev.gReg k ra).toNat % 8 ≠ 0 → s.dev.flag (.ccStatus k) F.ccStatus_TRAP = false →
      Yields (.ccAtomic k op rd ra rb rc) s (s.dev.trapped k 3 (s.dev.cc k).pc (s.dev.gReg k ra).toNat))

/-- R207 to R212: system instructions, privilege, the return from a trap, the double trap, and interrupts. Where the spec leaves a
corner open, the clauses follow the model's choices of log entry 40. -/
def Obligations.ControlTrapsAndSystem : Prop :=
  ∀ (s : State) (k rd ra : Nat) (r : CcSr),
    let pc := (s.dev.cc k).pc
    let f := fun (x : Fld) (d : Dev) => d.fld (.ccStatus k) x
    let goes := fun (t : Word) => s.dev.ccKept k t (fun _ => False) (fun _ => False) (fun _ => False)
    (s.dev.ccAt k → f F.ccStatus_TRAP s.dev = 0 →
      Yields (.ccSys k) s (s.dev.trapped k 9 (pc + 4) 0) ∧ Yields (.ccBrk k) s (s.dev.trapped k 10 (pc + 4) 0) ∧
      (s.dev.ccSup k = false → Yields (.ccTret k) s (s.dev.trapped k 2 pc 0) ∧ Yields (.ccWfi k) s (s.dev.trapped k 2 pc 0) ∧
        (srJob r = false → Yields (.srRd k rd r) s (s.dev.trapped k 2 pc 0) ∧ Yields (.srWr k r ra) s (s.dev.trapped k 2 pc 0)))) ∧
    (s.dev.ccAt k → f F.ccStatus_TRAP s.dev = 1 → Yields (.ccSys k) s (fun d => f F.ccStatus_HALT d = 1)) ∧
    (s.dev.ccAt k → s.dev.ccSup k = true → (s.dev.rd (.ccTrapPc k)).toNat % 4 = 0 →
      Yields (.ccTret k) s (fun d => goes (s.dev.rd (.ccTrapPc k)) d ∧ f F.ccStatus_PRIV d = f F.ccStatus_SPRIV s.dev ∧
        f F.ccStatus_IE d = f F.ccStatus_SIE s.dev ∧ f F.ccStatus_TRAP d = 0)) ∧
    (s.dev.ccAt k → s.dev.ccUnsettled k = false → Yields (.ccFence k) s (goes (pc + 4))) ∧
    (s.dev.ccAt k → s.dev.ccSup k = true → (s.dev.ccPending k = [] → Yields (.ccWfi k) s (fun d =>
        (d.cc k).wait = .wfi ∧ (d.cc k).pc = pc)) ∧
      (s.dev.ccPending k ≠ [] → Yields (.ccWfi k) s (goes (pc + 4)))) ∧
    (s.dev.ccAt k → (s.dev.ccSup k = true ∨ srJob r = true) →
      Yields (.srRd k rd r) s (s.dev.ccDid k rd (s.dev.regValue (srReg k r))) ∧
      Yields (.srWr k r ra) s (fun d => (d.cc k).g = (s.dev.cc k).g ∧
        (r = .flags → d.rd (.ccFlags k) = Reg.written (.ccFlags k) (s.dev.gReg k ra) (s.dev.rd (.ccFlags k)) ∧ goes (pc + 4) d) ∧
        (r ∈ [.tvec, .trapPc, .mboxIe] → goes (pc + 4) d ∧
          d.rd (srReg k r) = Reg.written (srReg k r) (s.dev.gReg k ra) (s.dev.rd (srReg k r))))) ∧
    (s.dev.ccPending k ≠ [] → f F.ccStatus_HALT s.dev = 0 → f F.ccStatus_IE s.dev = 1 →
      (∀ a b c, (s.dev.cc k).wait ≠ .load a b c) →
      Yields (.interrupt k) s (fun d => ∃ cause ∈ s.dev.ccPending k,
        d.fld (.ccTrapCause k) F.ccTrapCause_CAUSE = cause ∧ d.fld (.ccTrapCause k) F.ccTrapCause_INT = 1 ∧
        d.rd (.ccTrapPc k) = (if (s.dev.cc k).wait = .wfi then pc + 4 else pc) ∧ (d.cc k).wait = .run ∧
        (d.cc k).pc = s.dev.rd (.ccTvec k) &&& ~~~(3 : Word) ∧ f F.ccStatus_IE d = 0 ∧ f F.ccStatus_PRIV d = 1 ∧
        f F.ccStatus_SPRIV d = f F.ccStatus_PRIV s.dev ∧ f F.ccStatus_SIE d = 1 ∧ f F.ccStatus_TRAP d = 1))

/-- R225, R226, R229 to R232: waits on mailbox entries and calls, their deadlines, and the life of a call. Where the spec leaves a
corner open, the clauses follow the model's choices of log entry 40. -/
def Obligations.ControlMailboxAndCalls : Prop :=
  ∀ (s : State) (k q rd ra rb n t w dt : Nat) (c : Call) (ws : List Word),
    let a := s.dev.gReg k ra
    let b := (s.dev.gReg k rb).toNat
    let tag := Reg.ccMboxTag k (n % 64)
    (s.dev.ccAt k →
      (s.dev.mboxHit k a = some n → Yields (.mbwait k rd ra rb) s (s.dev.ccDid k rd (BitVec.ofNat 64 n))) ∧
      (s.dev.mboxHit k a = none → b ≤ s.dev.cycle → Yields (.mbwait k rd ra rb) s (s.dev.ccDid k rd 64)) ∧
      (s.dev.mboxHit k a = none → s.dev.cycle < b → Yields (.mbwait k rd ra rb) s (fun d =>
        (d.cc k).wait = .mbwait rd ra b ∧ (d.cc k).pc = (s.dev.cc k).pc)) ∧
      Yields (.mbtake k rd w n) s (fun d => d.fld tag F.ccMboxTag_FULL = 0 ∧ d.fld tag F.ccMboxTag_OVW = 0 ∧
        d.fld tag F.ccMboxTag_SEQ = s.dev.fld tag F.ccMboxTag_SEQ ∧ (d.cc k).pc = (s.dev.cc k).pc + 4 ∧
        (w % 32 ≠ 0 → d.gReg k w = s.dev.rd tag) ∧
        (rd % 32 ≠ 0 → rd % 32 ≠ w % 32 → d.gReg k rd = s.dev.rd (.ccMboxVal k (n % 64)))) ∧
      (s.dev.callUntaken k = some n → Yields (.cctake k rd rb) s (fun d => s.dev.ccDid k rd (BitVec.ofNat 64 n) d ∧
        ∀ p ∈ (d.cc k).calls, p.1 = n → p.2.taken = true)) ∧
      (s.dev.callUntaken k = none → b ≤ s.dev.cycle → Yields (.cctake k rd rb) s (s.dev.ccDid k rd 16)) ∧
      (s.dev.callTaken k (a.toNat % 16) = some c → w < 6 → Yields (.ccarg k rd ra w) s (s.dev.ccDid k rd (c.params.getD w 0))) ∧
      (s.dev.callTaken k (a.toNat % 16) = none → s.dev.flag (.ccStatus k) F.ccStatus_TRAP = false →
        Yields (.ccarg k rd ra w) s (s.dev.trapped k 1 (s.dev.cc k).pc 0)) ∧
      (s.dev.callTaken k (a.toNat % 16) = some c → s.dev.ccUnsettled k = false → Yields (.ccdone k ra rb) s (fun d =>
        (d.cc k).pc = (s.dev.cc k).pc + 4 ∧ (∀ p ∈ (d.cc k).calls, p.1 ≠ a.toNat % 16) ∧
        ∀ r ∈ (d.queue c.queue).runs, r.serial = c.serial → r.done = true ∧
          r.status = (if bits b 15 0 = 0 then 0 else 0xB00) ∧ (bits b 15 0 ≠ 0 → r.detail = bits b 47 16)))) ∧
    ((s.dev.cc k).wait = .mbwait rd ra t → t ≤ s.dev.cycle + dt → rd % 32 ≠ 0 →
      Yields (.mbwaitDeadline k dt) s (fun d => d.gReg k rd = 64 ∧ (d.cc k).wait = .run ∧ (d.cc k).pc = (s.dev.cc k).pc + 4)) ∧
    ((s.dev.cc k).wait = .cctake rd t → t ≤ s.dev.cycle + dt → rd % 32 ≠ 0 →
      Yields (.cctakeDeadline k dt) s (fun d => d.gReg k rd = 16 ∧ (d.cc k).wait = .run ∧ (d.cc k).pc = (s.dev.cc k).pc + 4)) ∧
    (s.dev.qTarget q = k → s.dev.callFree k = some n → s.dev.startable q 0x800 = some ws → (s.dev.cc k).wait = .run →
      Yields (.ccCall q) s (fun d => s.dev.started q ws 0 d ∧ ∃ x, (d.cc k).calls = (s.dev.cc k).calls ++ [(n, x)] ∧ x.queue = q ∧
        x.taken = false ∧ x.serial = (s.dev.fld (.cqSerial q) ⟨47, 0⟩ + 1) % 2 ^ 48 ∧
        x.params.take 4 = (List.range 4).map (fun j => ws.getD (4 + j) 0)))

/-- R213 to R221: `setvl`, and the long-vector instructions on a valid vector state with vl not zero. Where the spec leaves a corner
open, the clauses follow the model's choices of log entry 41. -/
def Obligations.LongVectors : Prop :=
  ∀ (s : State) (k rd ra vd va pg vb : Nat) (im : BitVec 32) (b : CvSrc) (mu : CvMul) (fx : CvFix) (al : CvAlu) (rel : CvRel)
    (l : Leaf) (ro : CvRed) (x : Nat) (xs : List Nat),
    let d0 := s.dev
    let w := d0.cvBits k
    let ea := fun i => elemAt w (d0.vReg k va) i
    let es := d0.cvSrc k b
    let n := min (d0.gReg k ra).toNat (128 / 2 ^ (im.toNat % 4))
    let bytes := (d0.cvActive k pg).flatMap (fun i => bytesOf (w / 8) (ea i))
    let sat := fun (f : Nat → Nat → Nat × Bool) (d : Dev) => d0.cvWrote k vd pg (fun i => (f (ea i) (es i)).1) d ∧
      d.fld (.ccFlags k) F.ccFlags_VSAT = if ∃ i ∈ d0.cvActive k pg, (f (ea i) (es i)).2 = true then 1
        else d0.fld (.ccFlags k) F.ccFlags_VSAT
    d0.memWf → d0.noCopy → d0.ccAt k →
    Yields (.setvl k rd ra im) s (fun d =>
      if 16 ≤ im.toNat then d0.ccDid k rd 0 d ∧ d.cvLen k = 0 ∧ d.flag (.ccVstate k) F.ccVstate_ILL = true
      else d0.ccDid k rd (BitVec.ofNat 64 n) d ∧ d.cvLen k = n ∧ d.cvBits k = 8 * 2 ^ (im.toNat % 4) ∧
        d.cvRnd k = im.toNat / 4 ∧ d.flag (.ccVstate k) F.ccVstate_ILL = false) ∧
    (d0.flag (.ccVstate k) F.ccVstate_ILL = true → d0.flag (.ccStatus k) F.ccStatus_TRAP = false →
      Yields (.vectorMultiply k mu vd va b pg) s (d0.trapped k 1 (d0.cc k).pc 0)) ∧
    (d0.cvOn k →
      (al ∈ [.vadd, .vsub, .vand, .vor, .vxor, .vshl, .vshr, .vsar, .vmin, .vmax, .vminu, .vmaxu] →
        Yields (.vectorAlu k al vd va b pg) s (d0.cvWrote k vd pg (fun i => cvAlu al w (ea i) (es i)))) ∧
      Yields (.vectorAlu k .vdup vd va (.g rd) pg) s (d0.cvWrote k vd pg (fun _ => (d0.gReg k rd).toNat)) ∧
      Yields (.vectorAlu k (.vcmp rel) vd va b pg) s (fun d => (d.cc k).pc = (d0.cc k).pc + 4 ∧ (d.cc k).v = (d0.cc k).v ∧
        (vd % 8 ≠ 0 → ∀ i, i < 128 → bit (d.pReg k vd) i =
          if i < d0.cvLen k ∧ bit (d0.pReg k pg) i = true then cvRel rel w (ea i) (es i) else bit (d0.pReg k vd) i)) ∧
      Yields (.vectorAlu k .vsel vd va b pg) s (fun d => ∀ i, i < 1024 / w → elemAt w (d.vReg k vd) i =
        if i < d0.cvLen k then (if bit (d0.pReg k pg) i then ea i else es i) % 2 ^ w else elemAt w (d0.vReg k vd) i) ∧
      Yields (.vectorReduction k .por vd va vb pg) s (fun d => (d.cc k).v = (d0.cc k).v ∧ (vd % 8 ≠ 0 → ∀ i, i < 128 →
        bit (d.pReg k vd) i = if i < d0.cvLen k ∧ bit (d0.pReg k pg) i = true then bit (d0.pReg k va) i || bit (d0.pReg k vb) i
          else bit (d0.pReg k vd) i)) ∧
      (bit (d0.pReg k pg) 0 = true → Yields (.vectorAlu k .vtog vd va b pg) s (d0.ccDid k vd (BitVec.ofNat 64 (ea 0)))) ∧
      Yields (.vectorMultiply k mu vd va b pg) s (sat (cvMul mu w (d0.cvRnd k))) ∧
      Yields (.fixedPointOp k fx vd va b pg) s (sat (cvFix fx w (d0.cvRnd k))) ∧
      ((d0.cvActive k pg).map ea = x :: xs → ro ∈ [.vrsum, .vrmax, .vrmin, .vrmaxu, .vrminu] →
        Yields (.vectorReduction k ro vd va vb pg) s (fun d => elemAt w (d.vReg k vd) 0 = xs.foldl (cvRedPair ro w) x % 2 ^ w ∧
          ∀ i, 0 < i → i < 1024 / w → elemAt w (d.vReg k vd) i = elemAt w (d0.vReg k vd) i)) ∧
      (d0.cvActive k pg = [] → (ro, x) ∈ [(.vrsum, 0), (.vrmax, 2 ^ (w - 1)), (.vrmin, 2 ^ (w - 1) - 1), (.vrmaxu, 0), (.vrminu, 2 ^ w - 1)] →
        Yields (.vectorReduction k ro vd va vb pg) s (fun d => elemAt w (d.vReg k vd) 0 = x)) ∧
      (l.pa + bytes.length ≤ stackSize → l.hint ≠ 3 → bytes ≠ [] →
        ((∀ z ∈ (d0.cc k).dcache, z.1 ∉ linesOf l.pa bytes.length) →
            d0.ccPieces k .load true (d0.cvSpan k ra pg) = .ok [(l, bytes.length)] →
          Yields (.vld k vd ra pg) s (fun d => d.mem = d0.mem ∧ (d.cc k).pc = (d0.cc k).pc + 4 ∧
            ∀ j i, (d0.cvActive k pg)[j]? = some i → i < 1024 / w →
              elemAt w (d.vReg k vd) i = numAt (d0.physRead l.pa bytes.length) (w / 8 * j) (w / 8))) ∧
        (d0.ccPieces k .store true (d0.cvSpan k ra pg) = .ok [(l, bytes.length)] →
          Yields (.vst k va ra pg) s (fun d => (d.cc k).pc = (d0.cc k).pc + 4 ∧ (d.cc k).v = (d0.cc k).v ∧ d0.memPut l.pa bytes d))))

/-! ### Command queues (09) and the generator registers (03) -/

/-- R235, R248: in a queue that is unbound, stopped, draining or in ERROR, and in one whose head waits, no row that starts a command
changes anything. And R236, R252, R254, R570 and the rules of the `cq.` commands that only wait, patch or loop: what a start does. Where
the spec leaves a corner open, the clauses follow the model's choices of log entries 15 and 17. -/
def Obligations.QueueStarts : Prop :=
  (∀ (s : State) (q : Nat) (bad : Silicon) (b : Bool) (c : Instr),
    c ∈ [.tgStep q, .tgStop q, .sgMm q bad, .sgMmb q bad, .svBind q, .svFactor q bad, .svSolve q bad, .svFsolve q bad,
      .svSigload q, .dmDelta q bad, .dmDense q bad, .vectorCommand q bad, .ccCall q, .routineInvalid q, .cqNop q, .cqPatchfence q,
      .cqLoop q, .cqEndloop q, .cqRecord q, .cqEndrec q, .cqReplay q, .cqSwapbank q, .dmCopy q bad, .dmStride q bad,
      .dmGather q bad, .dmScatter q bad, .bmeSgd q bad, .bmeAdamw q bad, .bmeRowada q bad, .fbAmo q, .fbSend q b, .fbRecv q,
      .fbNop q, .fbAllreduce q, .fbRscat q, .fbAgather q, .fbBcast q, .fbBarrier q, .ppFbload q, .coreSoundCommand q] →
    s.dev.readyDesc q = none → exec c s = .next s) ∧
  (∀ (s : State) (q : Nat) (ws : List Word),
    (s.dev.startable q 1 = some ws → Yields (.cqNop q) s (s.dev.started q ws 0)) ∧
    ((s.dev.readyDesc q = some ws ∧ s.dev.preStatus q ws ≠ 0 ∧ (isCq (dRtn ws) = true ∨ s.dev.agentFree q = true) ∧
        s.dev.takesOk q ws = true) →
      Yields (.routineInvalid q) s (s.dev.started q ws (s.dev.preStatus q ws))) ∧
    ((s.dev.startable q 2 = some ws ∧ bits (dArg ws 1) 9 0 ≠ 0 ∧ bits (dArg ws 0) 8 0 + bits (dArg ws 1) 9 0 ≤ 512) →
      Yields (.cqPatchfence q) s (fun d => s.dev.started q ws 0 d ∧ ∀ b w, w < 16 →
        d.rd (.coreParam (s.dev.qHome q) b w) =
          if bits (dArg ws 0) 8 0 ≤ b ∧ b < bits (dArg ws 0) 8 0 + bits (dArg ws 1) 9 0
          then s.dev.rd (.corePstage (s.dev.qHome q) b w) else s.dev.rd (.coreParam (s.dev.qHome q) b w))) ∧
    ((s.dev.startable q 2 = some ws ∧ (bits (dArg ws 1) 9 0 = 0 ∨ 512 < bits (dArg ws 0) 8 0 + bits (dArg ws 1) 9 0)) →
      Yields (.cqPatchfence q) s (s.dev.started q ws stDescInvalid)))

/-- R259, R260: `cq.loop` opens a loop with the count of its block, and `cq.endloop` runs the body again or leaves the loop. And R261 to
R264: opening a recording, copying into it, closing it and replaying a segment. Where the spec leaves a corner open, the clauses follow
the model's choices of log entry 17. -/
def Obligations.LoopsAndRecordings : Prop :=
  (∀ (s : State) (q : Nat) (ws : List Word) (l : Loop) (t : List Loop),
    let x := s.dev.queue q
    let count := wd (s.dev.paramBlock (s.dev.qHome q) (dPblk ws)) (dArg ws 0 % 16)
    ((s.dev.startable q 3 = some ws ∧ x.loops.length < 4 ∧ count ≠ 0) →
      Yields (.cqLoop q) s (fun d => s.dev.started q ws 0 d ∧ (d.queue q).loops = ⟨x.past.pos, x.past.replay, count⟩ :: x.loops)) ∧
    ((s.dev.startable q 3 = some ws ∧ 4 ≤ x.loops.length) → Yields (.cqLoop q) s (s.dev.started q ws 0x13)) ∧
    ((s.dev.startable q 3 = some ws ∧ x.loops.length < 4 ∧ count = 0) →
      Yields (.cqLoop q) s (fun d => s.dev.started q ws 0 d ∧ (d.queue q).loops = x.loops)) ∧
    ((s.dev.startable q 4 = some ws ∧ x.loops = l :: t ∧ 1 < l.left) →
      Yields (.cqEndloop q) s (fun d => s.dev.started q ws 0 d ∧ (d.queue q).loops = { l with left := l.left - 1 } :: t ∧
        (d.queue q).pos = l.pos ∧ (d.queue q).replay = l.replay)) ∧
    ((s.dev.startable q 4 = some ws ∧ x.loops = l :: t ∧ l.left ≤ 1) →
      Yields (.cqEndloop q) s (fun d => s.dev.started q ws 0 d ∧ (d.queue q).loops = t ∧
        (d.queue q).pos = x.past.pos ∧ (d.queue q).replay = x.past.replay)) ∧
    ((s.dev.startable q 4 = some ws ∧ x.loops = []) → Yields (.cqEndloop q) s (s.dev.started q ws 0x14))) ∧
  (∀ (s : State) (q : Nat) (ws : List Word) (r : Rec),
    let x := s.dev.queue q
    let hdr := s.dev.memRead (dArg ws 0) 8
    ((s.dev.startable q 5 = some ws ∧ x.replay = none ∧ x.rcd = none ∧ x.loops = [] ∧ segFits (dArg ws 0) 8192 = true ∧
        s.dev.memWf) →
      Yields (.cqRecord q) s (fun d => s.dev.started q ws 0 d ∧
        (d.queue q).rcd = some ⟨dArg ws 0, bit (dArg ws 1) 0, 0, x.past.pos, 0⟩ ∧
        Mem.read d.mem (dArg ws 0) 64 = bytesOf 4 segMagic ++ bytesOf 2 0 ++ bytesOf 1 (s.dev.qKind q) ++ zeros 57)) ∧
    ((x.rcd = some r ∧ s.dev.avail q r.next ≠ 0 ∧ (∀ n ∈ [5, 6, 7], dRtn (s.dev.ringDesc q r.next) ≠ n) ∧ r.count < 8192 ∧
        (r.exec = true ∨ x.pos = r.next) ∧ s.dev.memWf) →
      Yields (.segmentCopy q) s (fun d =>
        ((d.queue q).rcd.map Rec.count = some (r.count + 1)) ∧ ((d.queue q).rcd.map Rec.next = some ((r.next + 1) % 2 ^ 32)) ∧
        Mem.read d.mem (r.addr + 64 + 64 * r.count) 64 =
          (s.dev.ringDesc q r.next).flatMap (fun w => bytesOf 8 w.toNat))) ∧
    ((s.dev.startable q 6 = some ws ∧ x.replay = none ∧ x.rcd = some r ∧ r.depth = 0 ∧ x.loops = [] ∧ r.count ≠ 0 ∧
        s.dev.memWf) →
      Yields (.cqEndrec q) s (fun d => s.dev.started q ws 0 d ∧ (d.queue q).rcd = none ∧ Mem.get d.mem (r.addr + 7) = 1)) ∧
    ((s.dev.startable q 7 = some ws ∧ x.replay = none ∧ x.rcd = none ∧ segFits (dArg ws 0) (numAt hdr 4 2) = true ∧
        numAt hdr 0 4 = segMagic ∧ numAt hdr 7 1 ≠ 0 ∧ numAt hdr 4 2 ≠ 0 ∧ numAt hdr 4 2 ≤ 8192 ∧ numAt hdr 6 1 = s.dev.qKind q) →
      Yields (.cqReplay q) s (fun d => s.dev.started q ws 0 d ∧ (d.queue q).replay = some ⟨dArg ws 0, numAt hdr 4 2, 0⟩)))

/-- R265, R266, R268, and 03 R106: the routine banks and the generator registers of a core. Where the spec leaves a corner open, the
clauses follow the model's choices of log entry 15. -/
def Obligations.RoutineBanks : Prop :=
  ∀ (s : State) (req : Req) (q c bank off j : Nat) (v : Word) (ws : List Word) (dir : List (Nat × Nat × Nat)),
    let t := s.dev.qTarget q
    ((s.dev.startable q 8 = some ws ∧ s.dev.bankRuns t = false ∧ s.dev.flag (.coreRbank t) F.coreRbank_VERIFIED = true) →
      Yields (.cqSwapbank q) s (fun d => s.dev.started q ws 0 d ∧
        d.fld (.coreRbank t) F.coreRbank_ACTIVE = 1 - s.dev.fld (.coreRbank t) F.coreRbank_ACTIVE ∧
        d.fld (.coreRbank t) F.coreRbank_VERIFIED = 0 ∧
        d.fld (.coreRbank t) F.coreRbank_SWAPS = (s.dev.fld (.coreRbank t) F.coreRbank_SWAPS + 1) % 2 ^ 16)) ∧
    ((s.dev.startable q 8 = some ws ∧ s.dev.bankRuns t = false ∧ s.dev.flag (.coreRbank t) F.coreRbank_VERIFIED = false) →
      Yields (.cqSwapbank q) s (fun d => s.dev.started q ws 0x18 d ∧ d.rd (.coreRbank t) = s.dev.rd (.coreRbank t))) ∧
    ((off % 8 = 0 ∧ s.dev.allows req (.coreBank c bank (off / 8)) v) →
      Yields (.routineBankWrite req c bank off v) s (fun d =>
        if s.dev.fld (.coreRbank c) F.coreRbank_ACTIVE = bank then d = s.dev
        else d.rd (.coreBank c bank (off / 8)) = v ∧ d.fld (.coreRbank c) F.coreRbank_VERIFIED = 0)) ∧
    ((s.dev.allows req (.coreRbank c) 4 ∧ s.dev.flag (.coreRbank c) F.coreRbank_BUSY = false) →
      Yields (.verify req c) s (fun d => d.fld (.coreRbank c) F.coreRbank_BUSY = 1)) ∧
    ((s.dev.flag (.coreRbank c) F.coreRbank_BUSY = true ∧ (s.dev.core c).bankDirty = false) →
      Yields (.bankVerifyEnd c true dir) s (fun d =>
        d.fld (.coreRbank c) F.coreRbank_BUSY = 0 ∧ d.fld (.coreRbank c) F.coreRbank_VERIFIED = 1)) ∧
    (s.dev.flag (.coreRbank c) F.coreRbank_BUSY = true →
      Yields (.bankVerifyEnd c false dir) s (fun d =>
        d.fld (.coreRbank c) F.coreRbank_BUSY = 0 ∧ d.fld (.coreRbank c) F.coreRbank_VFAIL = 1)) ∧
    (s.dev.allows req (rngReg c j) v →
      Yields (.rngRegisterWrite req c j v) s (fun d =>
        tget 0 (rngReg c j) (d.core c).rngHeld = v ∧ d.rd (rngReg c j) = s.dev.rd (rngReg c j)))

/-- R241, R249, R254: a doorbell moves TAIL or is refused (17 R482: the core of a descriptor whose parity fails twice is fenced), RESUME
and STOP change the queue's state, and a write of a signal counter replaces it or adds to it. And R250, R251, R254: the oldest running
command of a queue that has nothing left to do completes: it leaves the queue, its signal is given or withheld, and an error without
ERRCONT puts the queue into ERROR. Where the spec leaves a corner open, the clauses follow the model's choices of log entries 14 and 16.
-/
def Obligations.DoorbellsAndCompletions : Prop :=
  (∀ (s : State) (req : Req) (q n : Nat) (v : Word),
    let new := F.cqDoorbell_TAIL.get v
    let step := diff32 new (s.dev.qTail q)
    ((s.dev.allows req (.cqDoorbell q) v ∧ (req = .host → s.dev.replayed 3 = false) ∧
        s.dev.fld .glFolioStatus F.glFolioStatus_STATE ≠ 4 ∧ (s.dev.queue q).mode ≠ .drain ∧
        ((s.dev.queue q).mode = .unbound ∨ 4 < s.dev.qKind q ∨ s.dev.coreFenced (s.dev.qTarget q) = false) ∧
        step ≠ 0 ∧ step < 2 ^ 31) →
      Yields (.doorbellWrite req q ⟨v, 0⟩) s (fun d =>
        if diff32 new (s.dev.qHead q) ≤ s.dev.ringSize q then d.qTail q = new
        else d.qTail q = s.dev.qTail q ∧ d.fld (.cqStatus q) F.cqStatus_DBERR = 1) ∧
      ((s.dev.queue q).mode = .on → s.dev.qKind q ≤ 4 → s.dev.flag .glChkCtl F.glChkCtl_MASK = false →
        diff32 new (s.dev.qHead q) ≤ s.dev.ringSize q →
        Yields (.doorbellWrite req q ⟨v, 2⟩) s (fun d => d.coreFenced (s.dev.qTarget q) = true))) ∧
    ((s.dev.allows req (.cqCtl q) 1 ∧ ((s.dev.queue q).mode = .error ∨ (s.dev.queue q).mode = .stopped)) →
      Yields (.cqResume req q) s (fun d => (d.queue q).mode = .on ∧ (d.queue q).runs = (s.dev.queue q).runs)) ∧
    ((s.dev.allows req (.cqCtl q) 2 ∧ ((s.dev.queue q).mode = .on ∨ (s.dev.queue q).mode = .error)) →
      Yields (.cqStop req q) s (fun d => (d.queue q).mode = .stopped ∧ (d.queue q).runs = (s.dev.queue q).runs)) ∧
    (s.dev.allows req (.cqSig n) v →
      Yields (.signalCounterWrite req n v) s (fun d =>
        d.sig n = if F.cqSig_ADD.get v = 1 then (s.dev.sig n + F.cqSig_VALUE.get v) % 2 ^ 32 else F.cqSig_VALUE.get v))) ∧
  (∀ (s : State) (q : Nat) (r : Run) (t : List Run),
    ((s.dev.queue q).runs = r :: t ∧ r.over = true ∧ s.dev.frozenRun q r = false ∧ s.dev.acked r = true) →
      Yields (.commandCompletion q) s (fun d =>
        (d.queue q).runs = t ∧
        d.sig (dSigctr r.desc) = (s.dev.sig (dSigctr r.desc) +
          (if r.status = 0 ∨ (r.status ≠ stAborted ∧ dErrcont r.desc = true) then dSiginc r.desc else 0)) % 2 ^ 32 ∧
        ((s.dev.queue q).mode = .on →
          (d.queue q).mode = if r.status ≠ 0 ∧ r.status ≠ stAborted ∧ dErrcont r.desc = false then .error else .on)))

/-! ### Coves, stacked memory, movers and the far tier (10), junction throttle (20 R558) -/

/-- 16 R439, R441, R445, R273, R275, R278: an access that no cove serves is the one command that stops; a read returns the bytes that
stand there and changes none, but for the dirty lines that a LAST_USE read discards whole; a write puts its bytes; and an access of a
package agent to a page in host bias gets what the host's caches hold (16 R446). Where the spec leaves a corner open, the clauses follow
the model's choices of log entry 34. -/
def Obligations.CoveAccesses : Prop :=
  ∀ (s : State) (src : CoveSrc) (addr len : Nat) (wr : Option (List Byte)) (found : Found) (bs old : List Byte),
    (s.dev.coveReach src addr ((wr.map List.length).getD len) = false →
      exec (.coveAccess src addr wr len found) s = .fault .noSuchAddress) ∧
    (s.dev.coveReach .host addr len = true → s.dev.hostLink = true → 0 < len →
      Yields (.coveAccess .host addr none len {}) s (fun d => d.mem = s.dev.mem ∧ d.far = s.dev.far ∧
        d.out = s.dev.out ++ [.hostData addr (s.dev.physRead addr len) (!(s.dev.badIn addr len).isEmpty)])) ∧
    (s.dev.coveReach src addr len = true → (src = .host → s.dev.hostLink = true) → 0 < len → s.dev.coveDown src addr = none →
      s.dev.memWf →
      Yields (.coveAccess src addr none len {}) s (fun d =>
        (coveHint src ≠ 3 → d.mem = s.dev.mem ∧ d.far = s.dev.far) ∧
        (coveHint src = 3 → (∀ y ∈ d.cache, y.addr % 64 = 0 → ¬ (addr ≤ y.addr ∧ y.addr + 64 ≤ addr + len)) ∧
          ∀ a, (∀ y ∈ s.dev.cache, ∀ old, y.old = some old → a < y.addr ∨ y.addr + old.length ≤ a) →
            Mem.get d.mem a = Mem.get s.dev.mem a))) ∧
    (∀ p, s.dev.coveReach src addr len = true → src ≠ .host → 0 < len → s.dev.coveDown src addr = some p →
      Yields (.coveAccess src addr none len {}) s (fun d => d.mem = s.dev.mem ∧ d.far = s.dev.far ∧ d.cache = s.dev.cache)) ∧
    (s.dev.coveReach src addr bs.length = true → (src = .host → s.dev.hostLink = true) → bs ≠ [] → addr + bs.length ≤ stackSize →
      s.dev.memWf → s.dev.noCopy →
      Yields (.coveAccess src addr (some bs) len {}) s (fun d => s.dev.memPut addr bs d ∧ d.far = s.dev.far)) ∧
    (s.dev.coveReach src addr 64 = true → src ≠ .host → coveHint src ≠ 3 → s.dev.coveDown src addr = none → addr % 64 = 0 →
      addr + 64 ≤ stackSize → addr / 2097152 ∈ s.dev.bias → s.dev.hostLink = true → old.length = 64 → s.dev.memWf → s.dev.noCopy →
      Yields (.coveAccess src addr none 64 { host := [(addr, old)] }) s (fun d => s.dev.memPut addr old d ∧ Out.resolve addr ∈ d.out))

/-- R280, R284, R286, R288 and 18 R523: promotions, refreshes and corrections are counted, and a patrol pass ends. And R287: an access
that needs up to three retries counts each; a fourth failed attempt escalates, and the eighth on one channel is package-fatal. Where the
spec leaves a corner open, the clauses follow the model's choices of log entry 34. -/
def Obligations.CoveCountsAndRetries : Prop :=
  (∀ (s : State) (v j addr wait : Nat) (flaw : Flaw),
    let counts := fun (ev : Nat) (d : Dev) => s.dev.lfld (.cvPmcSel v j) ⟨7, 0⟩ = ev → j < 8 →
      d.fld (.cvPmcValue v j) ⟨47, 0⟩ = (s.dev.fld (.cvPmcValue v j) ⟨47, 0⟩ + 1) % 2 ^ 48
    let age := s.dev.fld (.cvPrio v) F.cvPrio_BULK_AGE
    (0 < age → age ≤ wait → Yields (.bulkPromotion ⟨v, wait⟩) s (fun d => counts 6 d ∧ d.mem = s.dev.mem)) ∧
    (age = 0 ∨ wait < age → Yields (.bulkPromotion ⟨v, wait⟩) s (fun d => d = s.dev)) ∧
    Yields (.dramRefresh v) s (fun d => counts 9 d ∧ d.mem = s.dev.mem) ∧
    (addr < stackSize → s.dev.cove addr = v → Yields (.patrolScrub v addr .corrected false) s (fun d => counts 0xA d ∧
      d.fld (.cvEcc v) F.cvEcc_CORR = satAdd 16 (s.dev.fld (.cvEcc v) F.cvEcc_CORR) 1 ∧ d.mem = s.dev.mem)) ∧
    (flaw = .none → Yields (.patrolScrub v addr flaw true) s (fun d =>
      d.fld (.cvScrub v) F.cvScrub_PASSES = (s.dev.fld (.cvScrub v) F.cvScrub_PASSES + 1) % 2 ^ 32 ∧
      d.live (.cvScrub v) = d.rd (.cvScrub v) ∧ d.mem = s.dev.mem))) ∧
  (∀ (s : State) (v addr n : Nat),
    let ch := s.dev.chan addr
    addr < stackSize → s.dev.cove addr = v →
    (n ≤ 3 → Yields (.patrolScrub v addr (.retries n) false) s (fun d =>
      d.fld (.cvEcc v) F.cvEcc_RETRY = satAdd 16 (s.dev.fld (.cvEcc v) F.cvEcc_RETRY) n ∧
      d.fld (.cvEcc v) F.cvEcc_ESCAL = s.dev.fld (.cvEcc v) F.cvEcc_ESCAL)) ∧
    (3 < n → tget 0 (16 * v + ch) s.dev.escal + 1 ≠ 8 → Yields (.patrolScrub v addr (.retries n) false) s (fun d =>
      d.fld (.cvEcc v) F.cvEcc_ESCAL = satAdd 8 (s.dev.fld (.cvEcc v) F.cvEcc_ESCAL) 1 ∧
      tget 0 (16 * v + ch) d.escal = tget 0 (16 * v + ch) s.dev.escal + 1 ∧
      d.fld .glErrStatus F.glErrStatus_UNCORR_EV = 1)) ∧
    (3 < n → tget 0 (16 * v + ch) s.dev.escal = 7 → Yields (.patrolScrub v addr (.retries n) false) s (fun d =>
      d.fld .glErrStatus F.glErrStatus_FATAL_PREV = 1 ∧ d.mem = [] ∧ d.queues = [])))

/-- R288, R291, R292, 20 R558: samples, the steps of the stack throttle and the junction throttle. And R276, R303, R305, R308: UNKEEP,
an invalidation, a far-tier port that goes down, and an AER event. Where the spec leaves a corner open, the clauses follow the model's
choices of log entries 34 and 35. -/
def Obligations.HeatAndCoveRegisters : Prop :=
  (∀ (s : State) (v t0 t1 t2 t3 : Nat),
    let t := max (max t0 t1) (max t2 t3)
    let temp := s.dev.fld (.cvTherm v) F.cvTherm_TEMP
    let cur := s.dev.fld (.cvTherm v) F.cvTherm_STEP
    let steps := fun (n : Nat) (d : Dev) => d.fld (.cvTherm v) F.cvTherm_STEP = n ∧ d.fld (.cvTherm v) F.cvTherm_STEP_EV = 1 ∧
      d.fld .cnChoiceTime F.cnChoiceTime_COUNT = (s.dev.fld .cnChoiceTime F.cnChoiceTime_COUNT + 1) % 2 ^ 48 ∧
      d.fld .cnChoiceTime F.cnChoiceTime_LAST = 3 ∧ d.mgmt.due = true
    (t < 98 → Yields (.stackTempSample v t0 t1 t2 t3) s (fun d => d.fld (.cvTherm v) F.cvTherm_TEMP = t ∧ d.mem = s.dev.mem ∧
      d.fld (.cvTherm v) F.cvTherm_STEP = cur)) ∧
    (98 ≤ t → Yields (.stackTempSample v t0 t1 t2 t3) s (fun d =>
      d.fld .glErrStatus F.glErrStatus_FATAL_PREV = 1 ∧ d.mem = [] ∧ d.queues = [])) ∧
    (v ∉ s.dev.jhold → cur < stepFor temp → Yields (.stackThrottleEval v) s (steps (stepFor temp))) ∧
    (v ∉ s.dev.jhold → stepFor temp ≤ cur → 0 < cur → temp < stepLeave cur → Yields (.stackThrottleEval v) s (steps (cur - 1))) ∧
    (v ∉ s.dev.jhold → stepFor temp ≤ cur → (cur = 0 ∨ stepLeave cur ≤ temp) →
      Yields (.stackThrottleEval v) s (fun d => d = s.dev)) ∧
    (v ∉ s.dev.jhold → 102 ≤ max t0 t1 → cur ≠ 4 → Yields (.junctionThrottle v t0 t1) s (fun d => steps 4 d ∧ v ∈ d.jhold)) ∧
    (v ∈ s.dev.jhold → max t0 t1 < 98 → Yields (.junctionThrottle v t0 t1) s (fun d => v ∉ d.jhold)) ∧
    (v ∈ s.dev.jhold → 98 ≤ max t0 t1 → Yields (.junctionThrottle v t0 t1) s (fun d => v ∈ d.jhold ∧
      d.fld (.cvTherm v) F.cvTherm_STEP = cur) ∧ Yields (.stackThrottleEval v) s (fun d => d = s.dev))) ∧
  (∀ (s : State) (req : Req) (v p c : Nat) (unc cor : BitVec 32),
    (s.dev.allows req (.cvHintQuota v) 16 → Yields (.unkeep req v) s (fun d =>
      (∀ y ∈ d.cache, s.dev.lineCove y.addr = v → y.keep = false) ∧ d.cache.map Line.addr = s.dev.cache.map Line.addr ∧
      (∀ y ∈ s.dev.cache, s.dev.lineCove y.addr ≠ v → y ∈ d.cache) ∧ d.mem = s.dev.mem)) ∧
    (s.dev.allows req (.coreXlatInv c) 1 → Yields (.xlatInv req (.core c)) s (fun d =>
      d.fld (.coreXlatInv c) F.coreXlatInv_BUSY = s.dev.fld (.coreXlatInv c) F.coreXlatInv_BUSY)) ∧
    (s.dev.allows req (.ccXlatInv c) 1 → Yields (.xlatInv req (.cc c)) s (fun d =>
      d.fld (.ccXlatInv c) F.ccXlatInv_BUSY = s.dev.fld (.ccXlatInv c) F.ccXlatInv_BUSY)) ∧
    (s.dev.flag (.ftPort p) F.ftPort_UP = true → Yields (.farPortDown p) s (fun d =>
      d.fld (.ftPort p) F.ftPort_UP = 0 ∧ d.fld (.ftPort p) F.ftPort_DOWN_EV = 1 ∧ d.far = s.dev.far ∧
      (s.dev.custQ.length < 64 → ∃ e ∈ d.custQ, e.code = 0x70 ∧ e.source = source 7 p))) ∧
    (s.dev.custQ.length < 64 → Yields (.farTierAerEvent p unc cor) s (fun d => ∃ e, d.custQ = s.dev.custQ ++ [e] ∧ e.code = 0x71 ∧
      e.source = source 7 p ∧ e.data = BitVec.ofNat 64 (unc.toNat + cor.toNat * 2 ^ 32))))

/-- R294 to R297: the four mover commands: what a refused one leaves; they complete OK when every element moves, and between places of
the core store each byte of each element's destination holds what stood at its source, unless a later element writes it, and every other
byte is as it was. And R296, R298: a mover command whose element `i` cannot be mapped stops there: ADDR_FAULT, the cause in DETAIL, the
address and serial in the mover's registers. Where the spec leaves a corner open, the clauses follow the model's choices of log entry
32. -/
def Obligations.MoverCommandsAndFaults : Prop :=
  (∀ (s : State) (q rtn : Nat) (ws : List Word) (cmd : Instr) (ms : List DmMove),
    (rtn, cmd) ∈ [(0x100, .dmCopy q {}), (0x101, .dmStride q {}), (0x102, .dmGather q {}), (0x103, .dmScatter q {})] →
    let c := s.dev.qTarget q
    let w := s.dev.paramBlock (s.dev.qHome q) (dPblk ws)
    let g := dmParam w
    let site : DmSite := ⟨c, s.dev.rootOf (s.dev.qHome q)⟩
    let plan := s.dev.dmPlan site (s.dev.newRun q ws)
    let es := s.dev.dmElems site rtn w
    s.dev.memWf → s.dev.fresh q → s.dev.noInj c → s.dev.startable q rtn = some ws →
    (plan.1 ≠ 0 → Yields cmd s (fun d => s.dev.started q ws plan.1 d ∧ d.cores = s.dev.cores ∧ d.mem = s.dev.mem)) ∧
    (plan.1 = 0 → (∀ k, s.dev.slotDead k = false) → dmGather plan.2 = (ms, [], none) → (∀ m ∈ ms, m.bad = []) →
      Yields cmd s (s.dev.started q ws 0)) ∧
    (plan.1 = 0 → s.dev.badWords = [] → g.scs = true → g.dcs = true → (rtn = 0x102 ∨ rtn = 0x103 → g.lcs = true) →
      Yields cmd s (fun d => s.dev.started q ws 0 d ∧ d.mem = s.dev.mem ∧
        (∀ p src dst n t, es = p ++ (src, dst, n) :: t → ∀ i, i < n →
          (∀ y ∈ t, dst + i < y.2.1 ∨ y.2.1 + y.2.2 ≤ dst + i) →
          Mem.get (d.core c).store (dst + i) = Mem.get (s.dev.core c).store (src + i)) ∧
        ∀ a, (∀ e ∈ es, a < e.2.1 ∨ e.2.1 + e.2.2 ≤ a) → Mem.get (d.core c).store a = Mem.get (s.dev.core c).store a))) ∧
  (∀ (s : State) (q rtn i cause va : Nat) (ws : List Word) (cmd : Instr) (ms : List DmMove),
    (rtn, cmd) ∈ [(0x100, .dmCopy q {}), (0x101, .dmStride q {}), (0x102, .dmGather q {}), (0x103, .dmScatter q {})] →
    let c := s.dev.qTarget q
    let m := s.dev.qKind q - 3
    let plan := s.dev.dmPlan ⟨c, s.dev.rootOf (s.dev.qHome q)⟩ (s.dev.newRun q ws)
    s.dev.fresh q → s.dev.startable q rtn = some ws → plan.1 = 0 → s.dev.noInj c →
    dmGather plan.2 = (ms, [], some (i, .fault cause va)) →
    Yields cmd s (fun d => d.rd (.coreDmFaddr c m) = BitVec.ofNat 64 va ∧
      d.rd (.coreDmFser c m) = BitVec.ofNat 64 ((s.dev.fld (.cqSerial q) ⟨47, 0⟩ + 1) % 2 ^ 48 + cause * 2 ^ 48) ∧
      s.dev.started q ws stAddrFault d))

/-! ### Beside-memory engines (11) -/

/-- R312 to R318, R326, R329, R330: the update commands: what a refused one leaves, what a valid one writes to the master tensor and to
DONE, and a second failed check. Where the spec leaves a corner open, the clauses follow the model's choices of log entries 17 and 30.
-/
def Obligations.BmeUpdates : Prop :=
  ∀ (s : State) (q rtn f : Nat) (ws : List Word) (cmd : Instr) (r : Run),
    (rtn, cmd) ∈ [(0x500, .bmeSgd q {}), (0x501, .bmeAdamw q {}), (0x502, .bmeRowada q {})] →
    let cv := s.dev.qTarget q
    let a := s.dev.paramBlock (s.dev.qHome q) (dPblk ws)
    let b := s.dev.paramBlock (s.dev.qHome q) (dPblk ws + 1)
    let p := bmePar a b
    let at' := fun (base sbase fmt : Nat) (sc : Bool) (k i : Nat) => ((s.dev.bmeBlock base sbase fmt sc k).getD i ⟨0, 0⟩).code
    let w := at' p.w 0 1 false
    let m := at' p.m p.ms p.mfmt true
    let v := at' p.v p.vs p.mfmt true
    let g := at' p.g p.gs p.gfmt p.gscaled
    (s.dev.startable q rtn = some ws →
      ((s.dev.bmeCheck rtn (dPblk ws) a b p).1 ≠ 0 → Yields cmd s (fun d =>
        s.dev.started q ws (s.dev.bmeCheck rtn (dPblk ws) a b p).1 d ∧ d.mem = s.dev.mem)) ∧
      ((s.dev.bmeCheck rtn (dPblk ws) a b p).1 = 0 → s.dev.badWords = [] → s.dev.memWf → s.dev.noCopy → Yields cmd s (fun d =>
        s.dev.started q ws 0 d ∧
        d.fld (.cvBmeStatus cv) F.cvBmeStatus_DONE = (s.dev.bmeUnits rtn cv p).length % 2 ^ 32 ∧
        (rtn = 0x500 → ∀ k ∈ s.dev.bmeBlocks cv p, ∀ i, i < 32 → Mem.read d.mem (p.w + 128 * k + 4 * i) 4 =
          bytesOf 4 (sgdElem p (w k i) (if p.nomom then 0 else m k i) (g k i)).1) ∧
        (rtn = 0x501 → ∀ k ∈ s.dev.bmeBlocks cv p, ∀ i, i < 32 → Mem.read d.mem (p.w + 128 * k + 4 * i) 4 =
          bytesOf 4 (adamElem p (biasCorr p.beta1 p.step).code (biasCorr p.beta2 p.step).code (w k i) (m k i) (v k i) (g k i)).1)))) ∧
    (s.dev.qKind q = 5 → s.dev.retryRun q = some r → s.dev.frozenRun q r = false → f < max 1 r.todo.length →
      Yields (.checkReexecution q (some f)) s (fun d => ∀ x ∈ (d.queue q).runs, x.serial = r.serial →
        x.retrying = false ∧ x.status = 0x604))

/-! ### The rack memory plane, the torus and messages (12) -/

/-- R336, R337, R339, R341, R342, R350: what an incoming load, masked store or atomic does where no waiting atomic is on its words:
accepted, rejected, or applied before. Where the spec leaves a corner open, the clauses follow the model's choices of log entry 37. -/
def Obligations.IncomingAccesses : Prop :=
  ∀ (s : State) (m : MpPacket) (a n op : Nat) (bs : List (Option Byte)) (x y : Word),
    let ok := fun k need => s.dev.exportOk m.region m.key m.off k need
    let fresh := s.dev.seqDone m.src m.seq = false ∧ ∀ z ∈ s.dev.fabric.atoms, ¬ (z.src = m.src ∧ z.seq = some m.seq)
    let rej := fun (d : Dev) => d.fld (.fbMpStatus (dieOf m.src m.off)) F.fbMpStatus_REJ_EV = 1 ∧ d.mem = s.dev.mem
    s.dev.memWf → s.dev.noCopy → m.folio = false →
    (m.kind = .read n → ok n 0 = true → windowAddr m.off = some a → atomsTo a n s.dev.fabric.atoms = 0 → Yields (.memoryPlaneAccessReceive m) s (fun d =>
      d.out = s.dev.out ++ [.response m.src m.seq (s.dev.physRead a n)] ∧ d.mem = s.dev.mem)) ∧
    (m.kind = .read n → ok n 0 = false → Yields (.memoryPlaneAccessReceive m) s (fun d =>
      rej d ∧ d.out = s.dev.out ++ [.response m.src m.seq (zeros n)])) ∧
    (m.kind = .write bs → fresh → ok bs.length 1 = true → windowAddr m.off = some a → a + bs.length ≤ stackSize →
        atomsTo a bs.length s.dev.fabric.atoms = 0 →
      Yields (.memoryPlaneAccessReceive m) s (fun d => d.seqDone m.src m.seq = true ∧
        (∀ i v, bs[i]? = some (some v) → Mem.get d.mem (a + i) = v) ∧
        ∀ z, (∀ i v, bs[i]? = some (some v) → z ≠ a + i) → Mem.get d.mem z = Mem.get s.dev.mem z)) ∧
    (m.kind = .write bs → fresh → ok bs.length 1 = false →
      Yields (.memoryPlaneAccessReceive m) s (fun d => rej d ∧ d.seqDone m.src m.seq = true)) ∧
    (m.kind = .write bs → s.dev.seqDone m.src m.seq = true → Yields (.memoryPlaneAccessReceive m) s (fun d => d = s.dev)) ∧
    (m.kind = .atomic op x y → fresh → ok 8 2 = true → m.off % 8 = 0 → atomicOk op = true → windowAddr m.off = some a →
      Yields (.memoryPlaneAccessReceive m) s (fun d => d.mem = s.dev.mem ∧
        d.fabric.atoms = s.dev.fabric.atoms ++ [⟨m.src, a, op, x, y, atomicFetches op, some m.seq⟩]))

/-- R344, R345, R347, R350 to R352, R354: a waiting atomic is performed; acknowledgements and answers free trackers; a dead slot's
stores are dropped. Where the spec leaves a corner open, the clauses follow the model's choices of log entry 37. -/
def Obligations.AtomicsAndTrackers : Prop :=
  ∀ (s : State) (x : AtomReq) (t : List AtomReq) (slot n id k rd len : Nat) (data : List Byte) (req : Req) (v : Word) (tr t2 : Tracker),
    let old := s.dev.physNum x.addr 8
    (s.dev.fabric.atoms = x :: t → s.dev.memWf → s.dev.noCopy → x.addr + 8 ≤ stackSize →
      Yields .remoteAtomic s (fun d => d.fabric.atoms = t ∧
        s.dev.memPut x.addr (bytesOf 8 (atomicNew x.op old x.opa.toNat x.opb.toNat)) d ∧
        (x.reply = true → d.out = s.dev.out ++ [.response x.src (x.seq.getD 0) (bytesOf 8 old)]))) ∧
    Yields (.acknowledgementSend slot) s (fun d => d.out = s.dev.out ++ [.ack slot (tget 0 slot s.dev.fabric.ackRx)] ∧ d.regs = s.dev.regs) ∧
    ((∀ z ∈ s.dev.fabric.trackers, z.stalled = false) → Yields (.acknowledgementReceive slot n) s (fun d =>
      (∀ z ∈ d.fabric.trackers, z.dst = slot → ∀ m, z.seq = some m → 2 ^ 31 ≤ diff32 n m) ∧
      (∀ z ∈ s.dev.fabric.trackers, z.dst ≠ slot → z ∈ d.fabric.trackers))) ∧
    (s.dev.fabric.trackers = [tr, t2] → tr.dst = slot → tr.stalled = false → tr.fetch = false →
      (∃ m, tr.seq = some m ∧ diff32 n m < 2 ^ 31) → t2.stalled = true → t2.path < 8 →
      Yields (.acknowledgementReceive slot n) s (fun d => d.fabric.trackers = [{ t2 with stalled := false }] ∧
        d.out = s.dev.out ++ [.packet t2.dst t2.pkt])) ∧
    ((∀ z ∈ s.dev.fabric.trackers, ¬ (z.id = id ∧ z.fetch = true ∧ z.stalled = false)) → Yields (.remoteReadResponse id data) s (fun d => d = s.dev)) ∧
    (s.dev.fabric.trackers = [tr] → tr.id = id → tr.fetch = true → tr.stalled = false → tr.seq = none → tr.queue = none → tr.cc = some k →
      (s.dev.cc k).wait = .load rd false [⟨some id, 0, len, []⟩] → data.length = len → rd % 32 ≠ 0 →
      Yields (.remoteReadResponse id data) s (fun d => d.fabric.trackers = [] ∧
        d.gReg k rd = BitVec.ofNat 64 (ofBytes data) ∧ (d.cc k).pc = (s.dev.cc k).pc + 4 ∧ (d.cc k).wait = .run)) ∧
    (s.dev.allows req .fbPeerDead v → Yields (.fbPeerDeadWrite req v) s (fun d =>
      d.rd .fbPeerDead = s.dev.rd .fbPeerDead ||| v ∧
      ∀ z ∈ d.fabric.trackers, bit v.toNat z.dst = true → z.seq.isSome = true → z.fetch = true))

/-- R348, R349, R358, R359: ports and paths that go down, retransmission, and the next hop of a torus packet. Where the spec leaves a
corner open, the clauses follow the model's choices of log entries 38 and 45. -/
def Obligations.PortsAndTorus : Prop :=
  ∀ (s : State) (path die port dir f : Nat) (m : TorusPacket),
    let r := Reg.fbPort die port
    let p := Reg.fbPort (path % 8 / 4) (6 + path % 8 % 4)
    (s.dev.flag p F.fbPort_UP = true → Yields (.rackPathDown path) s (fun d =>
      d.fld p F.fbPort_UP = 0 ∧ d.fld p F.fbPort_DOWN_EV = 1 ∧ d.mgmt.due = true ∧
      d.fabric.trackers.length = s.dev.fabric.trackers.length)) ∧
    (die < 2 → port < 6 → s.dev.flag r F.fbPort_UP = true → Yields (.torusPortDown die port) s (fun d =>
      d.fld r F.fbPort_UP = 0 ∧ d.fld r F.fbPort_DOWN_EV = 1 ∧
      d.out = s.dev.out ++ (if s.dev.flag (.fbPort (1 - die) port) F.fbPort_UP then [.retransmit (1 - die) port] else []))) ∧
    (die < 2 → port < 10 → s.dev.flag r F.fbPort_UP = true → Yields (.linkLevelRetransmission die port) s (fun d =>
      d.fld r F.fbPort_RETRY = satAdd 16 (s.dev.fld r F.fbPort_RETRY) 1 ∧ d.out = s.dev.out ++ [.retransmit die port])) ∧
    (s.dev.packetDir m = some dir → s.dev.torusPort m dir = some f →
      Yields (.torusPacketHop m) s (fun d => d.out = s.dev.out ++ [.torus f dir m] ∧ d.fabric = s.dev.fabric)) ∧
    (s.dev.packetDir m = some dir → s.dev.torusPort m dir = none →
      Yields (.torusPacketHop m) s (fun d => d.out = s.dev.out ∧ d.fabric.waiting = s.dev.fabric.waiting ++ [m])) ∧
    (s.dev.packetDir m = none → Yields (.torusPacketHop m) s (fun d => d = s.dev))

/-- R361 to R367: the fabric commands, and the life of a message from its header to its receive report. Where the spec leaves a corner
open, the clauses follow the model's choices of log entries 37 and 38. -/
def Obligations.FabricCommandsAndMessages : Prop :=
  ∀ (s : State) (q id pa ra die src len : Nat) (ws : List Word) (acc : Bool) (tag : BitVec 32) (data : List Byte) (r : Recv)
    (t : List Recv) (x : SendRun) (m : Match) (u : Run) (ps : List (Nat × Nat)),
    let w := s.dev.paramBlock (s.dev.qHome q) (dPblk ws)
    let rx := { s.dev.recvOf q w with serial := (s.dev.fld (.cqSerial q) ⟨47, 0⟩ + 1) % 2 ^ 48 }
    let old := s.dev.physNum pa 8
    let op := bits (wd w 4) 3 0
    let hd : Hdr := ⟨die, src, tag, len, id⟩
    let root := s.dev.rootOf (s.dev.qHome q)
    let hp : TorusPacket := ⟨s.dev.torusId, bits (wd w 1) 45 32, 3, none, s.dev.fabric.nextId⟩
    let leaves := fun (m : TorusPacket) => match s.dev.torusOut m with
      | some p => [Out.torus p.1 p.2 m]
      | none => []
    (s.dev.startable q 0x603 = some ws → Yields (.fbNop q) s (s.dev.started q ws 0)) ∧
    (s.dev.startable q 0x600 = some ws → s.dev.amoCheck root w = .ok (pa, ra) → pa + 8 ≤ stackSize → ra + 8 ≤ stackSize →
      (pa + 8 ≤ ra ∨ ra + 8 ≤ pa) → s.dev.memWf → s.dev.noCopy → s.dev.badWords = [] → s.dev.fabric.atoms = [] →
      Yields (.fbAmo q) s (fun d => s.dev.started q ws 0 d ∧
        Mem.read d.mem pa 8 = bytesOf 8 (atomicNew op old (wd w 1) (wd w 2)) ∧
        (atomicFetches op = true → Mem.read d.mem ra 8 = bytesOf 8 old))) ∧
    (s.dev.startable q 0x601 = some ws → fbRsv w [2 ^ 64 - 1, 0x3FFFFFFFFFFF, 0xFFFFFFFFFFFF] = false →
      (s.dev.torusIn (bits (wd w 1) 45 32) = false → Yields (.fbSend q acc) s (s.dev.started q ws 0x701)) ∧
      (s.dev.torusIn (bits (wd w 1) 45 32) = true → s.dev.fresh q → s.dev.badWords = [] →
        s.dev.vaFault root (wd w 0) (bits (wd w 1) 31 0) false = none →
        (s.dev.torusShut hp = true → Yields (.fbSend q acc) s (fun d => s.dev.started q ws 0 d ∧ d.out = s.dev.out ∧
          hp ∈ d.fabric.waiting)) ∧
        (s.dev.torusShut hp = false → Yields (.fbSend q acc) s (fun d => s.dev.started q ws 0 d ∧ (∃ y ∈ (d.queue q).runs, y.unit = s.dev.fabric.nextId ∧ y.done = acc) ∧
          d.out = s.dev.out ++ [.header (bits (wd w 1) 45 32) (s.dev.qTarget q) (BitVec.ofNat 32 (wd w 2)) (bits (wd w 1) 31 0)
            s.dev.fabric.nextId] ++ leaves hp)))) ∧
    (s.dev.startable q 0x602 = some ws → fbRsv w [2 ^ 64 - 1, 0x13FFFFFFFFFFF, 2 ^ 64 - 1, 2 ^ 64 - 1, 0xFFFF] = false →
      wd w 3 % 16 = 0 → (rx.anysrc = true ∨ s.dev.torusIn rx.src = true) → s.dev.vaFault root rx.addr rx.len true = none → s.dev.badWords = [] →
      s.dev.vaFault root (wd w 3) 16 true = none → s.dev.fabric.recvs.length < 4096 →
      (∀ h ∈ s.dev.fabric.unexp, rx.takes h = false) →
      Yields (.fbRecv q) s (fun d => s.dev.started q ws 0 d ∧ d.fabric.recvs = s.dev.fabric.recvs ++ [rx])) ∧
    (s.dev.fabric.recvs = r :: t → r.takes hd = true → Yields (.messageHeaderArrival die src tag len id) s (fun d =>
      d.fabric.recvs = t ∧ d.fabric.matched = s.dev.fabric.matched ++ [⟨r, hd⟩] ∧ .accepted src id ∈ d.out)) ∧
    ((∀ y ∈ s.dev.fabric.recvs, y.takes hd = false) → Yields (.messageHeaderArrival die src tag len id) s (fun d =>
      if (s.dev.fabric.unexp.filter (fun y => y.die == die)).length < 4096
      then d.fabric.unexp = s.dev.fabric.unexp ++ [hd] ∧ d.out = s.dev.out ++ [.accepted src id]
      else d.fabric.unexp = s.dev.fabric.unexp ∧ d.out = s.dev.out ++ [.nak src id])) ∧
    (s.dev.fabric.sends = [x] → Yields (.sendPayloadDone x.id) s (fun d => d.fabric.sends = [] ∧
      d.sig x.ssig = (s.dev.sig x.ssig + x.sinc) % 2 ^ 32 ∧
      (s.dev.vaPieces x.root x.addr false (x.len / 4096 + 2) x.len = .ok ps → (∀ p ∈ ps, p.1 + p.2 ≤ stackSize) →
        d.out = s.dev.out ++ [.payload x.dst x.id (ps.flatMap (fun p => s.dev.physRead p.1 p.2))]))) ∧
    (s.dev.fabric.matched = [m] → m.hdr.die = die → Yields (.messageReceiveDone die data) s (fun d => d.fabric.matched = [] ∧
      d.sig m.recv.rsig = (s.dev.sig m.recv.rsig + m.recv.rinc) % 2 ^ 32)) ∧
    ((s.dev.queue q).runs = [u] → dRtn u.desc = 0x601 → u.done = false → s.dev.torusShut (s.dev.headerPacket u) = false → Yields (.headerResend q acc) s (fun d =>
      (∃ y, (d.queue q).runs = [y] ∧ y.done = acc) ∧
      d.out = s.dev.out ++ [.header (bits (wd u.params 1) 45 32) (s.dev.qTarget q) (BitVec.ofNat 32 (wd u.params 2))
        (bits (wd u.params 1) 31 0) u.unit] ++ leaves (s.dev.headerPacket u)))

/-! ### Collectives (13) -/

/-- R370, R373, R375, R390: the start of a collective: refused, failed at once in a BROKEN group, or running with the group's sequence
number. And R389 to R391: an abort token or FB_GSTAT_n.ABORT ends the group's collectives FAILED and breaks the group; RESET mends it
unless one runs. Where the spec leaves a corner open, the clauses follow the model's choices of log entries 37 and 38. -/
def Obligations.CollectiveStartsAndFailures : Prop :=
  (∀ (s : State) (q rtn : Nat) (ws : List Word) (cmd : Instr),
    (rtn, cmd) ∈ [(0x610, .fbAllreduce q), (0x611, .fbRscat q), (0x612, .fbAgather q), (0x613, .fbBcast q), (0x614, .fbBarrier q)] →
    let w := s.dev.paramBlock (s.dev.qHome q) (dPblk ws)
    let g := bits (wd w 3) 5 0
    let root := bits (wd w 3) 29 16
    let n := s.dev.fld (.fbGstat g) F.fbGstat_SEQ
    s.dev.startable q rtn = some ws →
    (collBad rtn w = true → Yields cmd s (fun d => s.dev.started q ws 0x710 d ∧ d.fabric = s.dev.fabric)) ∧
    (collBad rtn w = false → s.dev.collGroupBad rtn g root = true →
      Yields cmd s (fun d => s.dev.started q ws 0x711 d ∧ d.fabric = s.dev.fabric)) ∧
    (collBad rtn w = false → s.dev.collGroupBad rtn g root = false → s.dev.fld (.fbGstat g) F.fbGstat_STATE = 2 →
      Yields cmd s (fun d => s.dev.started q ws stFailed d ∧ d.fabric = s.dev.fabric ∧
        d.fld (.fbGstat g) F.fbGstat_SEQ = (n + 1) % 2 ^ 32)) ∧
    (collBad rtn w = false → s.dev.collGroupBad rtn g root = false → s.dev.fld (.fbGstat g) F.fbGstat_STATE ≠ 2 →
      s.dev.fabric.arrivals = [] →
      Yields cmd s (fun d => s.dev.started q ws 0 d ∧ d.fld (.fbGstat g) F.fbGstat_SEQ = (n + 1) % 2 ^ 32 ∧
        d.fld (.fbGstat g) F.fbGstat_STATE = 1 ∧
        ∃ cs c, d.fabric.colls = cs ++ [c] ∧
          cs.map (fun c => { c with waited := 0 }) = s.dev.fabric.colls.map (fun c => { c with waited := 0 }) ∧ c.queue = q ∧ c.group = g ∧ c.seq = n ∧ c.routine = rtn ∧ c.next = 0 ∧
          c.chains = [] ∧ c.src = wd w 0 ∧ c.dst = wd w 1 ∧ c.serial = (s.dev.fld (.cqSerial q) ⟨47, 0⟩ + 1) % 2 ^ 48))) ∧
  (∀ (s : State) (g : Nat) (req : Req),
    let broken := fun (d : Dev) => (∀ c ∈ d.fabric.colls, c.group ≠ g) ∧
      (∀ c ∈ s.dev.fabric.colls, c.group ≠ g → c ∈ d.fabric.colls) ∧ d.fld (.fbGstat g) F.fbGstat_STATE = 2 ∧
      ∀ c ∈ s.dev.fabric.colls, c.group = g → ∀ r ∈ (d.queue c.queue).runs, r.serial = c.serial →
        r.status = stFailed ∧ r.done = true
    (g < 64 → Yields (.abortToken g) s broken) ∧
    (s.dev.allows req (.fbGstat g) (BitVec.ofNat 64 (2 ^ 40)) → Yields (.fbGstatAbort req g) s (fun d => broken d ∧
      (s.dev.fld (.fbGstat g) F.fbGstat_STATE ≠ 2 → d.fld (.fbGstat g) F.fbGstat_CAUSE = 3))) ∧
    (s.dev.allows req (.fbGstat g) (BitVec.ofNat 64 (2 ^ 41)) → (∀ c ∈ s.dev.fabric.colls, c.group ≠ g) →
      Yields (.fbGstatReset req g) s (fun d => d.fld (.fbGstat g) F.fbGstat_STATE = 0 ∧ d.fld (.fbGstat g) F.fbGstat_SEQ = 0)) ∧
    (s.dev.allows req (.fbGstat g) (BitVec.ofNat 64 (2 ^ 41)) → (∃ c ∈ s.dev.fabric.colls, c.group = g) →
      Yields (.fbGstatReset req g) s (fun d => d = s.dev)))

/-- R383 to R386, R380, R381: the admission of a barrier's segment, a segment that waits, an arriving partial, and a triggered operation
that combines and sends, or breaks its group where its combine fails its check twice. Where the spec leaves a corner open, the clauses
follow the model's choices of log entries 38 and 16. -/
def Obligations.CollectiveChains : Prop :=
  ∀ (s : State) (c : Coll) (x : Chain) (m : CollPacket) (ph : RPhase) (own : List Byte),
    let d0 := s.dev
    let i := d0.phaseIx c m
    let q := ringStep (d0.grpExt c.group ph.axis) x.stream (d0.myPos c.group ph.axis) (x.step + 1) true
    let res := combineAll c.rtype (tget [] (x.phase, q) x.staged) own
    let y := { x with step := x.step + 1, staged := tdel (x.phase, q) x.staged }
    d0.fabric.colls = [c] → d0.fabric.arrivals = [] →
    (c.routine = 0x614 → c.bytes = 0 → c.next = 0 → c.chains = [] → d0.grpAxes c.group ≠ [] → d0.roomFor c = true →
      Yields .segmentAdmission s (fun d => d.mem = d0.mem ∧ d.fabric.colls =
        [{ c with next := 1, chains := (List.range 4).map (fun k => ⟨0, k, 0, 1, [], [], []⟩) }])) ∧
    (c.next < c.segs → d0.roomFor c = false → Yields .segmentAdmission s (fun d =>
      d.fabric.colls = [{ c with waited := max c.waited c.segs }] ∧ d.fld (.fbCollStatus 0) F.fbCollStatus_ADMIT_WAIT =
        satAdd 16 (d0.fld (.fbCollStatus 0) F.fbCollStatus_ADMIT_WAIT) (c.segs - max c.next c.waited))) ∧
    (c.chains = [x] → x.phase < (d0.phasesOf c).length → m.group = c.group → m.seq = c.seq → m.seg = x.seg → m.stream = x.stream →
      d0.fld (.fbGstat c.group) F.fbGstat_STATE ≠ 2 → c.agrees m = true → m.phase = 0 →
      Yields (.collectivePacketArrival m) s (fun d => d.mem = d0.mem ∧ d.fabric.colls = [{ c with chains := [{ x with
        staged := tset (i, m.chunk) (tget [] (i, m.chunk) x.staged ++ m.data) x.staged
        arr := if m.last then tset i (tget 0 i x.arr + 1) x.arr else x.arr }] }])) ∧
    (m.group = c.group → m.seq = c.seq → d0.fld (.fbGstat c.group) F.fbGstat_STATE ≠ 2 → c.agrees m = false →
      Yields (.collectivePacketArrival m) s (fun d => d.fabric.colls = [] ∧ d.fld (.fbGstat c.group) F.fbGstat_STATE = 2 ∧
        d.fld (.fbGstat c.group) F.fbGstat_CAUSE = 1 ∧ .abort c.group ∈ d.out ∧
        ∀ r ∈ (d.queue c.queue).runs, r.serial = c.serial → r.status = 0x712 ∧ r.done = true)) ∧
    (c.chains = [x] → (d0.phasesOf c)[x.phase]? = some ph → ph.gather = false → 0 < x.step →
      x.step + 1 < d0.grpExt c.group ph.axis → x.step ≤ tget 0 x.phase x.arr → d0.ownInput c x ph.axis q = (d0, .ok (own, [])) →
      Yields (.triggeredOperation c.group x.seg ⟨x.stream, 0⟩) s (fun d =>
        d.fabric.colls = [{ c with chains := [y], flags := c.flags ||| res.2 }] ∧
        d.out = (d0.collSend c y ph q (d0.chunkBytes c x.seg x.stream ph.axis q).1 res.1).out ∧ d.mem = d0.mem) ∧
      (c.routine ≤ 0x611 → d0.flag .glChkCtl F.glChkCtl_MASK = false → d0.fld (.fbGstat c.group) F.fbGstat_STATE ≠ 2 →
        Yields (.triggeredOperation c.group x.seg ⟨x.stream, 2⟩) s (fun d =>
          d.fabric.colls = [] ∧ d.fld (.fbGstat c.group) F.fbGstat_STATE = 2 ∧ d.fld (.fbGstat c.group) F.fbGstat_CAUSE = 2)))

/-! ### Plant ports (14) -/

/-- R397, R398, R400, R404, R406, R408, R409: what a slot's commit point chooses and why, a keep-alive frame, and the link. Where the
spec leaves a corner open, the clauses follow the model's choices of log entries 9, 10 and 20. -/
def Obligations.PlantSlots : Prop :=
  ∀ (s : State) (dt p n : Nat) (held : Bool),
    let e := s.dev.elapse dt
    let thr := e.live (.ppSlotThr p n)
    let met := geTest (e.sig (e.lfld (.ppSlotTime p n) F.ppSlotTime_CTR)) thr.toNat
    let x := e.plant p
    let fb := if thas n x.loaded then tget [] n x.loaded else e.fallbackOf p n
    let force := e.flag (.ppCtl p) F.ppCtl_FORCE_FB
    let a := e.primaryAt p n
    let frame := bufFrame (e.fallbackOf p n)
    let commits := fun (c : Chosen) (d : Dev) => tget ⟨9, false, []⟩ n (d.plant p).chosen = c ∧ n ∈ (d.plant p).committed ∧ d.mem = e.mem ∧
      d.live (.ppSlotThr p n) = BitVec.ofNat 64 ((thr.toNat + e.lfld (.ppSlotBuf p n) F.ppSlotBuf_INC) % 2 ^ 32)
    (e.commitDue p n = true →
      (force = true → Yields (.slotCommit dt p n held) s (commits ⟨0, false, fb⟩)) ∧
      (force = false → met = false → Yields (.slotCommit dt p n held) s (commits ⟨1, false, fb⟩)) ∧
      (force = false → met = true → e.badBuf a ≠ [] → Yields (.slotCommit dt p n held) s (commits ⟨4, false, fb⟩)) ∧
      (force = false → met = true → e.badBuf a = [] → lenOk (ofBytes (e.physRead a 2)) = false →
        Yields (.slotCommit dt p n held) s (commits ⟨3, false, fb⟩)) ∧
      (force = false → met = true → e.badBuf a = [] → lenOk (ofBytes (e.physRead a 2)) = true → 
        Yields (.slotCommit dt p n held) s (commits (if held then ⟨0, true, e.physRead a 2048⟩ else ⟨2, false, fb⟩)))) ∧
    (p < 2 → n < 64 → e.kaDue p n = true → (∀ o ∈ e.outPorts p, e.flag (.ppStatus o) F.ppStatus_LINK = true) →
      Yields (.keepAliveSend dt p n) s (fun d => d.out = e.out ++ (e.outPorts p).map (fun o => .frame o (wireFrame frame)) ∧
        d.fld (.ppStatus p) F.ppStatus_MISSES = e.fld (.ppStatus p) F.ppStatus_MISSES ∧
        tget 0 n (d.plant p).kaAt = e.kaNext p n ∧ tget 0 n (d.plant p).lastTx = e.kaNext p n)) ∧
    (p < 2 → n < 64 → e.kaDue p n = true → (∀ o ∈ e.outPorts p, e.flag (.ppStatus o) F.ppStatus_LINK = false) →
      Yields (.keepAliveSend dt p n) s (fun d => d.out = e.out ∧ ∀ o ∈ e.outPorts p,
        d.fld (.ppStatus o) F.ppStatus_TX_DOWN = satAdd 16 (e.fld (.ppStatus o) F.ppStatus_TX_DOWN) 1)) ∧
    (p < 2 → s.dev.flag (.ppStatus p) F.ppStatus_LINK = true → Yields (.plantLinkDown p) s (fun d =>
      d.fld (.ppStatus p) F.ppStatus_LINK = 0 ∧ d.mgmt.due = true ∧ d.mem = s.dev.mem)) ∧
    (p < 2 → s.dev.pwrGood = true → Yields (.plantLinkUp p) s (fun d => d.fld (.ppStatus p) F.ppStatus_LINK = 1 ∧ d.plants = s.dev.plants))

/-- R411 to R413: a received frame is dropped or goes to the ring of its filter; `pp.fbload` reads a frame, and `pp.send` sends one. A
clause with `fabric` speaks of a buffer of which no part stands in a rack window. Where the spec leaves a corner open, the clauses
follow the model's choices of log entry 39. -/
def Obligations.PlantFramesAndCommands : Prop :=
  ∀ (s : State) (dt p n q : Nat) (f : List Byte) (fcsOk : Bool) (ws : List Word) (buf : List Byte) (err : Nat × Nat),
    let e := s.dev.elapse dt
    let ring := e.lfld (.ppRxf p n) F.ppRxf_RING
    let r := Reg.ppRxRing p ring
    let w := tget 0 ring (e.plant p).rxW
    let a := e.fld r F.ppRxRing_BASE * 2048 + 2048 * (w % 2 ^ e.fld r F.ppRxRing_LOG2SIZE)
    let open' := p < 2 ∧ e.flag (.ppStatus p) F.ppStatus_LINK = true ∧ e.replayed 2 = false ∧ e.recording 2 = false
    let drop := fun (d : Dev) => d.mem = e.mem ∧ d.plants = e.plants ∧
      d.fld (.ppStatus p) F.ppStatus_RX_DROP = satAdd 16 (e.fld (.ppStatus p) F.ppStatus_RX_DROP) 1
    let lw := s.dev.paramBlock (s.dev.qHome q) (dPblk ws)
    let slot := bits (wd lw 1) 5 0
    let lbad := fbRsv lw [2 ^ 64 - 1, 63] = true ∨ wd lw 0 % 64 ≠ 0 ∨
      s.dev.lfld (.ppSlotTime (s.dev.qTarget q) slot) F.ppSlotTime_EN = 0
    let sw := e.paramBlock (e.qHome q) (dPblk ws)
    let sbad := fbRsv sw [2 ^ 64 - 1, 2 ^ 64 - 1, 0x7FF0003] = true ∨ wd sw 0 % 64 ≠ 0 ∨ wd sw 1 % 16 ≠ 0
    let fb := s.dev.ppBuffer (s.dev.rootOf (s.dev.qHome q)) (wd lw 0)
    let sb := e.ppBuffer (e.rootOf (e.qHome q)) (wd sw 0)
    let go := sb.1.fabric = e.fabric ∧ e.startable q 0x701 = some ws ∧ e.fresh q ∧ ¬ sbad ∧ e.txHeld (e.qTarget q) = false
    let up := e.flag (.ppStatus (e.qTarget q)) F.ppStatus_LINK
    (open' → e.rxOk p f fcsOk = false → Yields (.frameReceive dt p f fcsOk) s drop) ∧
    (open' → e.rxOk p f fcsOk = true → (∀ m, m < 16 → e.rxMatch p m f = false) → Yields (.frameReceive dt p f fcsOk) s drop) ∧
    (open' → e.rxOk p f fcsOk = true → n < 16 → e.rxMatch p n f = true → (∀ m, m < n → e.rxMatch p m f = false) →
      e.memWf → e.noCopy → a + 64 + f.length ≤ stackSize → Yields (.frameReceive dt p f fcsOk) s (fun d =>
        e.memPut a (rxEntry e.tide.count e.ns e.nsFrac (w % 2 ^ 32) n p f) d ∧ tget 0 ring (d.plant p).rxW = w + 1 ∧
        d.sig (e.fld r F.ppRxRing_SIG) = (e.sig (e.fld r F.ppRxRing_SIG) + 1) % 2 ^ 32)) ∧
    (s.dev.startable q 0x700 = some ws → Yields (.ppFbload q) s (fun d => ∃ st, s.dev.started q ws st d)) ∧
    (e.startable q 0x701 = some ws → Yields (.ppSend q dt) s (fun d => ∃ st, e.started q ws st d)) ∧
    (s.dev.startable q 0x700 = some ws → lbad → Yields (.ppFbload q) s (fun d => s.dev.started q ws 0x800 d ∧ d.plants = s.dev.plants)) ∧
    (s.dev.startable q 0x700 = some ws → ¬ lbad → fb.1.fabric = s.dev.fabric → fb.2 = .ok buf →
      Yields (.ppFbload q) s (fun d => s.dev.started q ws 0 d ∧ d.plants = s.dev.plants ∧
        ∃ z, (d.queue q).runs.getLast? = some z ∧ z.rdata = [(slot, buf)])) ∧
    (s.dev.startable q 0x700 = some ws → ¬ lbad → fb.1.fabric = s.dev.fabric → fb.2 = .error err →
      Yields (.ppFbload q) s (fun d => s.dev.started q ws err.1 d ∧ d.plants = s.dev.plants)) ∧
    (e.startable q 0x701 = some ws → sbad → Yields (.ppSend q dt) s (fun d => e.started q ws 0x800 d ∧ d.out = e.out)) ∧
    (go → sb.2 = .error err →
      Yields (.ppSend q dt) s (fun d => e.started q ws err.1 d ∧ d.out = e.out)) ∧
    (go → sb.2 = .ok buf → bit (wd sw 2) 0 = false → up = false →
      Yields (.ppSend q dt) s (fun d => e.started q ws 0x802 d ∧ d.out = e.out)) ∧
    (go → sb.2 = .ok buf → up = true → wd sw 1 = 0 →
      (bit (wd sw 2) 0 = true → bits (wd sw 2) 26 16 + 10 ≤ bufLen buf) →
      Yields (.ppSend q dt) s (fun d => e.started q ws 0 d ∧
        d.out = e.out ++ [.frame (e.qTarget q) (wireFrame (sendFrameOf sw e.ns buf))]))

/-! ### The Tameel image and control space (15) -/

/-- R423, R424, R426, R427, R429: what an accepted or ignored LOAD and UNLOAD do, and what a load that succeeds or fails leaves (every
failure's code is below 16). Where the spec leaves a corner open, the clauses follow the model's choices of log entries 42 and 44. -/
def Obligations.ImageLoadAndUnload : Prop :=
  ∀ (s : State) (req : Req) (k : Nat) (banks : List (Nat × List (Nat × Nat × Nat))) (e : ImgFail) (b : List Byte) (x : ImgAcc),
    let d0 := s.dev
    let empty := fun (d : Dev) => d.queues = [] ∧ d.cores = [] ∧ d.ccs = [] ∧ d.plants = [] ∧ d.tideState = 0
    let failed := fun (e : ImgFail) (d : Dev) => empty d ∧ d.fld .glImgStatus F.glImgStatus_STATE = 3 ∧
      d.fld .glImgStatus F.glImgStatus_CODE = e.1 % 16 ∧ d.fld .glImgStatus F.glImgStatus_SECT = e.2.1 % 2 ^ 11 ∧
      d.fld .glImgStatus F.glImgStatus_DETAIL = e.2.2 % 2 ^ 32 ∧ d.fld .hlEvent F.hlEvent_IMAGE = 1
    let blank := (d0.noImage.setFld .fbTorusId ⟨40, 24⟩ 0).numberCores b
    let load := d0.allows req .glImgCtl 1 ∧ d0.mayLoad = true
    (d0.mayLoad = false → Yields (.imgLoad req banks) s (fun d => d = d0)) ∧
    (req = .sup k ∨ req = .job k → Yields (.imgLoad req banks) s (fun d => d = d0) ∧ Yields (.unload req) s (fun d => d = d0)) ∧
    (load → e.1 < 16 → d0.imgVerify = .error e → Yields (.imgLoad req banks) s (fun d => failed e d ∧ d.mem = d0.mem)) ∧
    (load → e.1 < 16 → d0.imgVerify = .ok b → (imgSects b).findSome? sectUnused = some e →
      Yields (.imgLoad req banks) s (fun d => failed e d ∧ d.mem = d0.mem)) ∧
    (load → e.1 < 16 → d0.imgVerify = .ok b → (imgSects b).findSome? sectUnused = none →
      imgEach (applySect banks b) (blank.sectOrder b) ⟨blank, [], [], [(d0.imgAddr, b.length)], []⟩ = (x, some e) →
      Yields (.imgLoad req banks) s (fun d => failed e d ∧ d.mem = x.dev.mem)) ∧
    (load → d0.imgVerify = .ok b → (imgSects b).findSome? sectUnused = none →
      imgEach (applySect banks b) (blank.sectOrder b) ⟨blank, [], [], [(d0.imgAddr, b.length)], []⟩ = (x, none) →
      x.dev.crossFault x = none → Yields (.imgLoad req banks) s (fun d =>
        d.fld .glImgStatus F.glImgStatus_STATE = 2 ∧ d.fld .glImgStatus F.glImgStatus_CODE = 1 ∧ d.tideState = 1 ∧
        d.fld .hlEvent F.hlEvent_IMAGE = 1 ∧
        (∀ j, j < 4 → d.rd (.glImgDigest j) = BitVec.ofNat 64 (numAt (sha256 (b.take (numAt b 12 4))) (8 * j) 8)) ∧
        (∀ n, n < 48 → thas (Reg.ccTvec n) x.sets = true →
          (d.cc n).pc = x.dev.rd (.ccTvec n) &&& ~~~(3 : Word) ∧ (d.cc n).wait = .run ∧
          d.fld (.ccStatus n) F.ccStatus_PRIV = 1 ∧ d.fld (.ccStatus n) F.ccStatus_TRAP = 0 ∧ d.rd (.ccTrapCause n) = 0))) ∧
    (d0.allows req .glImgCtl 2 → d0.mayUnload = true → Yields (.unload req) s (fun d => empty d ∧
      d.fld .glImgStatus F.glImgStatus_STATE = 0 ∧ d.mem = d0.mem)) ∧
    (d0.mayUnload = false → Yields (.unload req) s (fun d => d = d0))

/-- R430, R432, R436, R437: a write that is ignored changes nothing; one of a register without an action changes that register alone,
and one whose effect point is later leaves the value in force. Where the spec leaves a corner open, the clauses follow the model's
choices of log entry 26. -/
def Obligations.RegisterWrites : Prop :=
  ∀ (s : State) (req : Req) (off size n p : Nat) (v : Word) (r : Reg),
    let d0 := s.dev
    let only := fun (d : Dev) => d.rd r = r.written v (d0.rd r) ∧ (∀ x, x ≠ r → d.rd x = d0.rd x ∧ d.live x = d0.live x) ∧
      d.mem = d0.mem ∧ d.cores = d0.cores ∧ d.ccs = d0.ccs ∧ d.queues = d0.queues ∧ d.custQ = d0.custQ ∧ d.out = d0.out
    let taken := d0.regAt off = some r ∧ r.info.bytes = size ∧ d0.mayWrite req r v = true ∧ d0.locked r = false ∧
      d0.writeTaken r v = true
    ((d0.regAt off = none ∨ d0.regAt off = some r ∧
        (r.info.bytes ≠ size ∨ d0.mayWrite req r v = false ∨ d0.locked r = true ∨ d0.writeTaken r v = false)) →
      Yields (.registerWrite req off size v) s (fun d => d = d0)) ∧
    (taken → r ∈ [.ccTvec n, .ccMboxIe n, .cvPrio n, .fbExpRange n, .fbExpKey n, .fbImpRange n, .fbImpKey n, .fbImpCtl n, .coreXlatRoot n,
        .ccXlatRoot n, .ppCtl n, .ppStatus n, .hlEvent] →
      Yields (.registerWrite req off size v) s only) ∧
    (taken → r ∈ [.tgCtl, .tgLoss, .tgPhase n, .tgMark n, .tgSrcRate, .fbVcWeight n, .glPwrCap, .ppSlotTime p n, .ppSlotBuf p n,
        .ppSlotThr p n] →
      Yields (.registerWrite req off size v) s (fun d => only d ∧ d.live r = d0.live r)) ∧
    (taken → d0.loaded = true → r.info.eff ≠ .load)

/-! ### The host link, start-up, identity and the broadcast (16) -/

/-- R449, R465 to R468: what the mailbox requests answer, and what OWNER_SET writes. Where the spec leaves a corner open, the clauses
follow the model's choices of log entries 47 and 24. -/
def Obligations.MailboxRequests : Prop :=
  ∀ (s : State) (req : Req) (cmd len q : Nat) (signed : Bool) (b : Board),
    let d0 := s.dev
    let go := fun cmd => d0.allows req .hlMboxCtl (mboxWord cmd len) ∧ (req = .host → d0.replayed 4 = false ∧ d0.recording 4 = false) ∧
      d0.flag .hlMboxCtl F.hlMboxCtl_BUSY = false ∧ d0.custodianOn = true ∧ len ≤ 8192
    let bs := d0.mboxBytes len
    let key := bs.take 60
    let ended := fun (st : Nat) (resp : List Byte) (d : Dev) => d.fld .hlMboxCtl F.hlMboxCtl_STATUS = st ∧
      d.fld .hlMboxCtl F.hlMboxCtl_BUSY = 0 ∧ d.fld .hlMboxCtl F.hlMboxCtl_DONE = 1 ∧ d.fld .hlEvent F.hlEvent_MBOX = 1 ∧
      d.fld .hlMboxCtl F.hlMboxCtl_LEN = resp.length % 65536 ∧ d.mboxBytes resp.length = resp ∧ Out.msix 0 ∈ d.out ∧ d.mem = d0.mem
    let proved := signed = true ∨ ∃ k, d0.ownerKey = some k ∧ hssVerify k (bs.drop 60) key = true
    (go 1 → len = 0 → d0.board = some b → Yields (.identity req len) s (ended 0 (b.idKey ++ b.unitMap))) ∧
    (go 1 → len ≠ 0 → Yields (.identity req len) s (ended 1 [])) ∧
    (go 2 → len = 32 → d0.flag .glBootStatus F.glBootStatus_ATTEST = true → d0.board = some b → d0.topq = some q → d0.leaf < 1024 →
      Yields (.attest req len) s (fun d => d.leaf = d0.leaf + 1 ∧
        ended 0 (d0.attestReport b q bs ++ (List.range 5396).map (Config.attestSigByte d0.leaf q)) d)) ∧
    (go 2 → len = 32 → d0.flag .glBootStatus F.glBootStatus_ATTEST = true → d0.board = some b → d0.topq = some q → 1024 ≤ d0.leaf →
      Yields (.attest req len) s (ended 3 [])) ∧
    (go 2 → len = 32 → d0.flag .glBootStatus F.glBootStatus_ATTEST = false → Yields (.attest req len) s (ended 2 [])) ∧
    (go 2 → len ≠ 32 → Yields (.attest req len) s (ended 1 [])) ∧
    (go 3 → 60 ≤ len → d0.board = some b → hssKeyOk key = true → b.fuse = false → Yields (.ownerSet req len signed) s (fun d =>
      ended 0 [] d ∧ d.board = some { b with ownerKey := some key, fuse := true } ∧ d.ownerKey = d0.ownerKey ∧
      Out.flashOwner key ∈ d.out ∧ Out.flashFuse ∈ d.out)) ∧
    (go 3 → 60 ≤ len → d0.board = some b → hssKeyOk key = true → b.fuse = true → proved → Yields (.ownerSet req len signed) s (fun d =>
      ended 0 [] d ∧ d.board = some { b with ownerKey := some key } ∧ d.ownerKey = d0.ownerKey)) ∧
    (go 3 → 60 ≤ len → d0.board = some b → b.fuse = true → ¬ proved → Yields (.ownerSet req len signed) s (fun d =>
      ended 4 [] d ∧ d.board = d0.board)) ∧
    (go cmd → 4 < cmd % 256 → Yields (.mailboxBadRequest req cmd len) s (ended 1 [])) ∧
    (cmd % 256 = 0 → Yields (.mailboxBadRequest req cmd len) s (fun d => d = d0)) ∧
    (go 4 → len < 6 ∨ bs.take 4 ≠ enterprise → Yields (.mgmt req len signed) s (ended 1 []))

/-- R446 to R448, R450 to R455, R458, R462, R464: bias flips, host doorbells, a control core's restart, the lock of the feature vector,
the host link, and start-up. Where the spec leaves a corner open, the clauses follow the model's choices of log entries 46 and 36. -/
def Obligations.HostLinkAndStartUp : Prop :=
  ∀ (s : State) (req : Req) (v : Word) (k i h : Nat) (bs : List Byte) (ok : Bool) (b : Board) (t : Boot),
    let d0 := s.dev
    let page := F.hlBiasCtl_PAGE.get v
    let flip := F.hlBiasCtl_GO.get v = 1 ∧ d0.allows req .hlBiasCtl v ∧ d0.feat 9 = true
    let others := fun (d : Dev) => ∀ x, x ≠ page → (x ∈ d.bias ↔ x ∈ d0.bias)
    let subset := ∀ j, j < 2 → (d0.rd (.hlFeatAccept j)) &&& (d0.rd (.hlFeatOffer j)) = d0.rd (.hlFeatAccept j)
    let base := bit (d0.rd (.hlFeatAccept 0)).toNat 0
    let on := d0.pwrGood = false ∧ (b.fwA.isSome = true ∨ b.fwB.isSome = true)
    let fails := fun (cause : Nat) (d : Dev) => d.fld .glBootStatus F.glBootStatus_STAGE = 8 ∧
      d.fld .glBootStatus F.glBootStatus_FCAUSE = cause ∧ d.faultN = true ∧ d.fld .hlEvent F.hlEvent_BOOT = 1
    (flip → F.hlBiasCtl_TO.get v = 0 → Yields (.biasFlip req v []) s (fun d => page ∈ d.bias ∧ others d ∧ d.mem = d0.mem)) ∧
    (flip → F.hlBiasCtl_TO.get v = 1 → d0.hostLink = true → bs.length = 64 → d0.memWf → d0.noCopy →
      Yields (.biasFlip req v [(i, bs)]) s (fun d => page ∉ d.bias ∧ others d ∧ Out.ownership page ∈ d.out ∧
        d0.memPut (page * 2097152 + 64 * (i % 32768)) bs d)) ∧
    (d0.feat 9 = false → Yields (.biasFlip req v [(i, bs)]) s (fun d => d.bias = d0.bias ∧ d.mem = d0.mem)) ∧
    (d0.allows req .hlHostDb v → Yields (.hlHostDbWrite req v) s (fun d => d.regs = d0.regs ∧
      d.out = d0.out ++ ((List.range 48).filter (bit v.toNat)).map (fun k => Out.msix (1 + k)))) ∧
    (d0.allows req (.ccCtl k) 1 → d0.loaded = true → Yields (.restart req k) s (fun d =>
      (d.cc k).pc = d0.rd (.ccTvec k) &&& ~~~(3 : Word) ∧ (d.cc k).wait = .run ∧ (d.cc k).g = (d0.cc k).g ∧ (d.cc k).v = (d0.cc k).v ∧
      (d.cc k).p = (d0.cc k).p ∧ d.fld (.ccStatus k) F.ccStatus_PRIV = 1 ∧ d.fld (.ccStatus k) F.ccStatus_IE = 0 ∧
      d.fld (.ccStatus k) F.ccStatus_TRAP = 0 ∧ d.fld (.ccStatus k) F.ccStatus_HALT = 0 ∧ d.rd (.ccTrapCause k) = 0 ∧
      d.fld (.ccVstate k) F.ccVstate_VL = 0 ∧ d.fld (.ccVstate k) F.ccVstate_ILL = 1 ∧
      (∀ c ∈ (d.cc k).calls, c.2.taken = false) ∧
      ∀ x ∈ d.fabric.trackers, ¬ (x.cc = some k ∧ (x.fetch = true ∨ x.seq = none)))) ∧
    (d0.loaded = false → Yields (.restart req k) s (fun d => d = d0)) ∧
    (d0.allows req (.ccCtl k) 2 → Yields (.dbSet req k) s (fun d => d.fld (.ccCtl k) F.ccCtl_DB = 1)) ∧
    (d0.allows req .hlFeatCtl 1 → d0.flag .hlFeatCtl F.hlFeatCtl_LOCKED = false → subset → base = true → d0.bcast.startHeld = false →
      Yields (.featLock req) s (fun d => d.fld .hlFeatCtl F.hlFeatCtl_LOCKED = 1 ∧
        (d0.fld .glBootStatus F.glBootStatus_STAGE = 4 → d.fld .glBootStatus F.glBootStatus_STAGE = 5))) ∧
    (d0.allows req .hlFeatCtl 1 → d0.flag .hlFeatCtl F.hlFeatCtl_LOCKED = false → (¬ subset ∨ base = false) →
      Yields (.featLock req) s (fun d => d.fld .hlFeatCtl F.hlFeatCtl_LOCKED = 0 ∧ d.fld .hlFeatCtl F.hlFeatCtl_LERR = 1)) ∧
    (d0.hostLink = true → Yields .hostLinkDown s (fun d => d.hostLink = false ∧ d.bias = d0.bias ∧
      (d0.custQ.length < 64 → ∃ e, d.custQ = d0.custQ ++ [e] ∧ e.code = 0x70 ∧ e.source = source 8 0))) ∧
    (d0.pwrGood = true → d0.perst = false → Yields .hostLinkUp s (fun d => d.hostLink = true ∧ d.bias = d0.bias)) ∧
    (d0.custodianOn = true → Yields (.identityTreesBuilt ok) s (fun d => d.fld .glBootStatus F.glBootStatus_ATTEST =
      if ok = true ∧ d0.topq ≠ none ∧ d0.board.map Board.idCacheOk = some true then 1 else 0)) ∧
    (d0.pwrGood = false → b.fwA = none → b.fwB = none → Yields (.powerGood b t) s (fun d => d.pwrGood = true ∧ d.faultN = true ∧
      d.fld .glBootStatus F.glBootStatus_FCAUSE = 1)) ∧
    (on → boardMapOk b = false → Yields (.powerGood b t) s (fails 2)) ∧
    (on → boardMapOk b = true → b.posOk = false → Yields (.powerGood b t) s (fails 3)) ∧
    (on → boardMapOk b = true → b.posOk = true → t.dieLinks = false → Yields (.powerGood b t) s (fails 4)) ∧
    (on → boardMapOk b = true → b.posOk = true → t.dieLinks = true → t.stacksOk = false → Yields (.powerGood b t) s (fails 5)) ∧
    (on → boardMapOk b = true → b.posOk = true → t.dieLinks = true → t.stacksOk = true → Yields (.powerGood b t) s (fun d =>
      d.pwrGood = true ∧ d.fld .glBootStatus F.glBootStatus_STAGE = 4 ∧ d.hostLink = (t.hostLink && !d0.perst) ∧
      d.ownerKey = b.ownerKey ∧ d.fld .fbTorusId F.fbTorusId_X = b.x % 32 ∧ d.fld .fbTorusId F.fbTorusId_Y = b.y % 32 ∧
      d.fld .fbTorusId F.fbTorusId_Z = b.z % 16 ∧
      (b.hwm = some h → h < 1048575 → d.topq = some (h + 1) ∧ Out.flashLeaf (h + 1) ∈ d.out)))

/-- R471, R473 to R479: sending, receiving, verifying, acknowledging and starting an image that travels down the tree. Where the spec
leaves a corner open, the clauses follow the model's choices of log entry 48. -/
def Obligations.JobBroadcast : Prop :=
  ∀ (s : State) (req : Req) (e : ImgFail) (b data : List Byte) (root size n child count : Nat)
      (banks : List (Nat × List (Nat × Nat × Nat))),
    let d0 := s.dev
    let st := d0.bcastState
    let send := d0.allows req .glBcastCtl (BitVec.ofNat 64 (1 + 256 * d0.fld .glBcastCtl F.glBcastCtl_TIMEOUT)) ∧ d0.mayLoad = true
    let kids := (d0.setBcast { d0.bcast with root := d0.torusId }).children
    let d1 := (if n = 0 then d0.bcastBegin root size else d0).storeStack (bcastBase + 65536 * n) data
    let d2 := (d1.setBcast { d1.bcast with chunks := n + 1 }).toChildren (fun c => .chunk c root size n)
    let acked := d0.setBcast { d0.bcast with acks := tset child count d0.bcast.acks }
    let all := (∀ c ∈ d0.children, c = child ∨ thas c d0.bcast.acks = true) ∧ (d0.bcast.verified = true ∨ d0.bcast.failedSelf = true)
    let isRoot := d0.flag .glBcastStatus F.glBcastStatus_ROOT
    let told := fun (f : Nat → Out) (d : Dev) => ∀ c ∈ d0.children, f c ∈ d.out
    (d0.mayLoad = false → Yields (.bcastSend req banks) s (fun d => d = d0)) ∧
    (send → d0.imgVerify = .error e → Yields (.bcastSend req banks) s (fun d => d.bcastState = 10 ∧
      d.fld .hlEvent F.hlEvent_BCAST = 1 ∧ d.out = d0.out ++ [.msix 0] ∧ d.fld .glImgStatus F.glImgStatus_CODE = e.1 % 16)) ∧
    (send → d0.imgVerify = .ok b → kids ≠ [] → Yields (.bcastSend req banks) s (fun d => d.bcastState = 2 ∧
      d.flag .glBcastStatus F.glBcastStatus_ROOT = true ∧
      ∀ c ∈ kids, ∀ j, j < (b.length + 65535) / 65536 → Out.chunk c d0.torusId b.length j ∈ d.out)) ∧
    (d0.chunkFits root size n data.length = false → Yields (.chunkReceive root size n data) s (fun d => d = d0)) ∧
    (d0.chunkFits root size n data.length = true → 65536 * (n + 1) < size → d0.memWf → d0.noCopy →
      Yields (.chunkReceive root size n data) s (fun d => d0.memPut (bcastBase + 65536 * n) data d ∧ d.bcast.chunks = n + 1 ∧
        d.bcastState = 3 ∧ d.bcast.root = root ∧ (n = 0 → d.imgAddr = bcastBase) ∧
        ∀ c ∈ d.children, Out.chunk c root size n ∈ d.out)) ∧
    (d0.chunkFits root size n data.length = true → size ≤ 65536 * (n + 1) → d2.imgVerify = .ok b →
      Yields (.chunkReceive root size n data) s (fun d => d.bcast.verified = true ∧ (d.bcastState = 6 ∨ d.bcastState = 7))) ∧
    (d0.chunkFits root size n data.length = true → size ≤ 65536 * (n + 1) → d2.imgVerify = .error e → d2.bcast.resent = false →
      Yields (.chunkReceive root size n data) s (fun d => d.bcast.resent = true ∧ d.bcast.chunks = 0 ∧ Out.bcastResend d2.parent ∈ d.out)) ∧
    (st = 3 → Yields .chunkTimeout s (fun d => d.bcastState = 5 ∧ d.bcast.chunks = 0 ∧ told .bcastDiscard d)) ∧
    (st = 3 → Yields .broadcastDiscardNotice s (fun d => d.bcastState = 4 ∧ d.bcast.chunks = 0 ∧ told .bcastDiscard d ∧ d.parent = d0.parent)) ∧
    (child ∈ d0.children → st ∈ [2, 3, 6, 7, 10] → Yields (.broadcastAcknowledgement child count) s (fun d =>
      tget 0 child d.bcast.acks = count)) ∧
    (child ∈ d0.children → st = 6 → isRoot = false → all → Yields (.broadcastAcknowledgement child count) s (fun d =>
      d.bcastState = 7 ∧ d.out = d0.out ++ [.bcastAck d0.parent acked.bcastCount])) ∧
    (child ∈ d0.children → st = 2 → isRoot = true → all → d0.reshapable = false →
      acked.bcastCount ≠ d0.fld .fbTorusId F.fbTorusId_DX * d0.fld .fbTorusId F.fbTorusId_DY * d0.fld .fbTorusId F.fbTorusId_DZ →
      Yields (.broadcastAcknowledgement child count) s (fun d => d.bcastState = 9 ∧ d.fld .hlEvent F.hlEvent_BCAST = 1 ∧
        d.mem = d0.mem)) ∧
    (child ∈ d0.children → Yields (.broadcastResendRequest child) s (fun d => thas child d.bcast.acks = false ∧
      ∀ j, j < d0.bcast.chunks → Out.chunk child d0.bcast.root d0.bcast.size j ∈ d.out)) ∧
    (isRoot = false → st ∈ [6, 7, 10] → d0.bcast.verified = false → Yields (.bcastStart banks) s (fun d => told .bcastStart d ∧
      d.regs = d0.regs ∧ d.queues = d0.queues)) ∧
    (isRoot = false → st ∈ [6, 7, 10] → d0.bcast.verified = true → d0.flag .hlFeatCtl F.hlFeatCtl_LOCKED = false →
      Yields (.bcastStart banks) s (fun d => told .bcastStart d ∧ d.bcastState = 8 ∧ d.bcast.startHeld = true)) ∧
    ((isRoot = true ∨ st ∉ [6, 7, 10]) → Yields (.bcastStart banks) s (fun d => d = d0))

/-! ### Dependability (17) and the supply (20) -/

/-- R490, R491, R493 to R495, R503 to R506: fences and their report, injections, and sounding tests. Where the spec leaves a corner
open, the clauses follow the model's choices of log entries 16 and 45. -/
def Obligations.FencesAndTests : Prop :=
  ∀ (s : State) (req : Req) (c u n q : Nat) (persist full : Bool) (f : FenceRun) (x : Sound) (ws : List Word),
    let d0 := s.dev
    let ask := c < 256 ∧ d0.allows req .glFenceCtl (BitVec.ofNat 64 (c + 256 * b2n persist + 512))
    let busy := d0.flag .glFenceCtl F.glFenceCtl_BUSY
    let res := if f.lost then 2 else 1
    let inject := c < 256 ∧ u ≤ 5 ∧ (n = 1 ∨ n = 2) ∧ 
      d0.allows req .glChkCtl (BitVec.ofNat 64 (c + u * 256 + n * 2048 + 8192 + d0.fld .glChkCtl F.glChkCtl_MASK * 65536))
    let testing := d0.flag (.coreSound c) F.coreSound_BUSY
    let t := d0.qTarget q
    let plain := dArg ws 0 / 2 = 0 ∧ dArg ws 1 = 0 ∧ dArg ws 2 = 0 ∧ dArg ws 3 = 0
    (ask → busy = false → c < d0.nCores → d0.coreFenced c = false → Yields (.fenceGo req c persist) s (fun d =>
      d.coreFenced c = true ∧ d.fld .glFenceCtl F.glFenceCtl_BUSY = 1 ∧ d.fld .glErrStatus F.glErrStatus_FENCE_EV = 1 ∧
      (∀ p ∈ d0.coreQueues c, (d.queue p).mode = .drain ∧ (d.queue p).pos = d.qTail p) ∧
      ∃ g, (d.core c).fence = some g ∧ g.cause = 3 ∧ g.go = true ∧ g.record = persist)) ∧
    (ask → busy = false → c < d0.nCores → d0.coreFenced c = true → Yields (.fenceGo req c persist) s (fun d =>
      d.fld .glFenceCtl F.glFenceCtl_RESULT = 1 ∧ d.cores = d0.cores ∧ d.queues = d0.queues)) ∧
    (ask → (busy = true ∨ d0.nCores ≤ c) → Yields (.fenceGo req c persist) s (fun d =>
      d.fld .glFenceCtl F.glFenceCtl_RESULT = d0.fld .glFenceCtl F.glFenceCtl_RESULT ∧ d.cores = d0.cores ∧ d.queues = d0.queues)) ∧
    ((d0.core c).fence = some f → d0.storesSettled c = true → Yields (.fenceReport c) s (fun d => (d.core c).fence = none ∧
      (f.go = true → d.fld .glFenceCtl F.glFenceCtl_BUSY = 0 ∧ d.fld .glFenceCtl F.glFenceCtl_RESULT = res) ∧
      (d0.custQ.length < 64 → ∃ e, d.custQ = d0.custQ ++ [e] ∧ e.code = 0x51 ∧ e.source = source 1 (d0.phys c) ∧
        e.data = BitVec.ofNat 64 (f.cause + res * 256) ∧ e.irq = true ∧ (e.record.isSome ↔ f.record = true)))) ∧
    ((d0.core c).fence = some f → d0.storesSettled c = false → Yields (.fenceReport c) s (fun d => d = d0)) ∧
    (inject → d0.flag .glChkCtl F.glChkCtl_INJ_PEND = false → c < d0.nCores → d0.coreFenced c = false →
      Yields (.inj req c u n) s (fun d => (d.core c).inj = some ⟨u, n⟩ ∧ d.fld .glChkCtl F.glChkCtl_INJ_PEND = 1)) ∧
    (inject → (d0.flag .glChkCtl F.glChkCtl_INJ_PEND = true ∨ d0.nCores ≤ c ∨ d0.coreFenced c = true) →
      Yields (.inj req c u n) s (fun d => d.cores = d0.cores ∧
        d.fld .glChkCtl F.glChkCtl_INJ_PEND = d0.fld .glChkCtl F.glChkCtl_INJ_PEND)) ∧
    (d0.allows req (.coreSound c) (BitVec.ofNat 64 (1 + 2 * b2n full)) → Yields (.soundingTestGo req c full) s (fun d =>
      if testing then d.cores = d0.cores else (d.core c).sound = some ⟨full, none, none⟩ ∧
        d.fld (.coreSound c) F.coreSound_BUSY = 1 ∧ d.fld (.coreSound c) F.coreSound_LEVEL = b2n full)) ∧
    (d0.startable q 0x900 = some ws → ¬ plain → Yields (.coreSoundCommand q) s (d0.started q ws stDescInvalid)) ∧
    (d0.startable q 0x900 = some ws → plain → d0.flag (.coreSound t) F.coreSound_BUSY = false →
      Yields (.coreSoundCommand q) s (fun d => d0.started q ws 0 d ∧
        (d.core t).sound = some ⟨bit (dArg ws 0) 0, some q, none⟩ ∧ d.fld (.coreSound t) F.coreSound_BUSY = 1)) ∧
    ((d0.core c).sound = some x → d0.coreRuns c = false → Yields (.soundResult c none) s (fun d => (d.core c).sound = none ∧
      d.fld (.coreSound c) F.coreSound_BUSY = 0 ∧ d.fld (.coreSound c) F.coreSound_STATUS = 0 ∧
      (x.queue = some q → ∀ r ∈ (d.queue q).runs, dRtn r.desc = 0x900 → r.done = true) ∧
      d.fld .cnChoiceTime F.cnChoiceTime_LAST = 5 ∧ d.coreFenced c = d0.coreFenced c)) ∧
    ((d0.core c).sound = some x → d0.coreRuns c = false → u < 16 → Yields (.soundResult c (some u)) s (fun d =>
      d.fld (.coreSound c) F.coreSound_BUSY = 0 ∧ d.fld (.coreSound c) F.coreSound_STATUS = 0x900 ∧
      d.fld (.coreSound c) F.coreSound_UNIT = u ∧ d.coreFenced c = true ∧ (d.core c).sound = none)) ∧
    ((d0.core c).sound = none ∨ d0.coreRuns c = true → Yields (.soundResult c none) s (fun d => d = d0))

/-- R496 to R502, R507, and 20 R554, R555, R559, R560: the custodian's queue and log, package-fatal errors, the supply and resets. Where
the spec leaves a corner open, the clauses follow the model's choices of log entries 36 and 45. -/
def Obligations.CustodianSupplyAndResets : Prop :=
  ∀ (s : State) (req : Req) (e : CustEv) (t : List CustEv) (p vin : Nat) (u : CmpUnit) (again : Bool),
    let d0 := s.dev
    let fatal := fun (d : Dev) => d.fld .glErrStatus F.glErrStatus_FATAL_PREV = 1 ∧ d.mem = [] ∧ d.queues = [] ∧ d.cores = []
    let ix := match u with | .gate => 0 | .sched k _ => k + 1
    let n := if again then tget 0 ix d0.cmpRun + 1 else 1
    let warn := d0.flag .glErrStatus F.glErrStatus_SUPPLY_WARN
    (d0.custodianOn = true → d0.custQ = e :: t → (t ≠ [] ∨ d0.custLost = 0) → Yields .custodianEvent s (fun d => d.custQ = t ∧
      (d0.fld .clStatus F.clStatus_NEXT, LogEntry.mk e.tide e.time e.source e.code (d0.fld .clStatus F.clStatus_SEQ) e.data) ∈ d.log ∧
      d.fld .clStatus F.clStatus_NEXT = (d0.fld .clStatus F.clStatus_NEXT + 1) % 2 ^ 14 ∧
      d.fld .clStatus F.clStatus_SEQ = (d0.fld .clStatus F.clStatus_SEQ + 1) % 2 ^ 32 ∧
      (e.irq = true → Out.msix 0 ∈ d.out) ∧
      (e.record = some p → Out.flashFence p ∈ d.out ∧ ∀ b, d.board = some b → p ∈ fencedBy b))) ∧
    (d0.custodianOn = true → d0.custQ = [e] → d0.custLost ≠ 0 → Yields .custodianEvent s (fun d => d.custQ = [] ∧ d.custLost = 0 ∧
      ∃ x ∈ d.log, x.2.code = 0xF0 ∧ x.2.data = BitVec.ofNat 64 (d0.custLost % 2 ^ 32))) ∧
    (d0.custodianOn = true → Yields (.custodianError .uncorrectable) s fatal) ∧
    (d0.custodianOn = true → d0.custQ ≠ [] → Yields (.custodianError .parity) s fatal) ∧
    (d0.custodianOn = true → d0.custQ = [] → Yields (.custodianError .parity) s (fun d => d.mem = d0.mem ∧
      d.fld .glErrStatus F.glErrStatus_RETRY_EV = 1 ∧ ∃ x, d.custQ = [x] ∧ x.code = 0x50)) ∧
    (n < 3 → Yields (.tideCmp u again) s (fun d => tget 0 ix d.cmpRun = n ∧ (∀ k, k ≠ ix → tget 0 k d.cmpRun = tget 0 k d0.cmpRun) ∧ d.tide = d0.tide ∧ d.fld .cnChoiceTime F.cnChoiceTime_LAST = 9 ∧
      (d0.custQ.length < 64 → ∃ x ∈ d.custQ, x.code = if u = .gate then 0x15 else 0x31))) ∧
    (3 ≤ n → Yields (.tideCmp u again) s fatal) ∧
    (d0.custodianOn = true → vin < d0.warnAt → warn = false → Yields (.supplyWarn vin) s (fun d => d.supplyWarnN = true ∧
      d.fld .glErrStatus F.glErrStatus_SUPPLY_WARN = 1 ∧ d.fld .glErrStatus F.glErrStatus_SUPPLY_EV = 1 ∧
      d.fld .hlEvent F.hlEvent_SUPPLY = 1 ∧ (∀ k, k < 48 → (d.cc k).supply = true) ∧ d.mgmt.due = true ∧
      d.fld .glPwrCap F.glPwrCap_CAP = d0.fld .glPwrCap F.glPwrCap_CAP ∧
      (d0.flag .glImgInfo F.glImgInfo_SUPPLY_FB = true → ∀ k, k < 2 → d.fld (.ppCtl k) F.ppCtl_FORCE_FB = 1) ∧
      (d0.custQ.length < 64 → ∃ x ∈ d.custQ, x.code = 0x22 ∧ x.irq = true))) ∧
    (d0.custodianOn = true → d0.warnAt + 500 ≤ vin → warn = true → Yields (.supplyWarnClear vin) s (fun d => d.supplyWarnN = false ∧
      d.fld .glErrStatus F.glErrStatus_SUPPLY_WARN = 0 ∧
      ∀ k, d.fld (.ppCtl k) F.ppCtl_FORCE_FB = d0.fld (.ppCtl k) F.ppCtl_FORCE_FB)) ∧
    (d0.pwrGood = true → vin < d0.resetAt → Yields (.supplyReset vin) s (fun d => d.pwrGood = false ∧ d.mem = [] ∧ d.queues = [] ∧
      d.cores = [] ∧ d.log = d0.log)) ∧
    (d0.resetAt ≤ vin → Yields (.supplyReset vin) s (fun d => d = d0)) ∧
    (vin < 30000 → Yields (.powerDown vin) s (fun d => d.pwrGood = false ∧ d.mem = [] ∧ d.queues = [] ∧ d.log = [])) ∧
    (d0.pwrGood = true → Yields .resetN s (fun d => d.mem = [] ∧ d.far = [] ∧ d.queues = [] ∧ d.cores = [] ∧ d.ccs = [] ∧
      d.plants = [] ∧ d.fld .glErrStatus F.glErrStatus_FATAL_PREV = 0 ∧ d.fld .glImgStatus F.glImgStatus_STATE = 0 ∧
      d.log = d0.log)) ∧
    Yields (.perstN true) s (fun d => d.hostLink = false ∧ d.bias = [] ∧ d.perst = true ∧ d.mem = d0.mem) ∧
    Yields (.perstN false) s (fun d => d.perst = false ∧ d.bias = d0.bias ∧ d.hostLink = d0.hostLink) ∧
    (d0.allows req .glSupplyStatus (BitVec.ofNat 64 (2 ^ 48)) → Yields (.minClr req) s (fun d =>
      d.fld .glSupplyStatus F.glSupplyStatus_VIN_MIN = 0xFFFF ∧
      d.fld .glSupplyStatus F.glSupplyStatus_VIN = d0.fld .glSupplyStatus F.glSupplyStatus_VIN))

/-! ### Recording, replay and snapshots (18) -/

/-- R516, R518 to R521, R525, R526: the recorder goes on after a loss, a replay is armed, disarmed, delivers or ends, the counters are
latched, and a snapshot is written. Where the spec leaves a corner open, the clauses follow the model's choices of log entries 49 and
14. -/
def Obligations.ReplayAndSnapshots : Prop :=
  ∀ (s : State) (req : Req) (kinds dt k : Nat) (x : Snap),
    let d0 := s.dev
    let w := (d0.rd .cnRecWptr).toNat
    let size := 2 ^ d0.lfld .cnRecRing F.cnRecRing_LOG2SIZE
    let at1 := d0.lfld .cnRecRing F.cnRecRing_BASE * 64 + w % size
    let marker := bytesOf 8 d0.tide.count.toNat ++ bytesOf 8 d0.cycle ++ bytesOf 4 d0.recd.seq ++ bytesOf 1 6 ++ bytesOf 1 0 ++
      bytesOf 2 32 ++ bytesOf 8 (2 + d0.recd.lost % 2 ^ 40 * 2 ^ 8)
    let go := d0.allows req .cnRplCtl (BitVec.ofNat 64 (1 + kinds % 64 * 256))
    let st := d0.fld .cnRplStatus F.cnRplStatus_STATE
    let e := s.dev.elapse dt
    let h := e.rplBytes e.recd.rplPos 32
    let kind := numAt h 20 1
    let next := e.recd.rplPos ≠ 0 ∧ e.recd.rplItem = 0 ∧ numAt h 16 4 = (e.recd.rplSeq + 1) % 2 ^ 32 ∧ 32 ≤ numAt h 22 2
    let due := e.recd.rplAt + numAt h 8 8 ≤ e.cycle + e.recd.rplFirst
    let ended := fun (n : Nat) (d : Dev) => d.recd.rplOn = false ∧ d.fld .cnRplStatus F.cnRplStatus_STATE = n
    let snap := d0.allows req .cnRdCtl (BitVec.ofNat 64 (2 + d0.fld .cnRdCtl F.cnRdCtl_EN))
    let n := d0.fld .cnRdStatus F.cnRdStatus_SEQ
    let slot := d0.lfld .cnRdRing F.cnRdRing_BASE * 16384 + 16384 * (n % 2 ^ d0.lfld .cnRdRing F.cnRdRing_LOG2SLOTS)
    (d0.recd.on = true → d0.recd.lost ≠ 0 → 32 ≤ d0.recSpace → w % size + 32 ≤ size → d0.memWf → d0.noCopy →
      Yields .recordResume s (fun d => d.recd.lost = 0 ∧ d.recd.seq = (d0.recd.seq + 1) % 2 ^ 32 ∧ d0.memPut at1 marker d ∧
        d.rd .cnRecWptr = d0.rd .cnRecWptr + 32)) ∧
    ((d0.recd.on = false ∨ d0.recd.lost = 0 ∨ d0.recSpace < 32) → Yields .recordResume s (fun d => d = d0)) ∧
    (go → st = 0 → Yields (.replayGo req kinds) s (fun d => d.fld .cnRplCtl F.cnRplCtl_KINDS = kinds % 64 ∧
      if d0.loaded then d.recd.rplOn = true ∧ d.recd.rplPos = 0 ∧ d.recd.rplAt = d0.cycle ∧ d.fld .cnRplStatus F.cnRplStatus_STATE = 2
      else d.recd = d0.recd ∧ d.fld .cnRplStatus F.cnRplStatus_STATE = 1)) ∧
    (go → st ≠ 0 → Yields (.replayGo req kinds) s (fun d => d.recd = d0.recd ∧ d.fld .cnRplStatus F.cnRplStatus_STATE = st)) ∧
    (d0.allows req .cnRplCtl 2 → Yields (.armOff req) s (fun d => d.recd = d0.recd ∧
      d.fld .cnRplStatus F.cnRplStatus_STATE = if st = 1 then 0 else st)) ∧
    (e.recd.rplOn = false → Yields (.replayDeliver dt) s (fun d => d = e)) ∧
    (e.recd.rplOn = true → (kind = 0 ∨ 6 < kind ∨ numAt h 22 2 < 32) → Yields (.replayDeliver dt) s (ended 4)) ∧
    (e.recd.rplOn = true → e.recd.rplPos ≠ 0 → e.recd.rplItem = 0 → numAt h 16 4 ≠ (e.recd.rplSeq + 1) % 2 ^ 32 →
      Yields (.replayDeliver dt) s (ended 4)) ∧
    (e.recd.rplOn = true → next → kind = 6 → numAt h 24 1 = 1 → due → Yields (.replayDeliver dt) s (ended 3)) ∧
    (e.recd.rplOn = true → next → 2 ≤ kind → kind ≤ 6 → ¬ due → Yields (.replayDeliver dt) s (fun d => d = e)) ∧
    (e.recd.rplOn = true → next → 2 ≤ kind → kind ≤ 5 → due → bit (e.fld .cnRplCtl F.cnRplCtl_KINDS) (kind - 1) = false →
      Yields (.replayDeliver dt) s (fun d => d.recd.rplPos = e.recd.rplPos + numAt h 22 2 ∧ d.mem = e.mem ∧ d.queues = e.queues ∧
        (d.recd.rplOn = false ↔ 2 ^ e.lfld .cnRplRing F.cnRplRing_LOG2SIZE < e.recd.rplPos + numAt h 22 2 + 32))) ∧
    (snap → d0.snap = none → Yields (.snap req) s (fun d =>
      (d0.countsTime (.cnPmcValue k) = false → d.rd (.cnPmcShadow k) = d0.rd (.cnPmcValue k)) ∧
      d.rd (.tgPmcShadow k) = d0.rd (.tgPmcValue k) ∧
      (d0.flag .cnRdCtl F.cnRdCtl_EN = true → d.fld .cnRdStatus F.cnRdStatus_BUSY = 1 ∧
        d.snap.map Snap.tide = some d0.tide.count ∧ d.snap.map Snap.trigger = some 1))) ∧
    (snap → d0.snap = some x → Yields (.snap req) s (fun d => d.snap = some x ∧ d.rd (.cnPmcShadow k) = d0.rd (.cnPmcShadow k) ∧
      d.fld .cnRdStatus F.cnRdStatus_SEQ = n ∧
      d.fld .cnRdStatus F.cnRdStatus_SKIPPED = satAdd 16 (d0.fld .cnRdStatus F.cnRdStatus_SKIPPED) 1)) ∧
    (d0.snap = some x → d0.memWf → d0.noCopy → Yields .snapshotWrite s (fun d => d0.memPut slot (d0.snapBytes x n) d ∧ d.snap = none ∧
      d.fld .cnRdStatus F.cnRdStatus_BUSY = 0 ∧ d.fld .cnRdStatus F.cnRdStatus_SEQ = (n + 1) % 2 ^ 32))

/-! ### Folios (19) -/

/-- R531 to R535, R537, R540 to R542: a trigger, a request, the copy of a leaf with its P, the commit record, a valid generation and an
abandoned one. Where the spec leaves a corner open, the clauses follow the model's choices of log entries 19 and 21. -/
def Obligations.FolioTakenOrAbandoned : Prop :=
  ∀ (s : State) (req : Req) (x j gen cause k : Nat),
    let d0 := s.dev
    let st := d0.folioState
    let at1 := d0.tide.count.toNat + 2 * d0.tideLen
    let may := d0.folioOn = true ∧ d0.rank = 0
    let asked := fun (d : Dev) => d.folioState = 1 ∧ d.folio.requested = some at1 ∧ d.out = d0.out ++ [.folioReq at1]
    let skipped := fun (d : Dev) => d.folio = d0.folio ∧ d.out = d0.out ∧
      d.fld .glFolioStatus F.glFolioStatus_SKIPPED = satAdd 16 (d0.fld .glFolioStatus F.glFolioStatus_SKIPPED) 1
    let G := d0.folioG
    let t := j / (G - 2)
    let off := d0.folio.half * d0.folioHS + (d0.rank * d0.folioT + t) * 65536
    let par := tget ([], [], 0) t d0.folio.par
    let slot := fun n => d0.folioSlots.getD n 0
    let bad := match d0.leafAddr j with
      | some a => d0.badIn a 65536
      | none => []
    let gone := fun (g c : Nat) (d : Dev) => d.folioState = 0 ∧ d.fld .glFolioStatus F.glFolioStatus_LAST = 2 ∧
      d.fld .glFolioStatus F.glFolioStatus_CAUSE = c % 4 ∧ d.folio.gen = g ∧ d.mem = d0.mem ∧
      d.fld .glFolioStatus F.glFolioStatus_VGEN = d0.fld .glFolioStatus F.glFolioStatus_VGEN
    let next := d0.folio.gen + if st = 1 then 1 else 0
    let own := d0.reserveAt d0.folio.half + (G * d0.folioT * 65536 + 64 * d0.rank)
    let valid := d0.halfGen G d0.folioL d0.folio.half = some d0.folio.gen
    let same := (st = 1 ∧ gen = d0.folio.gen + 1) ∨ ((st = 2 ∨ st = 3) ∧ gen = d0.folio.gen ∧ ¬ valid)
    (d0.folioDue = false → Yields .folioTrigger s (fun d => d = d0)) ∧
    (d0.folioDue = true → may → st = 0 → Yields .folioTrigger s asked) ∧
    (d0.folioDue = true → may → st ≠ 0 → Yields .folioTrigger s skipped) ∧
    (d0.allows req .glFolioCtl 1 → may → st = 0 → Yields (.folioGo req) s asked) ∧
    (d0.allows req .glFolioCtl 1 → may → st ≠ 0 → Yields (.folioGo req) s skipped) ∧
    (¬ may → Yields (.folioGo req) s (fun d => d = d0)) ∧
    (d0.folioOn = true → st ≠ 4 → Yields (.folioRequest x) s (fun d => d.folio = { d0.folio with requested := some x } ∧
      d.folioState = if st = 0 then 1 else st)) ∧
    ((d0.folioOn = false ∨ st = 4) → Yields (.folioRequest x) s (fun d => d = d0)) ∧
    (st = 2 → d0.nextLeaf = some j → bad = [] → Yields .leafCopy s (fun d => d.folio.copied = j :: d0.folio.copied ∧
      d.folioState = 2 ∧ d.fld .glFolioProg F.glFolioProg_COPIED = (d0.fld .glFolioProg F.glFolioProg_COPIED + 1) % 2 ^ 32 ∧
      (4 ≤ G → d0.rank < G →
        Out.folioLeaf (slot ((d0.rank + 1 + j % (G - 2)) % G)) off (d0.leafCells j) ∈ d.out ∧
        (min (G - 2) (d0.folioL - t * (G - 2)) ≤ par.2.2 + 1 →
          Out.folioLeaf (slot ((d0.rank + G - 1) % G)) off (Mem.xor par.1 (d0.leafCells j)) ∈ d.out ∧
          ∀ p, min (G - 2) (d0.folioL - t * (G - 2)) ≤ p → p < G - 2 →
            Out.folioLeaf (slot ((d0.rank + 1 + p) % G)) off [] ∈ d.out)))) ∧
    (st = 2 → d0.nextLeaf = some j → bad ≠ [] → Yields .leafCopy s (fun d => gone next 3 d ∧ Out.folioAbandon next 3 ∈ d.out)) ∧
    ((st ≠ 2 ∨ d0.nextLeaf = none) → Yields .leafCopy s (fun d => d = d0)) ∧
    (st = 2 → d0.leavesDone = true → Yields .folioCommit s (fun d => d.folioState = 3 ∧
      (k < G → k ≠ d0.rank → Out.folioCommit k d0.commitRecord ∈ d.out) ∧
      (d0.memWf → own + 64 ≤ stackSize → d0.leafOf own = none → d0.leafOf (own + d0.commitRecord.length - 1) = none →
        Mem.read d.mem own d0.commitRecord.length = d0.commitRecord))) ∧
    ((st ≠ 2 ∨ d0.leavesDone = false) → Yields .folioCommit s (fun d => d = d0)) ∧
    (st = 3 → valid → Yields .folioValid s (fun d => d.fld .glFolioStatus F.glFolioStatus_VGEN = d0.folio.gen % 2 ^ 32 ∧
      d.fld .glFolioStatus F.glFolioStatus_LAST = 1 ∧ d.fld .glFolioStatus F.glFolioStatus_CAUSE = 0 ∧
      d.folioState = if d0.folio.requested.isSome then 1 else 0)) ∧
    ((st ≠ 3 ∨ ¬ valid) → Yields .folioValid s (fun d => d = d0)) ∧
    (d0.allows req .glFolioCtl 2 → st ∈ [1, 2, 3] → Yields (.folioAbort req) s (fun d => gone next 2 d ∧
      Out.folioAbandon next 2 ∈ d.out)) ∧
    (d0.allows req .glFolioCtl 2 → st = 4 → Yields (.folioAbort req) s (fun d => d.folioState = 0 ∧
      d.fld .glFolioStatus F.glFolioStatus_RCODE = 4 ∧ d.mem = d0.mem)) ∧
    (same → Yields (.abandonNotice gen cause) s (fun d => gone gen cause d ∧ d.out = d0.out)) ∧
    (¬ same → Yields (.abandonNotice gen cause) s (fun d => d = d0))

/-- R543 to R547: a restore starts, its generation is chosen and announced, it answers its code, and it ends; one that does not end OK
leaves everything as it was. Where the spec leaves a corner open, the clauses follow the model's choices of log entry 19. -/
def Obligations.FolioRestore : Prop :=
  ∀ (s : State) (req : Req) (mask : Word) (leaves r gen low n : Nat) (lost : List Nat) (x : RestoreRows),
    let d0 := s.dev
    let st := d0.folioState
    let old := { d0 with folio := { d0.folio with oldMask := mask } }
    let mine := ((d0.validHalf old.oldG leaves none).map (·.2)).getD 0
    let starts := d0.folioOn = true ∧ st = 0 ∧ d0.serialsZero = true
    let chooses := st = 4 ∧ d0.rank = 0 ∧ r < d0.folioG ∧ d0.folio.chosen = none
    let xs := tset r gen d0.folio.choices
    let found := (∃ h, h < 2 ∧ d0.halfGen d0.oldG d0.folio.oldL h = some gen) ∧ gen ≠ 0
    let code := (d0.restoreTo gen lost x).2
    (d0.allows req .glFolioCtl 4 → starts → Yields (.restore req mask leaves) s (fun d => d.folioState = 4 ∧
      d.folio.oldMask = mask ∧ d.folio.oldL = leaves ∧ d.folio.rcode = none ∧
      if d0.rank = 0 then d.folio.choices = [(0, mine)] ∧ d.out = d0.out
      else d.folio.choices = [] ∧ d.out = d0.out ++ [.folioChoice d0.rank mine])) ∧
    (¬ starts → Yields (.restore req mask leaves) s (fun d => d = d0)) ∧
    (chooses → xs.length < d0.folioG → Yields (.restoreChoice r gen) s (fun d => d.folio = { d0.folio with choices := xs } ∧
      d.out = d0.out)) ∧
    (chooses → d0.folioG ≤ xs.length → (∀ p ∈ xs, low ≤ p.2) → (∃ p ∈ xs, p.2 = low) → Yields (.restoreChoice r gen) s (fun d =>
      d.folio.chosen = some low ∧ d.out = d0.out ++ [.folioAnnounce low])) ∧
    (¬ chooses → Yields (.restoreChoice r gen) s (fun d => d = d0)) ∧
    (st = 4 → d0.folio.rcode = none → Yields (.restoreAnnouncement gen lost x) s (fun d => d.folio.rcode = some code ∧
      d.folioState = 4 ∧ d.tide = d0.tide ∧
      (code ≠ 1 → d.mem = d0.mem ∧ d.regs = d0.regs ∧ d.queues = d0.queues ∧ d.plants = d0.plants) ∧
      (code = 1 → d.folio.gen = gen ∧ d.fld .glFolioStatus F.glFolioStatus_VGEN = gen % 2 ^ 32) ∧
      (¬ found → code = 2) ∧
      (found → d0.rd .glFolioMembers ≠ d0.folio.oldMask → d0.flag .glImgInfo F.glImgInfo_RESHAPE = false → code = 4) ∧
      (found → 2 < lost.length → code = 4))) ∧
    ((st ≠ 4 ∨ d0.folio.rcode ≠ none) → Yields (.restoreAnnouncement gen lost x) s (fun d => d = d0)) ∧
    (st = 4 → d0.folio.rcode = some n → Yields .restoreEnd s (fun d => d.folioState = 0 ∧
      d.fld .glFolioStatus F.glFolioStatus_RCODE = n % 16 ∧ d.folio.rcode = none ∧ d.mem = d0.mem)) ∧
    (d0.folio.rcode = none → Yields .restoreEnd s (fun d => d = d0))

/-! ### The management port (20) -/

/-- R561 to R565 (and 16 R449, R466 to R469, R472, R476): the answers of the management port and what its commands change. Where the
spec leaves a corner open, the clauses follow the model's choices of log entries 24 and 25. -/
def Obligations.ManagementPort : Prop :=
  ∀ (s : State) (tag c cap floor warn rst first count id q len : Nat) (full : Bool) (nonce bs : List Byte) (b : Board) (req : Req)
      (v : Option Nat),
    let d0 := s.dev
    let on := d0.custodianOn = true
    let replies := fun (code st : Nat) (data : List Byte) (d : Dev) => d.out = d0.out ++ [.mgmtReply code tag st data] ∧
      d.mem = d0.mem ∧ d.cores = d0.cores ∧ d.queues = d0.queues ∧
      d.fld .glMgmtStatus F.glMgmtStatus_COMMANDS = (d0.fld .glMgmtStatus F.glMgmtStatus_COMMANDS + 1) % 2 ^ 16
    let capW := F.glPwrCap_CAP.put cap (F.glPwrCap_FLOOR.put floor 0)
    let thrW := F.glSupplyCfg_WARN.put warn (F.glSupplyCfg_RESET.put rst 0)
    let busy := d0.flag .glFenceCtl F.glFenceCtl_BUSY = true ∨ (d0.core c).fence.isSome = true
    let testing := d0.flag (.coreSound c) F.coreSound_BUSY = true ∨ (d0.core c).fence.isSome = true
    let report := d0.attestReport b q nonce ++ (List.range 5396).map (Config.attestSigByte d0.leaf q)
    let key := bs.take 60
    let proved := full = true ∨ ∃ k, d0.ownerKey = some k ∧ hssVerify k (bs.drop 60) key = true
    let msg := d0.mboxBytes len
    let resp := enterprise ++ bytesOf 1 1 ++ bytesOf 1 (numAt msg 5 1) ++ bytesOf 1 0 ++ d0.healthBytes d0.mgmt.seq
    (on → Yields .healthSummary s (fun d => d.out = d0.out ++ [.health (d0.healthBytes d0.mgmt.seq)] ∧ d.mgmt.due = false ∧
      d.mgmt.seq = (d0.mgmt.seq + 1) % 2 ^ 32 ∧ d.mgmt.sentAt = d0.cycle ∧ d.mem = d0.mem)) ∧
    (on → Yields (.healthGet tag) s (replies 1 0 (d0.healthBytes d0.mgmt.seq))) ∧
    (on → d0.nCores ≤ c → Yields (.fenceCore tag c full) s (replies 2 1 []) ∧ Yields (.sound tag c full) s (replies 3 1 [])) ∧
    (on → c < d0.nCores → (busy ∨ (d0.core c).sound.isSome = true) → Yields (.fenceCore tag c full) s (replies 2 2 [])) ∧
    (on → c < d0.nCores → ¬ busy → (d0.core c).sound = none → d0.coreFenced c = true →
      Yields (.fenceCore tag c full) s (replies 2 0 (bytesOf 1 1))) ∧
    (on → c < d0.nCores → ¬ busy → (d0.core c).sound = none → d0.coreFenced c = false → Yields (.fenceCore tag c full) s (fun d =>
      d.coreFenced c = true ∧ d.fld .glFenceCtl F.glFenceCtl_BUSY = 1 ∧
      ∃ f, (d.core c).fence = some f ∧ f.cause = 4 ∧ f.record = full ∧ f.mgmt = some (tag % 256))) ∧
    (on → c < d0.nCores → testing → Yields (.sound tag c full) s (replies 3 2 [])) ∧
    (on → c < d0.nCores → ¬ testing → Yields (.sound tag c full) s (fun d => d.out = d0.out ∧
      (d.core c).sound = some ⟨full, none, some (tag % 256)⟩ ∧ d.fld (.coreSound c) F.coreSound_BUSY = 1)) ∧
    (on → cap < 8192 → floor < 8192 → d0.writeTaken .glPwrCap capW = true → Yields (.setCap tag cap floor) s (fun d =>
      replies 4 0 (bytesOf 8 (d.rd .glPwrCap).toNat) d ∧ d.fld .glPwrCap F.glPwrCap_CAP = cap ∧
      d.fld .glPwrCap F.glPwrCap_FLOOR = floor ∧ d.live .glPwrCap = d0.live .glPwrCap)) ∧
    (on → cap < 8192 → floor < 8192 → d0.writeTaken .glPwrCap capW = false → Yields (.setCap tag cap floor) s (replies 4 3 [])) ∧
    (on → warn < 256 → rst < 256 → Yields (.setThresh tag warn rst) s (fun d =>
      if d0.writeTaken .glSupplyCfg thrW = true then replies 5 0 (bytesOf 8 (d.rd .glSupplyCfg).toNat) d ∧
        d.fld .glSupplyCfg F.glSupplyCfg_WARN = warn ∧ d.fld .glSupplyCfg F.glSupplyCfg_RESET = rst
      else replies 5 3 [] d)) ∧
    (on → Yields (.logFetch tag first count) s (if first < 16384 ∧ 1 ≤ count ∧ count ≤ 30
      then replies 6 0 (bytesOf 8 (d0.rd .clStatus).toNat ++ (List.range count).flatMap (fun j => d0.logBytes ((first + j) % 16384)))
      else replies 6 1 [])) ∧
    (on → Yields (.mgmtReset tag) s (fun d => Out.mgmtReply 7 tag 0 [] ∈ d.out ∧ d.mem = [] ∧ d.queues = [] ∧ d.cores = [] ∧
      d.fld .glImgStatus F.glImgStatus_STATE = 0)) ∧
    (on → nonce.length = 32 → d0.flag .glBootStatus F.glBootStatus_ATTEST = true → d0.board = some b → d0.topq = some q → d0.leaf < 1024 →
      Yields (.managementAttest tag nonce) s (fun d => d.leaf = d0.leaf + 1 ∧
        d.out = d0.out ++ (cutReply 8 report).map (fun x => .mgmtReply 8 tag 0 x))) ∧
    (on → nonce.length = 32 → (d0.flag .glBootStatus F.glBootStatus_ATTEST = false ∨ 1024 ≤ d0.leaf) →
      Yields (.managementAttest tag nonce) s (replies 8 4 [])) ∧
    (on → nonce.length ≠ 32 → Yields (.managementAttest tag nonce) s (replies 8 1 [])) ∧
    (on → 60 ≤ bs.length → d0.board = some b → hssKeyOk key = true → (b.fuse = false ∨ proved) →
      Yields (.managementOwnerSet tag bs full) s (fun d => d.board = some { b with ownerKey := some key, fuse := true } ∧
        Out.flashOwner key ∈ d.out ∧ Out.mgmtReply 9 tag 0 [] ∈ d.out)) ∧
    (on → 60 ≤ bs.length → d0.board = some b → b.fuse = true → ¬ proved →
      Yields (.managementOwnerSet tag bs full) s (fun d => replies 9 3 [] d ∧ d.board = d0.board)) ∧
    (on → d0.torusIn id = false → Yields (.reparent tag id) s (replies 0x0A 1 []) ∧ Yields (.addChild tag id) s (replies 0x0B 1 []) ∧
      Yields (.dropChild tag id) s (replies 0x0C 1 [])) ∧
    (on → d0.torusIn id = true → Yields (.reparent tag id) s (fun d => d.parent = id ∧ d.bcast.reparent = some id ∧
      Out.mgmtReply 0x0A tag 0 [] ∈ d.out ∧
      ((d0.bcastState = 3 ∨ d0.bcastState = 5) → d.bcastState = 4 ∧ d.bcast.chunks = 0))) ∧
    (on → d0.torusIn id = true → d0.bcast.verified = false → Yields (.addChild tag id) s (replies 0x0B 3 [])) ∧
    (on → d0.torusIn id = true → d0.bcast.verified = true → Yields (.addChild tag id) s (fun d => id ∈ d.bcast.extra ∧
      id ∉ d.bcast.dropped ∧ Out.mgmtReply 0x0B tag 0 [] ∈ d.out ∧
      ∀ j, j < d0.bcast.chunks → Out.chunk id d0.bcast.root d0.bcast.size j ∈ d.out)) ∧
    (on → d0.torusIn id = true → Yields (.dropChild tag id) s (fun d => id ∈ d.bcast.dropped ∧ id ∉ d.bcast.extra ∧
      id ∉ d.children ∧ Out.mgmtReply 0x0C tag 0 [] ∈ d.out)) ∧
    (on → Yields (.mctpControl (.setEid c)) s (fun d => d.fld .glMgmtStatus F.glMgmtStatus_EID = c % 256 ∧
      d.out = d0.out ++ [.mctp (bytesOf 1 (c % 256))])) ∧
    (on → Yields (.mctpControl .getEid) s (fun d => d.regs = d0.regs ∧
      d.out = d0.out ++ [.mctp (bytesOf 1 (d0.fld .glMgmtStatus F.glMgmtStatus_EID))])) ∧
    (on → Yields (.mctpControl .getTypes) s (fun d => d.regs = d0.regs ∧ d.out = d0.out ++ [.mctp [0x00, 0x01, 0x7F]])) ∧
    (on → Yields (.pldmMonitoring (.sensor id)) s (fun d => d.regs = d0.regs ∧
      d.out = d0.out ++ [.pldm (((d0.sensor id).map (bytesOf 2)).getD [])])) ∧
    (on → Yields (.pldmFirmwareUpdate (.data bs)) s (fun d => d.mgmt.fw = d0.mgmt.fw ++ bs ∧ d.board = d0.board)) ∧
    (on → d0.board = some b → Yields (.pldmFirmwareUpdate (.finish v)) s (fun d => Out.flashFirmware d0.mgmt.fw ∈ d.out ∧
      d.board = some (if d0.mgmt.runsB then { b with fwA := v } else { b with fwB := v }) ∧
      d.fld .glBootStatus F.glBootStatus_FWVER = d0.fld .glBootStatus F.glBootStatus_FWVER)) ∧
    (d0.pwrGood = true → Yields (.i3cDynamicAddressAssignment c) s (fun d => d.fld .glMgmtStatus F.glMgmtStatus_DADDR = c % 128 ∧
      d.fld .glMgmtStatus F.glMgmtStatus_DVALID = 1)) ∧
    (d0.allows req .hlMboxCtl (mboxWord 4 len) → (req = .host → d0.replayed 4 = false ∧ d0.recording 4 = false) →
      d0.flag .hlMboxCtl F.hlMboxCtl_BUSY = false → on → len = 6 → msg.take 4 = enterprise → numAt msg 4 1 = 1 →
      Yields (.mgmt req len full) s (fun d => d.fld .hlMboxCtl F.hlMboxCtl_STATUS = 0 ∧ d.mboxBytes resp.length = resp ∧
        d.fld .hlMboxCtl F.hlMboxCtl_DONE = 1))

/-! ### Commands that complete -/

/-- 17 R484, 07 R180, R182, 10 R294 to R297: where a held-back command re-executes, a vector routine starts, its loops open, run again
or close, it ends, and a mover copies within its core store, the command answers a next state with that effect. Where the spec leaves a
corner open, the clauses follow the model's choices of log entry 16. -/
def Obligations.EngineCommandsComplete : Prop :=
  ∀ (s : State) (c q rtn : Nat) (ws : List Word) (cmd : Instr) (x : VxIns) (r : Run) (l : VLoop) (ls : List VLoop),
    let d0 := s.dev
    let k := d0.core c
    let t := d0.qTarget q
    let w := d0.paramBlock (d0.qHome q) (dPblk ws)
    let g := dmParam w
    let site : DmSite := ⟨t, d0.rootOf (d0.qHome q)⟩
    let es := d0.dmElems site rtn w
    let check := match rtn with
      | 0x100 => plainCheck false w
      | 0x101 => plainCheck true w
      | 0x102 => d0.listCheck [] site false w
      | _ => d0.listCheck [] site true w
    (d0.retryRun q = some r → d0.frozenRun q r = false → d0.qKind q = 0 → dRtn r.desc ≠ 0x140 → d0.noInj t →
        (∀ u ∈ r.todo, ∀ y ∈ u, y.sp = .core t) →
      Yields (.checkReexecution q none) s (fun d =>
        (∀ y ∈ (d.queue q).runs, y.serial = r.serial → y.retrying = false ∧ y.todo = []) ∧
        ∀ a, Mem.get (d.core t).store a = Mem.get ((d0.applyUnits {} r.todo).core t).store a)) ∧
    (d0.startable q rtn = some ws → d0.qKind q = 2 → bankRoutine 2 rtn = true →
      Yields (.vectorCommand q {}) s (fun d => (d.core t).vpc = 0 ∧ (d.core t).vloops = [] ∧ (d.core t).vskip = 0 ∧
        ∃ z, (d.queue q).runs = (d0.queue q).runs ++ [z] ∧ z.desc = ws ∧ z.done = false)) ∧
    (d0.vxAt c q r → vxLegal x true false = true →
      (k.vloops.length < 4 → d0.scal c x.va ≠ 0 → Yields (.vxLoop c x) s (fun d => (d.core c).vpc = k.vpc + 1 ∧
        (d.core c).vloops = ⟨k.vpc + 1, d0.scal c x.va⟩ :: k.vloops)) ∧
      (k.vloops.length < 4 → d0.scal c x.va = 0 → Yields (.vxLoop c x) s (fun d => (d.core c).vskip = 1)) ∧
      (k.vloops = l :: ls → 1 < l.left → Yields (.vxEndloop c x) s (fun d => (d.core c).vpc = l.start ∧
        (d.core c).vloops = ⟨l.start, l.left - 1⟩ :: ls)) ∧
      (k.vloops = l :: ls → l.left ≤ 1 → Yields (.vxEndloop c x) s (fun d => (d.core c).vpc = k.vpc + 1 ∧
        (d.core c).vloops = ls)) ∧
      Yields (.vxEnd c x) s (Dev.ended q r.serial r.status)) ∧
    ((rtn, cmd) ∈ [(0x100, .dmCopy q {}), (0x101, .dmStride q {}), (0x102, .dmGather q {}), (0x103, .dmScatter q {})] →
      d0.startable q rtn = some ws → check = 0 → g.scs = true → g.dcs = true → (rtn = 0x102 ∨ rtn = 0x103 → g.lcs = true) →
      d0.memWf → d0.fresh q → d0.noInj t → d0.badWords = [] →
      Yields cmd s (fun d => d0.started q ws 0 d ∧
        ∀ p src dst n u, es = p ++ (src, dst, n) :: u → ∀ i, i < n → (∀ y ∈ u, dst + i < y.2.1 ∨ y.2.1 + y.2.2 ≤ dst + i) →
          Mem.get (d.core t).store (dst + i) = Mem.get (d0.core t).store (src + i)))

/-- 13 R373, R375, R389 to R391: where a collective of a valid group starts, and where a group is aborted or reset, the command answers
a next state with that effect. Where the spec leaves a corner open, the clauses follow the model's choices of log entries 37 and 38. -/
def Obligations.CollectiveCommandsComplete : Prop :=
  ∀ (s : State) (q rtn g : Nat) (ws : List Word) (cmd : Instr) (req : Req),
    let d0 := s.dev
    let w := d0.paramBlock (d0.qHome q) (dPblk ws)
    let k := bits (wd w 3) 5 0
    let broken := fun (d : Dev) => (∀ c ∈ d.fabric.colls, c.group ≠ g) ∧ d.fld (.fbGstat g) F.fbGstat_STATE = 2 ∧
      ∀ c ∈ d0.fabric.colls, c.group ≠ g → c ∈ d.fabric.colls
    ((rtn, cmd) ∈ [(0x610, .fbAllreduce q), (0x611, .fbRscat q), (0x612, .fbAgather q), (0x613, .fbBcast q), (0x614, .fbBarrier q)] →
      d0.startable q rtn = some ws → collBad rtn w = false → d0.collGroupBad rtn k (bits (wd w 3) 29 16) = false →
      d0.fld (.fbGstat k) F.fbGstat_STATE ≠ 2 → d0.fabric.arrivals = [] →
      Yields cmd s (fun d => d0.started q ws 0 d ∧ d.fld (.fbGstat k) F.fbGstat_STATE = 1 ∧
        d.fld (.fbGstat k) F.fbGstat_SEQ = (d0.fld (.fbGstat k) F.fbGstat_SEQ + 1) % 2 ^ 32 ∧
        ∃ c ∈ d.fabric.colls, c.queue = q ∧ c.group = k ∧ c.routine = rtn ∧ c.seq = d0.fld (.fbGstat k) F.fbGstat_SEQ)) ∧
    (g < 64 → Yields (.abortToken g) s broken) ∧
    (d0.allows req (.fbGstat g) (BitVec.ofNat 64 (2 ^ 40)) → Yields (.fbGstatAbort req g) s broken) ∧
    (d0.allows req (.fbGstat g) (BitVec.ofNat 64 (2 ^ 41)) → (∀ c ∈ d0.fabric.colls, c.group ≠ g) →
      Yields (.fbGstatReset req g) s (fun d => d.fld (.fbGstat g) F.fbGstat_STATE = 0 ∧ d.fld (.fbGstat g) F.fbGstat_SEQ = 0))
end

