-- ==== Sys2Proof/Laws/Tables.lean ====
section
/-! SUPPORT. The laws of tables (Machine/Bits.lean): a key reads what was last set at it, and no other key changes. -/

namespace Sys2Proof.Machine

variable {κ α : Type} [DecidableEq κ]

/-- A key reads the value set at it. -/
@[simp] theorem tget_tset_same (d v : α) (k : κ) (t : List (κ × α)) : tget d k (tset k v t) = v := by
  induction t with
  | nil => simp [tset, tget]
  | cons p t ih =>
    obtain ⟨k', v'⟩ := p
    by_cases h : k = k' <;> simp [tset, tget, h, ih]

/-- Setting a key leaves every other key as it was. -/
theorem tget_tset_ne (d v : α) {k j : κ} (t : List (κ × α)) (h : j ≠ k) : tget d j (tset k v t) = tget d j t := by
  induction t with
  | nil => simp [tset, tget, h]
  | cons p t ih =>
    obtain ⟨k', v'⟩ := p
    by_cases hk : k = k'
    · subst hk; simp [tset, tget, h]
    · by_cases hj : j = k' <;> simp [tset, tget, hk, hj, ih]

/-- Reading any key after a set, in one equation. -/
theorem tget_tset (d v : α) (k j : κ) (t : List (κ × α)) :
    tget d j (tset k v t) = if j = k then v else tget d j t := by
  by_cases h : j = k
  · subst h; simp
  · simp [h, tget_tset_ne]

/-- A table with a key removed reads the default at it. -/
@[simp] theorem tget_tdel_same (d : α) (k : κ) (t : List (κ × α)) : tget d k (tdel k t) = d := by
  induction t with
  | nil => rfl
  | cons p t ih =>
    obtain ⟨k', v'⟩ := p
    by_cases h : k = k' <;> simp [tdel, tget, h]
    · rw [← h]; exact ih
    · exact ih

/-- A property of every value of a table holds of every value after a set, if it holds of the value set. -/
theorem tset_all {P : α → Prop} (k : κ) (v : α) (t : List (κ × α)) (hv : P v) (ht : ∀ p ∈ t, P p.2) :
    ∀ p ∈ tset k v t, P p.2 := by
  induction t with
  | nil => intro p hp; simp [tset] at hp; subst hp; exact hv
  | cons q t ih =>
    obtain ⟨k', v'⟩ := q
    intro p hp
    by_cases h : k = k'
    · simp only [tset, h, if_true, List.mem_cons] at hp
      rcases hp with rfl | hp
      · exact hv
      · exact ht p (List.mem_cons_of_mem _ hp)
    · simp only [tset, h, if_false, List.mem_cons] at hp
      rcases hp with rfl | hp
      · exact ht _ (List.mem_cons_self ..)
      · exact ih (fun p hp => ht p (List.mem_cons_of_mem _ hp)) p hp

/-- What a key reads has the property of every value, if the default has it. -/
theorem tget_all {P : α → Prop} (d : α) (k : κ) (t : List (κ × α)) (hd : P d) (ht : ∀ p ∈ t, P p.2) :
    P (tget d k t) := by
  induction t with
  | nil => exact hd
  | cons q t ih =>
    obtain ⟨k', v'⟩ := q
    by_cases h : k = k'
    · simpa [tget, h] using ht _ (List.mem_cons_self ..)
    · simpa [tget, h] using ih (fun p hp => ht p (List.mem_cons_of_mem _ hp))

end Sys2Proof.Machine
end

