-- ==== Sys2Proof/Laws/State.lean ====
section
/-! SUPPORT. The laws of the state's updates: one lemma per field and update, so that no proof unfolds an update, and what a register,
a unit and a field read after one. -/

namespace Sys2Proof.Machine

variable (d : Dev)


/-! ### Dev.wr -/

@[simp] theorem Dev.wr_held (r : Reg) (w : Word) : (d.wr r w).held = d.held := rfl
@[simp] theorem Dev.wr_cycle (r : Reg) (w : Word) : (d.wr r w).cycle = d.cycle := rfl
@[simp] theorem Dev.wr_ptime (r : Reg) (w : Word) : (d.wr r w).ptime = d.ptime := rfl
@[simp] theorem Dev.wr_tide (r : Reg) (w : Word) : (d.wr r w).tide = d.tide := rfl
@[simp] theorem Dev.wr_capInForce (r : Reg) (w : Word) : (d.wr r w).capInForce = d.capInForce := rfl
@[simp] theorem Dev.wr_mem (r : Reg) (w : Word) : (d.wr r w).mem = d.mem := rfl
@[simp] theorem Dev.wr_far (r : Reg) (w : Word) : (d.wr r w).far = d.far := rfl
@[simp] theorem Dev.wr_badWords (r : Reg) (w : Word) : (d.wr r w).badWords = d.badWords := rfl
@[simp] theorem Dev.wr_cache (r : Reg) (w : Word) : (d.wr r w).cache = d.cache := rfl
@[simp] theorem Dev.wr_cores (r : Reg) (w : Word) : (d.wr r w).cores = d.cores := rfl
@[simp] theorem Dev.wr_ccs (r : Reg) (w : Word) : (d.wr r w).ccs = d.ccs := rfl
@[simp] theorem Dev.wr_queues (r : Reg) (w : Word) : (d.wr r w).queues = d.queues := rfl
@[simp] theorem Dev.wr_fabric (r : Reg) (w : Word) : (d.wr r w).fabric = d.fabric := rfl
@[simp] theorem Dev.wr_plants (r : Reg) (w : Word) : (d.wr r w).plants = d.plants := rfl
@[simp] theorem Dev.wr_hostLink (r : Reg) (w : Word) : (d.wr r w).hostLink = d.hostLink := rfl
@[simp] theorem Dev.wr_perst (r : Reg) (w : Word) : (d.wr r w).perst = d.perst := rfl
@[simp] theorem Dev.wr_bias (r : Reg) (w : Word) : (d.wr r w).bias = d.bias := rfl
@[simp] theorem Dev.wr_bcast (r : Reg) (w : Word) : (d.wr r w).bcast = d.bcast := rfl
@[simp] theorem Dev.wr_board (r : Reg) (w : Word) : (d.wr r w).board = d.board := rfl
@[simp] theorem Dev.wr_boot (r : Reg) (w : Word) : (d.wr r w).boot = d.boot := rfl
@[simp] theorem Dev.wr_ownerKey (r : Reg) (w : Word) : (d.wr r w).ownerKey = d.ownerKey := rfl
@[simp] theorem Dev.wr_topq (r : Reg) (w : Word) : (d.wr r w).topq = d.topq := rfl
@[simp] theorem Dev.wr_leaf (r : Reg) (w : Word) : (d.wr r w).leaf = d.leaf := rfl
@[simp] theorem Dev.wr_custQ (r : Reg) (w : Word) : (d.wr r w).custQ = d.custQ := rfl
@[simp] theorem Dev.wr_custLost (r : Reg) (w : Word) : (d.wr r w).custLost = d.custLost := rfl
@[simp] theorem Dev.wr_log (r : Reg) (w : Word) : (d.wr r w).log = d.log := rfl
@[simp] theorem Dev.wr_cmpRun (r : Reg) (w : Word) : (d.wr r w).cmpRun = d.cmpRun := rfl
@[simp] theorem Dev.wr_escal (r : Reg) (w : Word) : (d.wr r w).escal = d.escal := rfl
@[simp] theorem Dev.wr_resetCause (r : Reg) (w : Word) : (d.wr r w).resetCause = d.resetCause := rfl
@[simp] theorem Dev.wr_corr (r : Reg) (w : Word) : (d.wr r w).corr = d.corr := rfl
@[simp] theorem Dev.wr_jhold (r : Reg) (w : Word) : (d.wr r w).jhold = d.jhold := rfl
@[simp] theorem Dev.wr_faultN (r : Reg) (w : Word) : (d.wr r w).faultN = d.faultN := rfl
@[simp] theorem Dev.wr_pwrGood (r : Reg) (w : Word) : (d.wr r w).pwrGood = d.pwrGood := rfl
@[simp] theorem Dev.wr_supplyWarnN (r : Reg) (w : Word) : (d.wr r w).supplyWarnN = d.supplyWarnN := rfl
@[simp] theorem Dev.wr_stackT (r : Reg) (w : Word) : (d.wr r w).stackT = d.stackT := rfl
@[simp] theorem Dev.wr_junction (r : Reg) (w : Word) : (d.wr r w).junction = d.junction := rfl
@[simp] theorem Dev.wr_recd (r : Reg) (w : Word) : (d.wr r w).recd = d.recd := rfl
@[simp] theorem Dev.wr_snap (r : Reg) (w : Word) : (d.wr r w).snap = d.snap := rfl
@[simp] theorem Dev.wr_folio (r : Reg) (w : Word) : (d.wr r w).folio = d.folio := rfl
@[simp] theorem Dev.wr_mgmt (r : Reg) (w : Word) : (d.wr r w).mgmt = d.mgmt := rfl
@[simp] theorem Dev.wr_out (r : Reg) (w : Word) : (d.wr r w).out = d.out := rfl
@[simp] theorem Dev.wr_free (r : Reg) (w : Word) : (d.wr r w).free = d.free := rfl

/-! ### Dev.setFld -/

@[simp] theorem Dev.setFld_held (r : Reg) (f : Fld) (n : Nat) : (d.setFld r f n).held = d.held := rfl
@[simp] theorem Dev.setFld_cycle (r : Reg) (f : Fld) (n : Nat) : (d.setFld r f n).cycle = d.cycle := rfl
@[simp] theorem Dev.setFld_ptime (r : Reg) (f : Fld) (n : Nat) : (d.setFld r f n).ptime = d.ptime := rfl
@[simp] theorem Dev.setFld_tide (r : Reg) (f : Fld) (n : Nat) : (d.setFld r f n).tide = d.tide := rfl
@[simp] theorem Dev.setFld_capInForce (r : Reg) (f : Fld) (n : Nat) : (d.setFld r f n).capInForce = d.capInForce := rfl
@[simp] theorem Dev.setFld_mem (r : Reg) (f : Fld) (n : Nat) : (d.setFld r f n).mem = d.mem := rfl
@[simp] theorem Dev.setFld_far (r : Reg) (f : Fld) (n : Nat) : (d.setFld r f n).far = d.far := rfl
@[simp] theorem Dev.setFld_badWords (r : Reg) (f : Fld) (n : Nat) : (d.setFld r f n).badWords = d.badWords := rfl
@[simp] theorem Dev.setFld_cache (r : Reg) (f : Fld) (n : Nat) : (d.setFld r f n).cache = d.cache := rfl
@[simp] theorem Dev.setFld_cores (r : Reg) (f : Fld) (n : Nat) : (d.setFld r f n).cores = d.cores := rfl
@[simp] theorem Dev.setFld_ccs (r : Reg) (f : Fld) (n : Nat) : (d.setFld r f n).ccs = d.ccs := rfl
@[simp] theorem Dev.setFld_queues (r : Reg) (f : Fld) (n : Nat) : (d.setFld r f n).queues = d.queues := rfl
@[simp] theorem Dev.setFld_fabric (r : Reg) (f : Fld) (n : Nat) : (d.setFld r f n).fabric = d.fabric := rfl
@[simp] theorem Dev.setFld_plants (r : Reg) (f : Fld) (n : Nat) : (d.setFld r f n).plants = d.plants := rfl
@[simp] theorem Dev.setFld_hostLink (r : Reg) (f : Fld) (n : Nat) : (d.setFld r f n).hostLink = d.hostLink := rfl
@[simp] theorem Dev.setFld_perst (r : Reg) (f : Fld) (n : Nat) : (d.setFld r f n).perst = d.perst := rfl
@[simp] theorem Dev.setFld_bias (r : Reg) (f : Fld) (n : Nat) : (d.setFld r f n).bias = d.bias := rfl
@[simp] theorem Dev.setFld_bcast (r : Reg) (f : Fld) (n : Nat) : (d.setFld r f n).bcast = d.bcast := rfl
@[simp] theorem Dev.setFld_board (r : Reg) (f : Fld) (n : Nat) : (d.setFld r f n).board = d.board := rfl
@[simp] theorem Dev.setFld_boot (r : Reg) (f : Fld) (n : Nat) : (d.setFld r f n).boot = d.boot := rfl
@[simp] theorem Dev.setFld_ownerKey (r : Reg) (f : Fld) (n : Nat) : (d.setFld r f n).ownerKey = d.ownerKey := rfl
@[simp] theorem Dev.setFld_topq (r : Reg) (f : Fld) (n : Nat) : (d.setFld r f n).topq = d.topq := rfl
@[simp] theorem Dev.setFld_leaf (r : Reg) (f : Fld) (n : Nat) : (d.setFld r f n).leaf = d.leaf := rfl
@[simp] theorem Dev.setFld_custQ (r : Reg) (f : Fld) (n : Nat) : (d.setFld r f n).custQ = d.custQ := rfl
@[simp] theorem Dev.setFld_custLost (r : Reg) (f : Fld) (n : Nat) : (d.setFld r f n).custLost = d.custLost := rfl
@[simp] theorem Dev.setFld_log (r : Reg) (f : Fld) (n : Nat) : (d.setFld r f n).log = d.log := rfl
@[simp] theorem Dev.setFld_cmpRun (r : Reg) (f : Fld) (n : Nat) : (d.setFld r f n).cmpRun = d.cmpRun := rfl
@[simp] theorem Dev.setFld_escal (r : Reg) (f : Fld) (n : Nat) : (d.setFld r f n).escal = d.escal := rfl
@[simp] theorem Dev.setFld_resetCause (r : Reg) (f : Fld) (n : Nat) : (d.setFld r f n).resetCause = d.resetCause := rfl
@[simp] theorem Dev.setFld_corr (r : Reg) (f : Fld) (n : Nat) : (d.setFld r f n).corr = d.corr := rfl
@[simp] theorem Dev.setFld_jhold (r : Reg) (f : Fld) (n : Nat) : (d.setFld r f n).jhold = d.jhold := rfl
@[simp] theorem Dev.setFld_faultN (r : Reg) (f : Fld) (n : Nat) : (d.setFld r f n).faultN = d.faultN := rfl
@[simp] theorem Dev.setFld_pwrGood (r : Reg) (f : Fld) (n : Nat) : (d.setFld r f n).pwrGood = d.pwrGood := rfl
@[simp] theorem Dev.setFld_supplyWarnN (r : Reg) (f : Fld) (n : Nat) : (d.setFld r f n).supplyWarnN = d.supplyWarnN := rfl
@[simp] theorem Dev.setFld_stackT (r : Reg) (f : Fld) (n : Nat) : (d.setFld r f n).stackT = d.stackT := rfl
@[simp] theorem Dev.setFld_junction (r : Reg) (f : Fld) (n : Nat) : (d.setFld r f n).junction = d.junction := rfl
@[simp] theorem Dev.setFld_recd (r : Reg) (f : Fld) (n : Nat) : (d.setFld r f n).recd = d.recd := rfl
@[simp] theorem Dev.setFld_snap (r : Reg) (f : Fld) (n : Nat) : (d.setFld r f n).snap = d.snap := rfl
@[simp] theorem Dev.setFld_folio (r : Reg) (f : Fld) (n : Nat) : (d.setFld r f n).folio = d.folio := rfl
@[simp] theorem Dev.setFld_mgmt (r : Reg) (f : Fld) (n : Nat) : (d.setFld r f n).mgmt = d.mgmt := rfl
@[simp] theorem Dev.setFld_out (r : Reg) (f : Fld) (n : Nat) : (d.setFld r f n).out = d.out := rfl
@[simp] theorem Dev.setFld_free (r : Reg) (f : Fld) (n : Nat) : (d.setFld r f n).free = d.free := rfl

/-! ### Dev.bump -/

@[simp] theorem Dev.bump_held (r : Reg) (f : Fld) (n : Nat) : (d.bump r f n).held = d.held := rfl
@[simp] theorem Dev.bump_cycle (r : Reg) (f : Fld) (n : Nat) : (d.bump r f n).cycle = d.cycle := rfl
@[simp] theorem Dev.bump_ptime (r : Reg) (f : Fld) (n : Nat) : (d.bump r f n).ptime = d.ptime := rfl
@[simp] theorem Dev.bump_tide (r : Reg) (f : Fld) (n : Nat) : (d.bump r f n).tide = d.tide := rfl
@[simp] theorem Dev.bump_capInForce (r : Reg) (f : Fld) (n : Nat) : (d.bump r f n).capInForce = d.capInForce := rfl
@[simp] theorem Dev.bump_mem (r : Reg) (f : Fld) (n : Nat) : (d.bump r f n).mem = d.mem := rfl
@[simp] theorem Dev.bump_far (r : Reg) (f : Fld) (n : Nat) : (d.bump r f n).far = d.far := rfl
@[simp] theorem Dev.bump_badWords (r : Reg) (f : Fld) (n : Nat) : (d.bump r f n).badWords = d.badWords := rfl
@[simp] theorem Dev.bump_cache (r : Reg) (f : Fld) (n : Nat) : (d.bump r f n).cache = d.cache := rfl
@[simp] theorem Dev.bump_cores (r : Reg) (f : Fld) (n : Nat) : (d.bump r f n).cores = d.cores := rfl
@[simp] theorem Dev.bump_ccs (r : Reg) (f : Fld) (n : Nat) : (d.bump r f n).ccs = d.ccs := rfl
@[simp] theorem Dev.bump_queues (r : Reg) (f : Fld) (n : Nat) : (d.bump r f n).queues = d.queues := rfl
@[simp] theorem Dev.bump_fabric (r : Reg) (f : Fld) (n : Nat) : (d.bump r f n).fabric = d.fabric := rfl
@[simp] theorem Dev.bump_plants (r : Reg) (f : Fld) (n : Nat) : (d.bump r f n).plants = d.plants := rfl
@[simp] theorem Dev.bump_hostLink (r : Reg) (f : Fld) (n : Nat) : (d.bump r f n).hostLink = d.hostLink := rfl
@[simp] theorem Dev.bump_perst (r : Reg) (f : Fld) (n : Nat) : (d.bump r f n).perst = d.perst := rfl
@[simp] theorem Dev.bump_bias (r : Reg) (f : Fld) (n : Nat) : (d.bump r f n).bias = d.bias := rfl
@[simp] theorem Dev.bump_bcast (r : Reg) (f : Fld) (n : Nat) : (d.bump r f n).bcast = d.bcast := rfl
@[simp] theorem Dev.bump_board (r : Reg) (f : Fld) (n : Nat) : (d.bump r f n).board = d.board := rfl
@[simp] theorem Dev.bump_boot (r : Reg) (f : Fld) (n : Nat) : (d.bump r f n).boot = d.boot := rfl
@[simp] theorem Dev.bump_ownerKey (r : Reg) (f : Fld) (n : Nat) : (d.bump r f n).ownerKey = d.ownerKey := rfl
@[simp] theorem Dev.bump_topq (r : Reg) (f : Fld) (n : Nat) : (d.bump r f n).topq = d.topq := rfl
@[simp] theorem Dev.bump_leaf (r : Reg) (f : Fld) (n : Nat) : (d.bump r f n).leaf = d.leaf := rfl
@[simp] theorem Dev.bump_custQ (r : Reg) (f : Fld) (n : Nat) : (d.bump r f n).custQ = d.custQ := rfl
@[simp] theorem Dev.bump_custLost (r : Reg) (f : Fld) (n : Nat) : (d.bump r f n).custLost = d.custLost := rfl
@[simp] theorem Dev.bump_log (r : Reg) (f : Fld) (n : Nat) : (d.bump r f n).log = d.log := rfl
@[simp] theorem Dev.bump_cmpRun (r : Reg) (f : Fld) (n : Nat) : (d.bump r f n).cmpRun = d.cmpRun := rfl
@[simp] theorem Dev.bump_escal (r : Reg) (f : Fld) (n : Nat) : (d.bump r f n).escal = d.escal := rfl
@[simp] theorem Dev.bump_resetCause (r : Reg) (f : Fld) (n : Nat) : (d.bump r f n).resetCause = d.resetCause := rfl
@[simp] theorem Dev.bump_corr (r : Reg) (f : Fld) (n : Nat) : (d.bump r f n).corr = d.corr := rfl
@[simp] theorem Dev.bump_jhold (r : Reg) (f : Fld) (n : Nat) : (d.bump r f n).jhold = d.jhold := rfl
@[simp] theorem Dev.bump_faultN (r : Reg) (f : Fld) (n : Nat) : (d.bump r f n).faultN = d.faultN := rfl
@[simp] theorem Dev.bump_pwrGood (r : Reg) (f : Fld) (n : Nat) : (d.bump r f n).pwrGood = d.pwrGood := rfl
@[simp] theorem Dev.bump_supplyWarnN (r : Reg) (f : Fld) (n : Nat) : (d.bump r f n).supplyWarnN = d.supplyWarnN := rfl
@[simp] theorem Dev.bump_stackT (r : Reg) (f : Fld) (n : Nat) : (d.bump r f n).stackT = d.stackT := rfl
@[simp] theorem Dev.bump_junction (r : Reg) (f : Fld) (n : Nat) : (d.bump r f n).junction = d.junction := rfl
@[simp] theorem Dev.bump_recd (r : Reg) (f : Fld) (n : Nat) : (d.bump r f n).recd = d.recd := rfl
@[simp] theorem Dev.bump_snap (r : Reg) (f : Fld) (n : Nat) : (d.bump r f n).snap = d.snap := rfl
@[simp] theorem Dev.bump_folio (r : Reg) (f : Fld) (n : Nat) : (d.bump r f n).folio = d.folio := rfl
@[simp] theorem Dev.bump_mgmt (r : Reg) (f : Fld) (n : Nat) : (d.bump r f n).mgmt = d.mgmt := rfl
@[simp] theorem Dev.bump_out (r : Reg) (f : Fld) (n : Nat) : (d.bump r f n).out = d.out := rfl
@[simp] theorem Dev.bump_free (r : Reg) (f : Fld) (n : Nat) : (d.bump r f n).free = d.free := rfl

/-! ### Dev.bumpWrap -/

@[simp] theorem Dev.bumpWrap_held (r : Reg) (f : Fld) (n : Nat) : (d.bumpWrap r f n).held = d.held := rfl
@[simp] theorem Dev.bumpWrap_cycle (r : Reg) (f : Fld) (n : Nat) : (d.bumpWrap r f n).cycle = d.cycle := rfl
@[simp] theorem Dev.bumpWrap_ptime (r : Reg) (f : Fld) (n : Nat) : (d.bumpWrap r f n).ptime = d.ptime := rfl
@[simp] theorem Dev.bumpWrap_tide (r : Reg) (f : Fld) (n : Nat) : (d.bumpWrap r f n).tide = d.tide := rfl
@[simp] theorem Dev.bumpWrap_capInForce (r : Reg) (f : Fld) (n : Nat) : (d.bumpWrap r f n).capInForce = d.capInForce := rfl
@[simp] theorem Dev.bumpWrap_mem (r : Reg) (f : Fld) (n : Nat) : (d.bumpWrap r f n).mem = d.mem := rfl
@[simp] theorem Dev.bumpWrap_far (r : Reg) (f : Fld) (n : Nat) : (d.bumpWrap r f n).far = d.far := rfl
@[simp] theorem Dev.bumpWrap_badWords (r : Reg) (f : Fld) (n : Nat) : (d.bumpWrap r f n).badWords = d.badWords := rfl
@[simp] theorem Dev.bumpWrap_cache (r : Reg) (f : Fld) (n : Nat) : (d.bumpWrap r f n).cache = d.cache := rfl
@[simp] theorem Dev.bumpWrap_cores (r : Reg) (f : Fld) (n : Nat) : (d.bumpWrap r f n).cores = d.cores := rfl
@[simp] theorem Dev.bumpWrap_ccs (r : Reg) (f : Fld) (n : Nat) : (d.bumpWrap r f n).ccs = d.ccs := rfl
@[simp] theorem Dev.bumpWrap_queues (r : Reg) (f : Fld) (n : Nat) : (d.bumpWrap r f n).queues = d.queues := rfl
@[simp] theorem Dev.bumpWrap_fabric (r : Reg) (f : Fld) (n : Nat) : (d.bumpWrap r f n).fabric = d.fabric := rfl
@[simp] theorem Dev.bumpWrap_plants (r : Reg) (f : Fld) (n : Nat) : (d.bumpWrap r f n).plants = d.plants := rfl
@[simp] theorem Dev.bumpWrap_hostLink (r : Reg) (f : Fld) (n : Nat) : (d.bumpWrap r f n).hostLink = d.hostLink := rfl
@[simp] theorem Dev.bumpWrap_perst (r : Reg) (f : Fld) (n : Nat) : (d.bumpWrap r f n).perst = d.perst := rfl
@[simp] theorem Dev.bumpWrap_bias (r : Reg) (f : Fld) (n : Nat) : (d.bumpWrap r f n).bias = d.bias := rfl
@[simp] theorem Dev.bumpWrap_bcast (r : Reg) (f : Fld) (n : Nat) : (d.bumpWrap r f n).bcast = d.bcast := rfl
@[simp] theorem Dev.bumpWrap_board (r : Reg) (f : Fld) (n : Nat) : (d.bumpWrap r f n).board = d.board := rfl
@[simp] theorem Dev.bumpWrap_boot (r : Reg) (f : Fld) (n : Nat) : (d.bumpWrap r f n).boot = d.boot := rfl
@[simp] theorem Dev.bumpWrap_ownerKey (r : Reg) (f : Fld) (n : Nat) : (d.bumpWrap r f n).ownerKey = d.ownerKey := rfl
@[simp] theorem Dev.bumpWrap_topq (r : Reg) (f : Fld) (n : Nat) : (d.bumpWrap r f n).topq = d.topq := rfl
@[simp] theorem Dev.bumpWrap_leaf (r : Reg) (f : Fld) (n : Nat) : (d.bumpWrap r f n).leaf = d.leaf := rfl
@[simp] theorem Dev.bumpWrap_custQ (r : Reg) (f : Fld) (n : Nat) : (d.bumpWrap r f n).custQ = d.custQ := rfl
@[simp] theorem Dev.bumpWrap_custLost (r : Reg) (f : Fld) (n : Nat) : (d.bumpWrap r f n).custLost = d.custLost := rfl
@[simp] theorem Dev.bumpWrap_log (r : Reg) (f : Fld) (n : Nat) : (d.bumpWrap r f n).log = d.log := rfl
@[simp] theorem Dev.bumpWrap_cmpRun (r : Reg) (f : Fld) (n : Nat) : (d.bumpWrap r f n).cmpRun = d.cmpRun := rfl
@[simp] theorem Dev.bumpWrap_escal (r : Reg) (f : Fld) (n : Nat) : (d.bumpWrap r f n).escal = d.escal := rfl
@[simp] theorem Dev.bumpWrap_resetCause (r : Reg) (f : Fld) (n : Nat) : (d.bumpWrap r f n).resetCause = d.resetCause := rfl
@[simp] theorem Dev.bumpWrap_corr (r : Reg) (f : Fld) (n : Nat) : (d.bumpWrap r f n).corr = d.corr := rfl
@[simp] theorem Dev.bumpWrap_jhold (r : Reg) (f : Fld) (n : Nat) : (d.bumpWrap r f n).jhold = d.jhold := rfl
@[simp] theorem Dev.bumpWrap_faultN (r : Reg) (f : Fld) (n : Nat) : (d.bumpWrap r f n).faultN = d.faultN := rfl
@[simp] theorem Dev.bumpWrap_pwrGood (r : Reg) (f : Fld) (n : Nat) : (d.bumpWrap r f n).pwrGood = d.pwrGood := rfl
@[simp] theorem Dev.bumpWrap_supplyWarnN (r : Reg) (f : Fld) (n : Nat) : (d.bumpWrap r f n).supplyWarnN = d.supplyWarnN := rfl
@[simp] theorem Dev.bumpWrap_stackT (r : Reg) (f : Fld) (n : Nat) : (d.bumpWrap r f n).stackT = d.stackT := rfl
@[simp] theorem Dev.bumpWrap_junction (r : Reg) (f : Fld) (n : Nat) : (d.bumpWrap r f n).junction = d.junction := rfl
@[simp] theorem Dev.bumpWrap_recd (r : Reg) (f : Fld) (n : Nat) : (d.bumpWrap r f n).recd = d.recd := rfl
@[simp] theorem Dev.bumpWrap_snap (r : Reg) (f : Fld) (n : Nat) : (d.bumpWrap r f n).snap = d.snap := rfl
@[simp] theorem Dev.bumpWrap_folio (r : Reg) (f : Fld) (n : Nat) : (d.bumpWrap r f n).folio = d.folio := rfl
@[simp] theorem Dev.bumpWrap_mgmt (r : Reg) (f : Fld) (n : Nat) : (d.bumpWrap r f n).mgmt = d.mgmt := rfl
@[simp] theorem Dev.bumpWrap_out (r : Reg) (f : Fld) (n : Nat) : (d.bumpWrap r f n).out = d.out := rfl
@[simp] theorem Dev.bumpWrap_free (r : Reg) (f : Fld) (n : Nat) : (d.bumpWrap r f n).free = d.free := rfl

/-! ### Dev.emit -/

@[simp] theorem Dev.emit_regs (o : Out) : (d.emit o).regs = d.regs := rfl
@[simp] theorem Dev.emit_held (o : Out) : (d.emit o).held = d.held := rfl
@[simp] theorem Dev.emit_cycle (o : Out) : (d.emit o).cycle = d.cycle := rfl
@[simp] theorem Dev.emit_ptime (o : Out) : (d.emit o).ptime = d.ptime := rfl
@[simp] theorem Dev.emit_tide (o : Out) : (d.emit o).tide = d.tide := rfl
@[simp] theorem Dev.emit_capInForce (o : Out) : (d.emit o).capInForce = d.capInForce := rfl
@[simp] theorem Dev.emit_mem (o : Out) : (d.emit o).mem = d.mem := rfl
@[simp] theorem Dev.emit_far (o : Out) : (d.emit o).far = d.far := rfl
@[simp] theorem Dev.emit_badWords (o : Out) : (d.emit o).badWords = d.badWords := rfl
@[simp] theorem Dev.emit_cache (o : Out) : (d.emit o).cache = d.cache := rfl
@[simp] theorem Dev.emit_cores (o : Out) : (d.emit o).cores = d.cores := rfl
@[simp] theorem Dev.emit_ccs (o : Out) : (d.emit o).ccs = d.ccs := rfl
@[simp] theorem Dev.emit_queues (o : Out) : (d.emit o).queues = d.queues := rfl
@[simp] theorem Dev.emit_fabric (o : Out) : (d.emit o).fabric = d.fabric := rfl
@[simp] theorem Dev.emit_plants (o : Out) : (d.emit o).plants = d.plants := rfl
@[simp] theorem Dev.emit_hostLink (o : Out) : (d.emit o).hostLink = d.hostLink := rfl
@[simp] theorem Dev.emit_perst (o : Out) : (d.emit o).perst = d.perst := rfl
@[simp] theorem Dev.emit_bias (o : Out) : (d.emit o).bias = d.bias := rfl
@[simp] theorem Dev.emit_bcast (o : Out) : (d.emit o).bcast = d.bcast := rfl
@[simp] theorem Dev.emit_board (o : Out) : (d.emit o).board = d.board := rfl
@[simp] theorem Dev.emit_boot (o : Out) : (d.emit o).boot = d.boot := rfl
@[simp] theorem Dev.emit_ownerKey (o : Out) : (d.emit o).ownerKey = d.ownerKey := rfl
@[simp] theorem Dev.emit_topq (o : Out) : (d.emit o).topq = d.topq := rfl
@[simp] theorem Dev.emit_leaf (o : Out) : (d.emit o).leaf = d.leaf := rfl
@[simp] theorem Dev.emit_custQ (o : Out) : (d.emit o).custQ = d.custQ := rfl
@[simp] theorem Dev.emit_custLost (o : Out) : (d.emit o).custLost = d.custLost := rfl
@[simp] theorem Dev.emit_log (o : Out) : (d.emit o).log = d.log := rfl
@[simp] theorem Dev.emit_cmpRun (o : Out) : (d.emit o).cmpRun = d.cmpRun := rfl
@[simp] theorem Dev.emit_escal (o : Out) : (d.emit o).escal = d.escal := rfl
@[simp] theorem Dev.emit_resetCause (o : Out) : (d.emit o).resetCause = d.resetCause := rfl
@[simp] theorem Dev.emit_corr (o : Out) : (d.emit o).corr = d.corr := rfl
@[simp] theorem Dev.emit_jhold (o : Out) : (d.emit o).jhold = d.jhold := rfl
@[simp] theorem Dev.emit_faultN (o : Out) : (d.emit o).faultN = d.faultN := rfl
@[simp] theorem Dev.emit_pwrGood (o : Out) : (d.emit o).pwrGood = d.pwrGood := rfl
@[simp] theorem Dev.emit_supplyWarnN (o : Out) : (d.emit o).supplyWarnN = d.supplyWarnN := rfl
@[simp] theorem Dev.emit_stackT (o : Out) : (d.emit o).stackT = d.stackT := rfl
@[simp] theorem Dev.emit_junction (o : Out) : (d.emit o).junction = d.junction := rfl
@[simp] theorem Dev.emit_recd (o : Out) : (d.emit o).recd = d.recd := rfl
@[simp] theorem Dev.emit_snap (o : Out) : (d.emit o).snap = d.snap := rfl
@[simp] theorem Dev.emit_folio (o : Out) : (d.emit o).folio = d.folio := rfl
@[simp] theorem Dev.emit_mgmt (o : Out) : (d.emit o).mgmt = d.mgmt := rfl
@[simp] theorem Dev.emit_free (o : Out) : (d.emit o).free = d.free := rfl

/-! ### Dev.setCore -/

@[simp] theorem Dev.setCore_regs (c : Nat) (x : Core) : (d.setCore c x).regs = d.regs := rfl
@[simp] theorem Dev.setCore_held (c : Nat) (x : Core) : (d.setCore c x).held = d.held := rfl
@[simp] theorem Dev.setCore_cycle (c : Nat) (x : Core) : (d.setCore c x).cycle = d.cycle := rfl
@[simp] theorem Dev.setCore_ptime (c : Nat) (x : Core) : (d.setCore c x).ptime = d.ptime := rfl
@[simp] theorem Dev.setCore_tide (c : Nat) (x : Core) : (d.setCore c x).tide = d.tide := rfl
@[simp] theorem Dev.setCore_capInForce (c : Nat) (x : Core) : (d.setCore c x).capInForce = d.capInForce := rfl
@[simp] theorem Dev.setCore_mem (c : Nat) (x : Core) : (d.setCore c x).mem = d.mem := rfl
@[simp] theorem Dev.setCore_far (c : Nat) (x : Core) : (d.setCore c x).far = d.far := rfl
@[simp] theorem Dev.setCore_badWords (c : Nat) (x : Core) : (d.setCore c x).badWords = d.badWords := rfl
@[simp] theorem Dev.setCore_cache (c : Nat) (x : Core) : (d.setCore c x).cache = d.cache := rfl
@[simp] theorem Dev.setCore_ccs (c : Nat) (x : Core) : (d.setCore c x).ccs = d.ccs := rfl
@[simp] theorem Dev.setCore_queues (c : Nat) (x : Core) : (d.setCore c x).queues = d.queues := rfl
@[simp] theorem Dev.setCore_fabric (c : Nat) (x : Core) : (d.setCore c x).fabric = d.fabric := rfl
@[simp] theorem Dev.setCore_plants (c : Nat) (x : Core) : (d.setCore c x).plants = d.plants := rfl
@[simp] theorem Dev.setCore_hostLink (c : Nat) (x : Core) : (d.setCore c x).hostLink = d.hostLink := rfl
@[simp] theorem Dev.setCore_perst (c : Nat) (x : Core) : (d.setCore c x).perst = d.perst := rfl
@[simp] theorem Dev.setCore_bias (c : Nat) (x : Core) : (d.setCore c x).bias = d.bias := rfl
@[simp] theorem Dev.setCore_bcast (c : Nat) (x : Core) : (d.setCore c x).bcast = d.bcast := rfl
@[simp] theorem Dev.setCore_board (c : Nat) (x : Core) : (d.setCore c x).board = d.board := rfl
@[simp] theorem Dev.setCore_boot (c : Nat) (x : Core) : (d.setCore c x).boot = d.boot := rfl
@[simp] theorem Dev.setCore_ownerKey (c : Nat) (x : Core) : (d.setCore c x).ownerKey = d.ownerKey := rfl
@[simp] theorem Dev.setCore_topq (c : Nat) (x : Core) : (d.setCore c x).topq = d.topq := rfl
@[simp] theorem Dev.setCore_leaf (c : Nat) (x : Core) : (d.setCore c x).leaf = d.leaf := rfl
@[simp] theorem Dev.setCore_custQ (c : Nat) (x : Core) : (d.setCore c x).custQ = d.custQ := rfl
@[simp] theorem Dev.setCore_custLost (c : Nat) (x : Core) : (d.setCore c x).custLost = d.custLost := rfl
@[simp] theorem Dev.setCore_log (c : Nat) (x : Core) : (d.setCore c x).log = d.log := rfl
@[simp] theorem Dev.setCore_cmpRun (c : Nat) (x : Core) : (d.setCore c x).cmpRun = d.cmpRun := rfl
@[simp] theorem Dev.setCore_escal (c : Nat) (x : Core) : (d.setCore c x).escal = d.escal := rfl
@[simp] theorem Dev.setCore_resetCause (c : Nat) (x : Core) : (d.setCore c x).resetCause = d.resetCause := rfl
@[simp] theorem Dev.setCore_corr (c : Nat) (x : Core) : (d.setCore c x).corr = d.corr := rfl
@[simp] theorem Dev.setCore_jhold (c : Nat) (x : Core) : (d.setCore c x).jhold = d.jhold := rfl
@[simp] theorem Dev.setCore_faultN (c : Nat) (x : Core) : (d.setCore c x).faultN = d.faultN := rfl
@[simp] theorem Dev.setCore_pwrGood (c : Nat) (x : Core) : (d.setCore c x).pwrGood = d.pwrGood := rfl
@[simp] theorem Dev.setCore_supplyWarnN (c : Nat) (x : Core) : (d.setCore c x).supplyWarnN = d.supplyWarnN := rfl
@[simp] theorem Dev.setCore_stackT (c : Nat) (x : Core) : (d.setCore c x).stackT = d.stackT := rfl
@[simp] theorem Dev.setCore_junction (c : Nat) (x : Core) : (d.setCore c x).junction = d.junction := rfl
@[simp] theorem Dev.setCore_recd (c : Nat) (x : Core) : (d.setCore c x).recd = d.recd := rfl
@[simp] theorem Dev.setCore_snap (c : Nat) (x : Core) : (d.setCore c x).snap = d.snap := rfl
@[simp] theorem Dev.setCore_folio (c : Nat) (x : Core) : (d.setCore c x).folio = d.folio := rfl
@[simp] theorem Dev.setCore_mgmt (c : Nat) (x : Core) : (d.setCore c x).mgmt = d.mgmt := rfl
@[simp] theorem Dev.setCore_out (c : Nat) (x : Core) : (d.setCore c x).out = d.out := rfl
@[simp] theorem Dev.setCore_free (c : Nat) (x : Core) : (d.setCore c x).free = d.free := rfl

/-! ### Dev.setCc -/

@[simp] theorem Dev.setCc_regs (k : Nat) (x : CtlCore) : (d.setCc k x).regs = d.regs := rfl
@[simp] theorem Dev.setCc_held (k : Nat) (x : CtlCore) : (d.setCc k x).held = d.held := rfl
@[simp] theorem Dev.setCc_cycle (k : Nat) (x : CtlCore) : (d.setCc k x).cycle = d.cycle := rfl
@[simp] theorem Dev.setCc_ptime (k : Nat) (x : CtlCore) : (d.setCc k x).ptime = d.ptime := rfl
@[simp] theorem Dev.setCc_tide (k : Nat) (x : CtlCore) : (d.setCc k x).tide = d.tide := rfl
@[simp] theorem Dev.setCc_capInForce (k : Nat) (x : CtlCore) : (d.setCc k x).capInForce = d.capInForce := rfl
@[simp] theorem Dev.setCc_mem (k : Nat) (x : CtlCore) : (d.setCc k x).mem = d.mem := rfl
@[simp] theorem Dev.setCc_far (k : Nat) (x : CtlCore) : (d.setCc k x).far = d.far := rfl
@[simp] theorem Dev.setCc_badWords (k : Nat) (x : CtlCore) : (d.setCc k x).badWords = d.badWords := rfl
@[simp] theorem Dev.setCc_cache (k : Nat) (x : CtlCore) : (d.setCc k x).cache = d.cache := rfl
@[simp] theorem Dev.setCc_cores (k : Nat) (x : CtlCore) : (d.setCc k x).cores = d.cores := rfl
@[simp] theorem Dev.setCc_queues (k : Nat) (x : CtlCore) : (d.setCc k x).queues = d.queues := rfl
@[simp] theorem Dev.setCc_fabric (k : Nat) (x : CtlCore) : (d.setCc k x).fabric = d.fabric := rfl
@[simp] theorem Dev.setCc_plants (k : Nat) (x : CtlCore) : (d.setCc k x).plants = d.plants := rfl
@[simp] theorem Dev.setCc_hostLink (k : Nat) (x : CtlCore) : (d.setCc k x).hostLink = d.hostLink := rfl
@[simp] theorem Dev.setCc_perst (k : Nat) (x : CtlCore) : (d.setCc k x).perst = d.perst := rfl
@[simp] theorem Dev.setCc_bias (k : Nat) (x : CtlCore) : (d.setCc k x).bias = d.bias := rfl
@[simp] theorem Dev.setCc_bcast (k : Nat) (x : CtlCore) : (d.setCc k x).bcast = d.bcast := rfl
@[simp] theorem Dev.setCc_board (k : Nat) (x : CtlCore) : (d.setCc k x).board = d.board := rfl
@[simp] theorem Dev.setCc_boot (k : Nat) (x : CtlCore) : (d.setCc k x).boot = d.boot := rfl
@[simp] theorem Dev.setCc_ownerKey (k : Nat) (x : CtlCore) : (d.setCc k x).ownerKey = d.ownerKey := rfl
@[simp] theorem Dev.setCc_topq (k : Nat) (x : CtlCore) : (d.setCc k x).topq = d.topq := rfl
@[simp] theorem Dev.setCc_leaf (k : Nat) (x : CtlCore) : (d.setCc k x).leaf = d.leaf := rfl
@[simp] theorem Dev.setCc_custQ (k : Nat) (x : CtlCore) : (d.setCc k x).custQ = d.custQ := rfl
@[simp] theorem Dev.setCc_custLost (k : Nat) (x : CtlCore) : (d.setCc k x).custLost = d.custLost := rfl
@[simp] theorem Dev.setCc_log (k : Nat) (x : CtlCore) : (d.setCc k x).log = d.log := rfl
@[simp] theorem Dev.setCc_cmpRun (k : Nat) (x : CtlCore) : (d.setCc k x).cmpRun = d.cmpRun := rfl
@[simp] theorem Dev.setCc_escal (k : Nat) (x : CtlCore) : (d.setCc k x).escal = d.escal := rfl
@[simp] theorem Dev.setCc_resetCause (k : Nat) (x : CtlCore) : (d.setCc k x).resetCause = d.resetCause := rfl
@[simp] theorem Dev.setCc_corr (k : Nat) (x : CtlCore) : (d.setCc k x).corr = d.corr := rfl
@[simp] theorem Dev.setCc_jhold (k : Nat) (x : CtlCore) : (d.setCc k x).jhold = d.jhold := rfl
@[simp] theorem Dev.setCc_faultN (k : Nat) (x : CtlCore) : (d.setCc k x).faultN = d.faultN := rfl
@[simp] theorem Dev.setCc_pwrGood (k : Nat) (x : CtlCore) : (d.setCc k x).pwrGood = d.pwrGood := rfl
@[simp] theorem Dev.setCc_supplyWarnN (k : Nat) (x : CtlCore) : (d.setCc k x).supplyWarnN = d.supplyWarnN := rfl
@[simp] theorem Dev.setCc_stackT (k : Nat) (x : CtlCore) : (d.setCc k x).stackT = d.stackT := rfl
@[simp] theorem Dev.setCc_junction (k : Nat) (x : CtlCore) : (d.setCc k x).junction = d.junction := rfl
@[simp] theorem Dev.setCc_recd (k : Nat) (x : CtlCore) : (d.setCc k x).recd = d.recd := rfl
@[simp] theorem Dev.setCc_snap (k : Nat) (x : CtlCore) : (d.setCc k x).snap = d.snap := rfl
@[simp] theorem Dev.setCc_folio (k : Nat) (x : CtlCore) : (d.setCc k x).folio = d.folio := rfl
@[simp] theorem Dev.setCc_mgmt (k : Nat) (x : CtlCore) : (d.setCc k x).mgmt = d.mgmt := rfl
@[simp] theorem Dev.setCc_out (k : Nat) (x : CtlCore) : (d.setCc k x).out = d.out := rfl
@[simp] theorem Dev.setCc_free (k : Nat) (x : CtlCore) : (d.setCc k x).free = d.free := rfl

/-! ### Dev.setQueue -/

@[simp] theorem Dev.setQueue_regs (q : Nat) (x : Queue) : (d.setQueue q x).regs = d.regs := rfl
@[simp] theorem Dev.setQueue_held (q : Nat) (x : Queue) : (d.setQueue q x).held = d.held := rfl
@[simp] theorem Dev.setQueue_cycle (q : Nat) (x : Queue) : (d.setQueue q x).cycle = d.cycle := rfl
@[simp] theorem Dev.setQueue_ptime (q : Nat) (x : Queue) : (d.setQueue q x).ptime = d.ptime := rfl
@[simp] theorem Dev.setQueue_tide (q : Nat) (x : Queue) : (d.setQueue q x).tide = d.tide := rfl
@[simp] theorem Dev.setQueue_capInForce (q : Nat) (x : Queue) : (d.setQueue q x).capInForce = d.capInForce := rfl
@[simp] theorem Dev.setQueue_mem (q : Nat) (x : Queue) : (d.setQueue q x).mem = d.mem := rfl
@[simp] theorem Dev.setQueue_far (q : Nat) (x : Queue) : (d.setQueue q x).far = d.far := rfl
@[simp] theorem Dev.setQueue_badWords (q : Nat) (x : Queue) : (d.setQueue q x).badWords = d.badWords := rfl
@[simp] theorem Dev.setQueue_cache (q : Nat) (x : Queue) : (d.setQueue q x).cache = d.cache := rfl
@[simp] theorem Dev.setQueue_cores (q : Nat) (x : Queue) : (d.setQueue q x).cores = d.cores := rfl
@[simp] theorem Dev.setQueue_ccs (q : Nat) (x : Queue) : (d.setQueue q x).ccs = d.ccs := rfl
@[simp] theorem Dev.setQueue_fabric (q : Nat) (x : Queue) : (d.setQueue q x).fabric = d.fabric := rfl
@[simp] theorem Dev.setQueue_plants (q : Nat) (x : Queue) : (d.setQueue q x).plants = d.plants := rfl
@[simp] theorem Dev.setQueue_hostLink (q : Nat) (x : Queue) : (d.setQueue q x).hostLink = d.hostLink := rfl
@[simp] theorem Dev.setQueue_perst (q : Nat) (x : Queue) : (d.setQueue q x).perst = d.perst := rfl
@[simp] theorem Dev.setQueue_bias (q : Nat) (x : Queue) : (d.setQueue q x).bias = d.bias := rfl
@[simp] theorem Dev.setQueue_bcast (q : Nat) (x : Queue) : (d.setQueue q x).bcast = d.bcast := rfl
@[simp] theorem Dev.setQueue_board (q : Nat) (x : Queue) : (d.setQueue q x).board = d.board := rfl
@[simp] theorem Dev.setQueue_boot (q : Nat) (x : Queue) : (d.setQueue q x).boot = d.boot := rfl
@[simp] theorem Dev.setQueue_ownerKey (q : Nat) (x : Queue) : (d.setQueue q x).ownerKey = d.ownerKey := rfl
@[simp] theorem Dev.setQueue_topq (q : Nat) (x : Queue) : (d.setQueue q x).topq = d.topq := rfl
@[simp] theorem Dev.setQueue_leaf (q : Nat) (x : Queue) : (d.setQueue q x).leaf = d.leaf := rfl
@[simp] theorem Dev.setQueue_custQ (q : Nat) (x : Queue) : (d.setQueue q x).custQ = d.custQ := rfl
@[simp] theorem Dev.setQueue_custLost (q : Nat) (x : Queue) : (d.setQueue q x).custLost = d.custLost := rfl
@[simp] theorem Dev.setQueue_log (q : Nat) (x : Queue) : (d.setQueue q x).log = d.log := rfl
@[simp] theorem Dev.setQueue_cmpRun (q : Nat) (x : Queue) : (d.setQueue q x).cmpRun = d.cmpRun := rfl
@[simp] theorem Dev.setQueue_escal (q : Nat) (x : Queue) : (d.setQueue q x).escal = d.escal := rfl
@[simp] theorem Dev.setQueue_resetCause (q : Nat) (x : Queue) : (d.setQueue q x).resetCause = d.resetCause := rfl
@[simp] theorem Dev.setQueue_corr (q : Nat) (x : Queue) : (d.setQueue q x).corr = d.corr := rfl
@[simp] theorem Dev.setQueue_jhold (q : Nat) (x : Queue) : (d.setQueue q x).jhold = d.jhold := rfl
@[simp] theorem Dev.setQueue_faultN (q : Nat) (x : Queue) : (d.setQueue q x).faultN = d.faultN := rfl
@[simp] theorem Dev.setQueue_pwrGood (q : Nat) (x : Queue) : (d.setQueue q x).pwrGood = d.pwrGood := rfl
@[simp] theorem Dev.setQueue_supplyWarnN (q : Nat) (x : Queue) : (d.setQueue q x).supplyWarnN = d.supplyWarnN := rfl
@[simp] theorem Dev.setQueue_stackT (q : Nat) (x : Queue) : (d.setQueue q x).stackT = d.stackT := rfl
@[simp] theorem Dev.setQueue_junction (q : Nat) (x : Queue) : (d.setQueue q x).junction = d.junction := rfl
@[simp] theorem Dev.setQueue_recd (q : Nat) (x : Queue) : (d.setQueue q x).recd = d.recd := rfl
@[simp] theorem Dev.setQueue_snap (q : Nat) (x : Queue) : (d.setQueue q x).snap = d.snap := rfl
@[simp] theorem Dev.setQueue_folio (q : Nat) (x : Queue) : (d.setQueue q x).folio = d.folio := rfl
@[simp] theorem Dev.setQueue_mgmt (q : Nat) (x : Queue) : (d.setQueue q x).mgmt = d.mgmt := rfl
@[simp] theorem Dev.setQueue_out (q : Nat) (x : Queue) : (d.setQueue q x).out = d.out := rfl
@[simp] theorem Dev.setQueue_free (q : Nat) (x : Queue) : (d.setQueue q x).free = d.free := rfl

/-! ### Dev.setPlant -/

@[simp] theorem Dev.setPlant_regs (p : Nat) (x : Plant) : (d.setPlant p x).regs = d.regs := rfl
@[simp] theorem Dev.setPlant_held (p : Nat) (x : Plant) : (d.setPlant p x).held = d.held := rfl
@[simp] theorem Dev.setPlant_cycle (p : Nat) (x : Plant) : (d.setPlant p x).cycle = d.cycle := rfl
@[simp] theorem Dev.setPlant_ptime (p : Nat) (x : Plant) : (d.setPlant p x).ptime = d.ptime := rfl
@[simp] theorem Dev.setPlant_tide (p : Nat) (x : Plant) : (d.setPlant p x).tide = d.tide := rfl
@[simp] theorem Dev.setPlant_capInForce (p : Nat) (x : Plant) : (d.setPlant p x).capInForce = d.capInForce := rfl
@[simp] theorem Dev.setPlant_mem (p : Nat) (x : Plant) : (d.setPlant p x).mem = d.mem := rfl
@[simp] theorem Dev.setPlant_far (p : Nat) (x : Plant) : (d.setPlant p x).far = d.far := rfl
@[simp] theorem Dev.setPlant_badWords (p : Nat) (x : Plant) : (d.setPlant p x).badWords = d.badWords := rfl
@[simp] theorem Dev.setPlant_cache (p : Nat) (x : Plant) : (d.setPlant p x).cache = d.cache := rfl
@[simp] theorem Dev.setPlant_cores (p : Nat) (x : Plant) : (d.setPlant p x).cores = d.cores := rfl
@[simp] theorem Dev.setPlant_ccs (p : Nat) (x : Plant) : (d.setPlant p x).ccs = d.ccs := rfl
@[simp] theorem Dev.setPlant_queues (p : Nat) (x : Plant) : (d.setPlant p x).queues = d.queues := rfl
@[simp] theorem Dev.setPlant_fabric (p : Nat) (x : Plant) : (d.setPlant p x).fabric = d.fabric := rfl
@[simp] theorem Dev.setPlant_hostLink (p : Nat) (x : Plant) : (d.setPlant p x).hostLink = d.hostLink := rfl
@[simp] theorem Dev.setPlant_perst (p : Nat) (x : Plant) : (d.setPlant p x).perst = d.perst := rfl
@[simp] theorem Dev.setPlant_bias (p : Nat) (x : Plant) : (d.setPlant p x).bias = d.bias := rfl
@[simp] theorem Dev.setPlant_bcast (p : Nat) (x : Plant) : (d.setPlant p x).bcast = d.bcast := rfl
@[simp] theorem Dev.setPlant_board (p : Nat) (x : Plant) : (d.setPlant p x).board = d.board := rfl
@[simp] theorem Dev.setPlant_boot (p : Nat) (x : Plant) : (d.setPlant p x).boot = d.boot := rfl
@[simp] theorem Dev.setPlant_ownerKey (p : Nat) (x : Plant) : (d.setPlant p x).ownerKey = d.ownerKey := rfl
@[simp] theorem Dev.setPlant_topq (p : Nat) (x : Plant) : (d.setPlant p x).topq = d.topq := rfl
@[simp] theorem Dev.setPlant_leaf (p : Nat) (x : Plant) : (d.setPlant p x).leaf = d.leaf := rfl
@[simp] theorem Dev.setPlant_custQ (p : Nat) (x : Plant) : (d.setPlant p x).custQ = d.custQ := rfl
@[simp] theorem Dev.setPlant_custLost (p : Nat) (x : Plant) : (d.setPlant p x).custLost = d.custLost := rfl
@[simp] theorem Dev.setPlant_log (p : Nat) (x : Plant) : (d.setPlant p x).log = d.log := rfl
@[simp] theorem Dev.setPlant_cmpRun (p : Nat) (x : Plant) : (d.setPlant p x).cmpRun = d.cmpRun := rfl
@[simp] theorem Dev.setPlant_escal (p : Nat) (x : Plant) : (d.setPlant p x).escal = d.escal := rfl
@[simp] theorem Dev.setPlant_resetCause (p : Nat) (x : Plant) : (d.setPlant p x).resetCause = d.resetCause := rfl
@[simp] theorem Dev.setPlant_corr (p : Nat) (x : Plant) : (d.setPlant p x).corr = d.corr := rfl
@[simp] theorem Dev.setPlant_jhold (p : Nat) (x : Plant) : (d.setPlant p x).jhold = d.jhold := rfl
@[simp] theorem Dev.setPlant_faultN (p : Nat) (x : Plant) : (d.setPlant p x).faultN = d.faultN := rfl
@[simp] theorem Dev.setPlant_pwrGood (p : Nat) (x : Plant) : (d.setPlant p x).pwrGood = d.pwrGood := rfl
@[simp] theorem Dev.setPlant_supplyWarnN (p : Nat) (x : Plant) : (d.setPlant p x).supplyWarnN = d.supplyWarnN := rfl
@[simp] theorem Dev.setPlant_stackT (p : Nat) (x : Plant) : (d.setPlant p x).stackT = d.stackT := rfl
@[simp] theorem Dev.setPlant_junction (p : Nat) (x : Plant) : (d.setPlant p x).junction = d.junction := rfl
@[simp] theorem Dev.setPlant_recd (p : Nat) (x : Plant) : (d.setPlant p x).recd = d.recd := rfl
@[simp] theorem Dev.setPlant_snap (p : Nat) (x : Plant) : (d.setPlant p x).snap = d.snap := rfl
@[simp] theorem Dev.setPlant_folio (p : Nat) (x : Plant) : (d.setPlant p x).folio = d.folio := rfl
@[simp] theorem Dev.setPlant_mgmt (p : Nat) (x : Plant) : (d.setPlant p x).mgmt = d.mgmt := rfl
@[simp] theorem Dev.setPlant_out (p : Nat) (x : Plant) : (d.setPlant p x).out = d.out := rfl
@[simp] theorem Dev.setPlant_free (p : Nat) (x : Plant) : (d.setPlant p x).free = d.free := rfl

/-! ### Dev.choiceBit -/

@[simp] theorem Dev.choiceBit_held (n : Nat) : (d.choiceBit n).held = d.held := rfl
@[simp] theorem Dev.choiceBit_cycle (n : Nat) : (d.choiceBit n).cycle = d.cycle := rfl
@[simp] theorem Dev.choiceBit_ptime (n : Nat) : (d.choiceBit n).ptime = d.ptime := rfl
@[simp] theorem Dev.choiceBit_tide (n : Nat) : (d.choiceBit n).tide = d.tide := rfl
@[simp] theorem Dev.choiceBit_capInForce (n : Nat) : (d.choiceBit n).capInForce = d.capInForce := rfl
@[simp] theorem Dev.choiceBit_mem (n : Nat) : (d.choiceBit n).mem = d.mem := rfl
@[simp] theorem Dev.choiceBit_far (n : Nat) : (d.choiceBit n).far = d.far := rfl
@[simp] theorem Dev.choiceBit_badWords (n : Nat) : (d.choiceBit n).badWords = d.badWords := rfl
@[simp] theorem Dev.choiceBit_cache (n : Nat) : (d.choiceBit n).cache = d.cache := rfl
@[simp] theorem Dev.choiceBit_cores (n : Nat) : (d.choiceBit n).cores = d.cores := rfl
@[simp] theorem Dev.choiceBit_ccs (n : Nat) : (d.choiceBit n).ccs = d.ccs := rfl
@[simp] theorem Dev.choiceBit_queues (n : Nat) : (d.choiceBit n).queues = d.queues := rfl
@[simp] theorem Dev.choiceBit_fabric (n : Nat) : (d.choiceBit n).fabric = d.fabric := rfl
@[simp] theorem Dev.choiceBit_plants (n : Nat) : (d.choiceBit n).plants = d.plants := rfl
@[simp] theorem Dev.choiceBit_hostLink (n : Nat) : (d.choiceBit n).hostLink = d.hostLink := rfl
@[simp] theorem Dev.choiceBit_perst (n : Nat) : (d.choiceBit n).perst = d.perst := rfl
@[simp] theorem Dev.choiceBit_bias (n : Nat) : (d.choiceBit n).bias = d.bias := rfl
@[simp] theorem Dev.choiceBit_bcast (n : Nat) : (d.choiceBit n).bcast = d.bcast := rfl
@[simp] theorem Dev.choiceBit_board (n : Nat) : (d.choiceBit n).board = d.board := rfl
@[simp] theorem Dev.choiceBit_boot (n : Nat) : (d.choiceBit n).boot = d.boot := rfl
@[simp] theorem Dev.choiceBit_ownerKey (n : Nat) : (d.choiceBit n).ownerKey = d.ownerKey := rfl
@[simp] theorem Dev.choiceBit_topq (n : Nat) : (d.choiceBit n).topq = d.topq := rfl
@[simp] theorem Dev.choiceBit_leaf (n : Nat) : (d.choiceBit n).leaf = d.leaf := rfl
@[simp] theorem Dev.choiceBit_custQ (n : Nat) : (d.choiceBit n).custQ = d.custQ := rfl
@[simp] theorem Dev.choiceBit_custLost (n : Nat) : (d.choiceBit n).custLost = d.custLost := rfl
@[simp] theorem Dev.choiceBit_log (n : Nat) : (d.choiceBit n).log = d.log := rfl
@[simp] theorem Dev.choiceBit_cmpRun (n : Nat) : (d.choiceBit n).cmpRun = d.cmpRun := rfl
@[simp] theorem Dev.choiceBit_escal (n : Nat) : (d.choiceBit n).escal = d.escal := rfl
@[simp] theorem Dev.choiceBit_resetCause (n : Nat) : (d.choiceBit n).resetCause = d.resetCause := rfl
@[simp] theorem Dev.choiceBit_corr (n : Nat) : (d.choiceBit n).corr = d.corr := rfl
@[simp] theorem Dev.choiceBit_jhold (n : Nat) : (d.choiceBit n).jhold = d.jhold := rfl
@[simp] theorem Dev.choiceBit_faultN (n : Nat) : (d.choiceBit n).faultN = d.faultN := rfl
@[simp] theorem Dev.choiceBit_pwrGood (n : Nat) : (d.choiceBit n).pwrGood = d.pwrGood := rfl
@[simp] theorem Dev.choiceBit_supplyWarnN (n : Nat) : (d.choiceBit n).supplyWarnN = d.supplyWarnN := rfl
@[simp] theorem Dev.choiceBit_stackT (n : Nat) : (d.choiceBit n).stackT = d.stackT := rfl
@[simp] theorem Dev.choiceBit_junction (n : Nat) : (d.choiceBit n).junction = d.junction := rfl
@[simp] theorem Dev.choiceBit_recd (n : Nat) : (d.choiceBit n).recd = d.recd := rfl
@[simp] theorem Dev.choiceBit_snap (n : Nat) : (d.choiceBit n).snap = d.snap := rfl
@[simp] theorem Dev.choiceBit_folio (n : Nat) : (d.choiceBit n).folio = d.folio := rfl
@[simp] theorem Dev.choiceBit_mgmt (n : Nat) : (d.choiceBit n).mgmt = d.mgmt := rfl
@[simp] theorem Dev.choiceBit_out (n : Nat) : (d.choiceBit n).out = d.out := rfl
@[simp] theorem Dev.choiceBit_free (n : Nat) : (d.choiceBit n).free = d.free := rfl

/-! ### Dev.choiceTime -/

@[simp] theorem Dev.choiceTime_held (n : Nat) : (d.choiceTime n).held = d.held := rfl
@[simp] theorem Dev.choiceTime_cycle (n : Nat) : (d.choiceTime n).cycle = d.cycle := rfl
@[simp] theorem Dev.choiceTime_ptime (n : Nat) : (d.choiceTime n).ptime = d.ptime := rfl
@[simp] theorem Dev.choiceTime_tide (n : Nat) : (d.choiceTime n).tide = d.tide := rfl
@[simp] theorem Dev.choiceTime_capInForce (n : Nat) : (d.choiceTime n).capInForce = d.capInForce := rfl
@[simp] theorem Dev.choiceTime_mem (n : Nat) : (d.choiceTime n).mem = d.mem := rfl
@[simp] theorem Dev.choiceTime_far (n : Nat) : (d.choiceTime n).far = d.far := rfl
@[simp] theorem Dev.choiceTime_badWords (n : Nat) : (d.choiceTime n).badWords = d.badWords := rfl
@[simp] theorem Dev.choiceTime_cache (n : Nat) : (d.choiceTime n).cache = d.cache := rfl
@[simp] theorem Dev.choiceTime_cores (n : Nat) : (d.choiceTime n).cores = d.cores := rfl
@[simp] theorem Dev.choiceTime_ccs (n : Nat) : (d.choiceTime n).ccs = d.ccs := rfl
@[simp] theorem Dev.choiceTime_queues (n : Nat) : (d.choiceTime n).queues = d.queues := rfl
@[simp] theorem Dev.choiceTime_fabric (n : Nat) : (d.choiceTime n).fabric = d.fabric := rfl
@[simp] theorem Dev.choiceTime_plants (n : Nat) : (d.choiceTime n).plants = d.plants := rfl
@[simp] theorem Dev.choiceTime_hostLink (n : Nat) : (d.choiceTime n).hostLink = d.hostLink := rfl
@[simp] theorem Dev.choiceTime_perst (n : Nat) : (d.choiceTime n).perst = d.perst := rfl
@[simp] theorem Dev.choiceTime_bias (n : Nat) : (d.choiceTime n).bias = d.bias := rfl
@[simp] theorem Dev.choiceTime_bcast (n : Nat) : (d.choiceTime n).bcast = d.bcast := rfl
@[simp] theorem Dev.choiceTime_board (n : Nat) : (d.choiceTime n).board = d.board := rfl
@[simp] theorem Dev.choiceTime_boot (n : Nat) : (d.choiceTime n).boot = d.boot := rfl
@[simp] theorem Dev.choiceTime_ownerKey (n : Nat) : (d.choiceTime n).ownerKey = d.ownerKey := rfl
@[simp] theorem Dev.choiceTime_topq (n : Nat) : (d.choiceTime n).topq = d.topq := rfl
@[simp] theorem Dev.choiceTime_leaf (n : Nat) : (d.choiceTime n).leaf = d.leaf := rfl
@[simp] theorem Dev.choiceTime_custQ (n : Nat) : (d.choiceTime n).custQ = d.custQ := rfl
@[simp] theorem Dev.choiceTime_custLost (n : Nat) : (d.choiceTime n).custLost = d.custLost := rfl
@[simp] theorem Dev.choiceTime_log (n : Nat) : (d.choiceTime n).log = d.log := rfl
@[simp] theorem Dev.choiceTime_cmpRun (n : Nat) : (d.choiceTime n).cmpRun = d.cmpRun := rfl
@[simp] theorem Dev.choiceTime_escal (n : Nat) : (d.choiceTime n).escal = d.escal := rfl
@[simp] theorem Dev.choiceTime_resetCause (n : Nat) : (d.choiceTime n).resetCause = d.resetCause := rfl
@[simp] theorem Dev.choiceTime_corr (n : Nat) : (d.choiceTime n).corr = d.corr := rfl
@[simp] theorem Dev.choiceTime_jhold (n : Nat) : (d.choiceTime n).jhold = d.jhold := rfl
@[simp] theorem Dev.choiceTime_faultN (n : Nat) : (d.choiceTime n).faultN = d.faultN := rfl
@[simp] theorem Dev.choiceTime_pwrGood (n : Nat) : (d.choiceTime n).pwrGood = d.pwrGood := rfl
@[simp] theorem Dev.choiceTime_supplyWarnN (n : Nat) : (d.choiceTime n).supplyWarnN = d.supplyWarnN := rfl
@[simp] theorem Dev.choiceTime_stackT (n : Nat) : (d.choiceTime n).stackT = d.stackT := rfl
@[simp] theorem Dev.choiceTime_junction (n : Nat) : (d.choiceTime n).junction = d.junction := rfl
@[simp] theorem Dev.choiceTime_recd (n : Nat) : (d.choiceTime n).recd = d.recd := rfl
@[simp] theorem Dev.choiceTime_snap (n : Nat) : (d.choiceTime n).snap = d.snap := rfl
@[simp] theorem Dev.choiceTime_folio (n : Nat) : (d.choiceTime n).folio = d.folio := rfl
@[simp] theorem Dev.choiceTime_mgmt (n : Nat) : (d.choiceTime n).mgmt = d.mgmt := rfl
@[simp] theorem Dev.choiceTime_out (n : Nat) : (d.choiceTime n).out = d.out := rfl
@[simp] theorem Dev.choiceTime_free (n : Nat) : (d.choiceTime n).free = d.free := rfl

/-! ### Dev.sigAdd -/

@[simp] theorem Dev.sigAdd_held (n k : Nat) : (d.sigAdd n k).held = d.held := rfl
@[simp] theorem Dev.sigAdd_cycle (n k : Nat) : (d.sigAdd n k).cycle = d.cycle := rfl
@[simp] theorem Dev.sigAdd_ptime (n k : Nat) : (d.sigAdd n k).ptime = d.ptime := rfl
@[simp] theorem Dev.sigAdd_tide (n k : Nat) : (d.sigAdd n k).tide = d.tide := rfl
@[simp] theorem Dev.sigAdd_capInForce (n k : Nat) : (d.sigAdd n k).capInForce = d.capInForce := rfl
@[simp] theorem Dev.sigAdd_mem (n k : Nat) : (d.sigAdd n k).mem = d.mem := rfl
@[simp] theorem Dev.sigAdd_far (n k : Nat) : (d.sigAdd n k).far = d.far := rfl
@[simp] theorem Dev.sigAdd_badWords (n k : Nat) : (d.sigAdd n k).badWords = d.badWords := rfl
@[simp] theorem Dev.sigAdd_cache (n k : Nat) : (d.sigAdd n k).cache = d.cache := rfl
@[simp] theorem Dev.sigAdd_cores (n k : Nat) : (d.sigAdd n k).cores = d.cores := rfl
@[simp] theorem Dev.sigAdd_ccs (n k : Nat) : (d.sigAdd n k).ccs = d.ccs := rfl
@[simp] theorem Dev.sigAdd_queues (n k : Nat) : (d.sigAdd n k).queues = d.queues := rfl
@[simp] theorem Dev.sigAdd_fabric (n k : Nat) : (d.sigAdd n k).fabric = d.fabric := rfl
@[simp] theorem Dev.sigAdd_plants (n k : Nat) : (d.sigAdd n k).plants = d.plants := rfl
@[simp] theorem Dev.sigAdd_hostLink (n k : Nat) : (d.sigAdd n k).hostLink = d.hostLink := rfl
@[simp] theorem Dev.sigAdd_perst (n k : Nat) : (d.sigAdd n k).perst = d.perst := rfl
@[simp] theorem Dev.sigAdd_bias (n k : Nat) : (d.sigAdd n k).bias = d.bias := rfl
@[simp] theorem Dev.sigAdd_bcast (n k : Nat) : (d.sigAdd n k).bcast = d.bcast := rfl
@[simp] theorem Dev.sigAdd_board (n k : Nat) : (d.sigAdd n k).board = d.board := rfl
@[simp] theorem Dev.sigAdd_boot (n k : Nat) : (d.sigAdd n k).boot = d.boot := rfl
@[simp] theorem Dev.sigAdd_ownerKey (n k : Nat) : (d.sigAdd n k).ownerKey = d.ownerKey := rfl
@[simp] theorem Dev.sigAdd_topq (n k : Nat) : (d.sigAdd n k).topq = d.topq := rfl
@[simp] theorem Dev.sigAdd_leaf (n k : Nat) : (d.sigAdd n k).leaf = d.leaf := rfl
@[simp] theorem Dev.sigAdd_custQ (n k : Nat) : (d.sigAdd n k).custQ = d.custQ := rfl
@[simp] theorem Dev.sigAdd_custLost (n k : Nat) : (d.sigAdd n k).custLost = d.custLost := rfl
@[simp] theorem Dev.sigAdd_log (n k : Nat) : (d.sigAdd n k).log = d.log := rfl
@[simp] theorem Dev.sigAdd_cmpRun (n k : Nat) : (d.sigAdd n k).cmpRun = d.cmpRun := rfl
@[simp] theorem Dev.sigAdd_escal (n k : Nat) : (d.sigAdd n k).escal = d.escal := rfl
@[simp] theorem Dev.sigAdd_resetCause (n k : Nat) : (d.sigAdd n k).resetCause = d.resetCause := rfl
@[simp] theorem Dev.sigAdd_corr (n k : Nat) : (d.sigAdd n k).corr = d.corr := rfl
@[simp] theorem Dev.sigAdd_jhold (n k : Nat) : (d.sigAdd n k).jhold = d.jhold := rfl
@[simp] theorem Dev.sigAdd_faultN (n k : Nat) : (d.sigAdd n k).faultN = d.faultN := rfl
@[simp] theorem Dev.sigAdd_pwrGood (n k : Nat) : (d.sigAdd n k).pwrGood = d.pwrGood := rfl
@[simp] theorem Dev.sigAdd_supplyWarnN (n k : Nat) : (d.sigAdd n k).supplyWarnN = d.supplyWarnN := rfl
@[simp] theorem Dev.sigAdd_stackT (n k : Nat) : (d.sigAdd n k).stackT = d.stackT := rfl
@[simp] theorem Dev.sigAdd_junction (n k : Nat) : (d.sigAdd n k).junction = d.junction := rfl
@[simp] theorem Dev.sigAdd_recd (n k : Nat) : (d.sigAdd n k).recd = d.recd := rfl
@[simp] theorem Dev.sigAdd_snap (n k : Nat) : (d.sigAdd n k).snap = d.snap := rfl
@[simp] theorem Dev.sigAdd_folio (n k : Nat) : (d.sigAdd n k).folio = d.folio := rfl
@[simp] theorem Dev.sigAdd_mgmt (n k : Nat) : (d.sigAdd n k).mgmt = d.mgmt := rfl
@[simp] theorem Dev.sigAdd_out (n k : Nat) : (d.sigAdd n k).out = d.out := rfl
@[simp] theorem Dev.sigAdd_free (n k : Nat) : (d.sigAdd n k).free = d.free := rfl

/-! ### Dev.reach -/

@[simp] theorem Dev.reach_regs (e : Effect) : (d.reach e).regs = d.regs := rfl
@[simp] theorem Dev.reach_cycle (e : Effect) : (d.reach e).cycle = d.cycle := rfl
@[simp] theorem Dev.reach_ptime (e : Effect) : (d.reach e).ptime = d.ptime := rfl
@[simp] theorem Dev.reach_tide (e : Effect) : (d.reach e).tide = d.tide := rfl
@[simp] theorem Dev.reach_capInForce (e : Effect) : (d.reach e).capInForce = d.capInForce := rfl
@[simp] theorem Dev.reach_mem (e : Effect) : (d.reach e).mem = d.mem := rfl
@[simp] theorem Dev.reach_far (e : Effect) : (d.reach e).far = d.far := rfl
@[simp] theorem Dev.reach_badWords (e : Effect) : (d.reach e).badWords = d.badWords := rfl
@[simp] theorem Dev.reach_cache (e : Effect) : (d.reach e).cache = d.cache := rfl
@[simp] theorem Dev.reach_cores (e : Effect) : (d.reach e).cores = d.cores := rfl
@[simp] theorem Dev.reach_ccs (e : Effect) : (d.reach e).ccs = d.ccs := rfl
@[simp] theorem Dev.reach_queues (e : Effect) : (d.reach e).queues = d.queues := rfl
@[simp] theorem Dev.reach_fabric (e : Effect) : (d.reach e).fabric = d.fabric := rfl
@[simp] theorem Dev.reach_plants (e : Effect) : (d.reach e).plants = d.plants := rfl
@[simp] theorem Dev.reach_hostLink (e : Effect) : (d.reach e).hostLink = d.hostLink := rfl
@[simp] theorem Dev.reach_perst (e : Effect) : (d.reach e).perst = d.perst := rfl
@[simp] theorem Dev.reach_bias (e : Effect) : (d.reach e).bias = d.bias := rfl
@[simp] theorem Dev.reach_bcast (e : Effect) : (d.reach e).bcast = d.bcast := rfl
@[simp] theorem Dev.reach_board (e : Effect) : (d.reach e).board = d.board := rfl
@[simp] theorem Dev.reach_boot (e : Effect) : (d.reach e).boot = d.boot := rfl
@[simp] theorem Dev.reach_ownerKey (e : Effect) : (d.reach e).ownerKey = d.ownerKey := rfl
@[simp] theorem Dev.reach_topq (e : Effect) : (d.reach e).topq = d.topq := rfl
@[simp] theorem Dev.reach_leaf (e : Effect) : (d.reach e).leaf = d.leaf := rfl
@[simp] theorem Dev.reach_custQ (e : Effect) : (d.reach e).custQ = d.custQ := rfl
@[simp] theorem Dev.reach_custLost (e : Effect) : (d.reach e).custLost = d.custLost := rfl
@[simp] theorem Dev.reach_log (e : Effect) : (d.reach e).log = d.log := rfl
@[simp] theorem Dev.reach_cmpRun (e : Effect) : (d.reach e).cmpRun = d.cmpRun := rfl
@[simp] theorem Dev.reach_escal (e : Effect) : (d.reach e).escal = d.escal := rfl
@[simp] theorem Dev.reach_resetCause (e : Effect) : (d.reach e).resetCause = d.resetCause := rfl
@[simp] theorem Dev.reach_corr (e : Effect) : (d.reach e).corr = d.corr := rfl
@[simp] theorem Dev.reach_jhold (e : Effect) : (d.reach e).jhold = d.jhold := rfl
@[simp] theorem Dev.reach_faultN (e : Effect) : (d.reach e).faultN = d.faultN := rfl
@[simp] theorem Dev.reach_pwrGood (e : Effect) : (d.reach e).pwrGood = d.pwrGood := rfl
@[simp] theorem Dev.reach_supplyWarnN (e : Effect) : (d.reach e).supplyWarnN = d.supplyWarnN := rfl
@[simp] theorem Dev.reach_stackT (e : Effect) : (d.reach e).stackT = d.stackT := rfl
@[simp] theorem Dev.reach_junction (e : Effect) : (d.reach e).junction = d.junction := rfl
@[simp] theorem Dev.reach_recd (e : Effect) : (d.reach e).recd = d.recd := rfl
@[simp] theorem Dev.reach_snap (e : Effect) : (d.reach e).snap = d.snap := rfl
@[simp] theorem Dev.reach_folio (e : Effect) : (d.reach e).folio = d.folio := rfl
@[simp] theorem Dev.reach_mgmt (e : Effect) : (d.reach e).mgmt = d.mgmt := rfl
@[simp] theorem Dev.reach_out (e : Effect) : (d.reach e).out = d.out := rfl
@[simp] theorem Dev.reach_free (e : Effect) : (d.reach e).free = d.free := rfl

/-! ### What is read after an update -/

/-- A register reads the value written to it. -/
@[simp] theorem Dev.rd_wr_same (r : Reg) (w : Word) : (d.wr r w).rd r = w := by simp [Dev.rd, Dev.wr]

/-- A write to one register leaves every other as it was. -/
theorem Dev.rd_wr_ne {r r' : Reg} (w : Word) (h : r' ≠ r) : (d.wr r w).rd r' = d.rd r' := by
  simp [Dev.rd, Dev.wr, tget_tset_ne _ _ _ h]

/-- Reading any register after a write. -/
theorem Dev.rd_wr (r r' : Reg) (w : Word) : (d.wr r w).rd r' = if r' = r then w else d.rd r' := by
  by_cases h : r' = r
  · subst h; simp
  · simp [h, Dev.rd_wr_ne]

/-- Reading another register after a field write. -/
theorem Dev.rd_setFld_ne {r r' : Reg} (f : Fld) (n : Nat) (h : r' ≠ r) : (d.setFld r f n).rd r' = d.rd r' :=
  d.rd_wr_ne _ h

/-- A field of another register after a field write. -/
theorem Dev.fld_setFld_ne {r r' : Reg} (f g : Fld) (n : Nat) (h : r' ≠ r) : (d.setFld r f n).fld r' g = d.fld r' g := by
  simp [Dev.fld, Dev.rd_setFld_ne, h]

/-- The register after a write of one of its fields. -/
@[simp] theorem Dev.rd_setFld_same (r : Reg) (f : Fld) (n : Nat) : (d.setFld r f n).rd r = f.put n (d.rd r) := by
  simp [Dev.setFld]

/-- A Core reads what it was set to. -/
@[simp] theorem Dev.core_setCore_same (c : Nat) (x : Core) : (d.setCore c x).core c = x := by simp [Dev.core, Dev.setCore]

/-- Setting one Core leaves every other as it was. -/
theorem Dev.core_setCore_ne {c j : Nat} (x : Core) (h : j ≠ c) : (d.setCore c x).core j = d.core j := by
  simp [Dev.core, Dev.setCore, tget_tset_ne _ _ _ h]

/-- A CtlCore reads what it was set to. -/
@[simp] theorem Dev.cc_setCc_same (k : Nat) (x : CtlCore) : (d.setCc k x).cc k = x := by simp [Dev.cc, Dev.setCc]

/-- Setting one CtlCore leaves every other as it was. -/
theorem Dev.cc_setCc_ne {k j : Nat} (x : CtlCore) (h : j ≠ k) : (d.setCc k x).cc j = d.cc j := by
  simp [Dev.cc, Dev.setCc, tget_tset_ne _ _ _ h]

/-- A Queue reads what it was set to. -/
@[simp] theorem Dev.queue_setQueue_same (q : Nat) (x : Queue) : (d.setQueue q x).queue q = x := by simp [Dev.queue, Dev.setQueue]

/-- Setting one Queue leaves every other as it was. -/
theorem Dev.queue_setQueue_ne {q j : Nat} (x : Queue) (h : j ≠ q) : (d.setQueue q x).queue j = d.queue j := by
  simp [Dev.queue, Dev.setQueue, tget_tset_ne _ _ _ h]

/-- A Plant reads what it was set to. -/
@[simp] theorem Dev.plant_setPlant_same (p : Nat) (x : Plant) : (d.setPlant p x).plant p = x := by simp [Dev.plant, Dev.setPlant]

/-- Setting one Plant leaves every other as it was. -/
theorem Dev.plant_setPlant_ne {p j : Nat} (x : Plant) (h : j ≠ p) : (d.setPlant p x).plant j = d.plant j := by
  simp [Dev.plant, Dev.setPlant, tget_tset_ne _ _ _ h]

@[simp] theorem Dev.core_wr (r : Reg) (w : Word) (j : Nat) : (d.wr r w).core j = d.core j := rfl
@[simp] theorem Dev.core_setFld (r : Reg) (f : Fld) (n : Nat) (j : Nat) : (d.setFld r f n).core j = d.core j := rfl
@[simp] theorem Dev.core_emit (o : Out) (j : Nat) : (d.emit o).core j = d.core j := rfl
@[simp] theorem Dev.core_setCc (k : Nat) (x : CtlCore) (j : Nat) : (d.setCc k x).core j = d.core j := rfl
@[simp] theorem Dev.core_setQueue (q : Nat) (x : Queue) (j : Nat) : (d.setQueue q x).core j = d.core j := rfl
@[simp] theorem Dev.core_setPlant (p : Nat) (x : Plant) (j : Nat) : (d.setPlant p x).core j = d.core j := rfl
@[simp] theorem Dev.cc_wr (r : Reg) (w : Word) (j : Nat) : (d.wr r w).cc j = d.cc j := rfl
@[simp] theorem Dev.cc_setFld (r : Reg) (f : Fld) (n : Nat) (j : Nat) : (d.setFld r f n).cc j = d.cc j := rfl
@[simp] theorem Dev.cc_emit (o : Out) (j : Nat) : (d.emit o).cc j = d.cc j := rfl
@[simp] theorem Dev.cc_setCore (c : Nat) (x : Core) (j : Nat) : (d.setCore c x).cc j = d.cc j := rfl
@[simp] theorem Dev.cc_setQueue (q : Nat) (x : Queue) (j : Nat) : (d.setQueue q x).cc j = d.cc j := rfl
@[simp] theorem Dev.cc_setPlant (p : Nat) (x : Plant) (j : Nat) : (d.setPlant p x).cc j = d.cc j := rfl
@[simp] theorem Dev.queue_wr (r : Reg) (w : Word) (j : Nat) : (d.wr r w).queue j = d.queue j := rfl
@[simp] theorem Dev.queue_setFld (r : Reg) (f : Fld) (n : Nat) (j : Nat) : (d.setFld r f n).queue j = d.queue j := rfl
@[simp] theorem Dev.queue_emit (o : Out) (j : Nat) : (d.emit o).queue j = d.queue j := rfl
@[simp] theorem Dev.queue_setCore (c : Nat) (x : Core) (j : Nat) : (d.setCore c x).queue j = d.queue j := rfl
@[simp] theorem Dev.queue_setCc (k : Nat) (x : CtlCore) (j : Nat) : (d.setCc k x).queue j = d.queue j := rfl
@[simp] theorem Dev.queue_setPlant (p : Nat) (x : Plant) (j : Nat) : (d.setPlant p x).queue j = d.queue j := rfl
@[simp] theorem Dev.plant_wr (r : Reg) (w : Word) (j : Nat) : (d.wr r w).plant j = d.plant j := rfl
@[simp] theorem Dev.plant_setFld (r : Reg) (f : Fld) (n : Nat) (j : Nat) : (d.setFld r f n).plant j = d.plant j := rfl
@[simp] theorem Dev.plant_emit (o : Out) (j : Nat) : (d.emit o).plant j = d.plant j := rfl
@[simp] theorem Dev.plant_setCore (c : Nat) (x : Core) (j : Nat) : (d.setCore c x).plant j = d.plant j := rfl
@[simp] theorem Dev.plant_setCc (k : Nat) (x : CtlCore) (j : Nat) : (d.setCc k x).plant j = d.plant j := rfl
@[simp] theorem Dev.plant_setQueue (q : Nat) (x : Queue) (j : Nat) : (d.setQueue q x).plant j = d.plant j := rfl
@[simp] theorem Dev.rd_emit (o : Out) (r : Reg) : (d.emit o).rd r = d.rd r := rfl
@[simp] theorem Dev.fld_emit (o : Out) (r : Reg) (f : Fld) : (d.emit o).fld r f = d.fld r f := rfl
@[simp] theorem Dev.rd_setCore (c : Nat) (x : Core) (r : Reg) : (d.setCore c x).rd r = d.rd r := rfl
@[simp] theorem Dev.fld_setCore (c : Nat) (x : Core) (r : Reg) (f : Fld) : (d.setCore c x).fld r f = d.fld r f := rfl
@[simp] theorem Dev.rd_setCc (k : Nat) (x : CtlCore) (r : Reg) : (d.setCc k x).rd r = d.rd r := rfl
@[simp] theorem Dev.fld_setCc (k : Nat) (x : CtlCore) (r : Reg) (f : Fld) : (d.setCc k x).fld r f = d.fld r f := rfl
@[simp] theorem Dev.rd_setQueue (q : Nat) (x : Queue) (r : Reg) : (d.setQueue q x).rd r = d.rd r := rfl
@[simp] theorem Dev.fld_setQueue (q : Nat) (x : Queue) (r : Reg) (f : Fld) : (d.setQueue q x).fld r f = d.fld r f := rfl
@[simp] theorem Dev.rd_setPlant (p : Nat) (x : Plant) (r : Reg) : (d.setPlant p x).rd r = d.rd r := rfl
@[simp] theorem Dev.fld_setPlant (p : Nat) (x : Plant) (r : Reg) (f : Fld) : (d.setPlant p x).fld r f = d.fld r f := rfl

end Sys2Proof.Machine
end

