-- ==== Sys2Proof/Laws/Fields.lean ====
section
/-! SUPPORT. The laws of register fields (Machine/Ops.lean): a field reads what was put into it, and no field beside it changes. -/

namespace Sys2Proof.Machine

/-- The number of a word with a field put into it: the bits above, the field, the bits below. -/
theorem Fld.put_toNat (f : Fld) (n : Nat) (w : Word) (h1 : f.lo ≤ f.hi) (h2 : f.hi < 64) :
    (f.put n w).toNat = w.toNat % 2 ^ f.lo + (n % 2 ^ (f.hi + 1 - f.lo)) * 2 ^ f.lo
      + w.toNat / 2 ^ (f.hi + 1) * 2 ^ (f.hi + 1) := by
  have hW : 2 ^ (f.hi + 1) = 2 ^ f.lo * 2 ^ (f.hi + 1 - f.lo) := by rw [← Nat.pow_add]; congr 1; omega
  have hT : (2:Nat) ^ 64 = 2 ^ (f.hi + 1) * 2 ^ (63 - f.hi) := by rw [← Nat.pow_add]; congr 1; omega
  have hw := w.isLt
  have hlo : 0 < 2 ^ f.lo := Nat.two_pow_pos _
  have hwd : 0 < 2 ^ (f.hi + 1 - f.lo) := Nat.two_pow_pos _
  have hhi : 0 < 2 ^ (f.hi + 1) := Nat.two_pow_pos _
  simp only [Fld.put, bits, BitVec.toNat_ofNat]
  generalize hL : 2 ^ f.lo = l at *
  generalize hWd : 2 ^ (f.hi + 1 - f.lo) = v at *
  generalize hx : w.toNat = x at *
  have e1 : x = x / l * l + x % l := by rw [Nat.mul_comm]; exact (Nat.div_add_mod x l).symm
  have e2 : x / l = x / l / v * v + x / l % v := by rw [Nat.mul_comm]; exact (Nat.div_add_mod _ v).symm
  have e3 : x / l / v = x / (l * v) := Nat.div_div_eq_div_mul x l v
  have e4 : x / l * l = x / (l * v) * (l * v) + x / l % v * l := by
    calc x / l * l = (x / l / v * v + x / l % v) * l := by rw [← e2]
      _ = x / (l * v) * (l * v) + x / l % v * l := by rw [e3, Nat.add_mul, Nat.mul_assoc, Nat.mul_comm v l]
  have hn : n % v < v := Nat.mod_lt _ hwd
  have hxl : x % l < l := Nat.mod_lt _ hlo
  have sub : x - x / l % v * l + n % v * l = x % l + n % v * l + x / (l * v) * (l * v) := by omega
  rw [sub, hW, Nat.mod_eq_of_lt]
  have b1 : (n % v + 1) * l ≤ v * l := Nat.mul_le_mul_right l hn
  have b2 : x / (l * v) < 2 ^ (63 - f.hi) := by
    rw [Nat.div_lt_iff_lt_mul (Nat.mul_pos hlo hwd), ← hW, Nat.mul_comm, ← hT]; exact hw
  have b3 : (x / (l * v) + 1) * (l * v) ≤ 2 ^ (63 - f.hi) * (l * v) := Nat.mul_le_mul_right _ b2
  have b4 : 2 ^ (63 - f.hi) * (l * v) = 2 ^ 64 := by rw [← hW, Nat.mul_comm, ← hT]
  rw [Nat.add_mul] at b1 b3
  have b5 : v * l = l * v := Nat.mul_comm ..
  omega

/-- A field reads what was put into it, cut to its width. -/
theorem Fld.get_put_same (f : Fld) (n : Nat) (w : Word) (h1 : f.lo ≤ f.hi) (h2 : f.hi < 64) :
    f.get (f.put n w) = n % 2 ^ (f.hi + 1 - f.lo) := by
  have hW : 2 ^ (f.hi + 1) = 2 ^ (f.hi + 1 - f.lo) * 2 ^ f.lo := by rw [← Nat.pow_add]; congr 1; omega
  have hlo : 0 < 2 ^ f.lo := Nat.two_pow_pos _
  have hwd : 0 < 2 ^ (f.hi + 1 - f.lo) := Nat.two_pow_pos _
  rw [Fld.get, bits, Fld.put_toNat f n w h1 h2, hW, ← Nat.mul_assoc, Nat.add_assoc, ← Nat.add_mul,
    Nat.add_mul_div_right _ _ hlo, Nat.div_eq_of_lt (Nat.mod_lt _ hlo), Nat.zero_add, Nat.add_mul_mod_self_right,
    Nat.mod_eq_of_lt (Nat.mod_lt _ hwd)]

/-- A field keeps its value when a field above it is put. -/
theorem Fld.get_put_above (f g : Fld) (n : Nat) (w : Word) (h1 : f.lo ≤ f.hi) (h2 : f.hi < 64) (h : g.hi < f.lo)
    (hg : g.lo ≤ g.hi) : g.get (f.put n w) = g.get w := by
  have key : ∀ x y : Nat, x % 2 ^ (g.hi + 1) = y % 2 ^ (g.hi + 1) → bits x g.hi g.lo = bits y g.hi g.lo := by
    intro x y e
    have hs : 2 ^ (g.hi + 1) = 2 ^ g.lo * 2 ^ (g.hi + 1 - g.lo) := by rw [← Nat.pow_add]; congr 1; omega
    have a : ∀ z : Nat, bits z g.hi g.lo = z % 2 ^ (g.hi + 1) / 2 ^ g.lo := by
      intro z; rw [hs, Nat.mod_mul_right_div_self, bits]
    rw [a x, a y, e]
  rw [Fld.get, Fld.get, Fld.put_toNat f n w h1 h2]
  apply key
  have hl : 2 ^ f.lo = 2 ^ (g.hi + 1) * 2 ^ (f.lo - (g.hi + 1)) := by rw [← Nat.pow_add]; congr 1; omega
  have hh : 2 ^ (f.hi + 1) = 2 ^ (g.hi + 1) * 2 ^ (f.hi - g.hi) := by rw [← Nat.pow_add]; congr 1; omega
  have m1 : w.toNat % 2 ^ f.lo % 2 ^ (g.hi + 1) = w.toNat % 2 ^ (g.hi + 1) := by
    rw [hl, Nat.mod_mul_right_mod]
  have m2 : ∀ z : Nat, z * 2 ^ f.lo = 2 ^ (g.hi + 1) * (z * 2 ^ (f.lo - (g.hi + 1))) := by
    intro z; rw [hl, Nat.mul_left_comm]
  have m3 : ∀ z : Nat, z * 2 ^ (f.hi + 1) = 2 ^ (g.hi + 1) * (z * 2 ^ (f.hi - g.hi)) := by
    intro z; rw [hh, Nat.mul_left_comm]
  rw [m2, m3, Nat.add_mul_mod_self_left, Nat.add_mul_mod_self_left, m1]

/-- A field keeps its value when a field below it is put. -/
theorem Fld.get_put_below (f g : Fld) (n : Nat) (w : Word) (h1 : f.lo ≤ f.hi) (h2 : f.hi < 64) (h : f.hi < g.lo) :
    g.get (f.put n w) = g.get w := by
  have hW : 2 ^ (f.hi + 1) = 2 ^ f.lo * 2 ^ (f.hi + 1 - f.lo) := by rw [← Nat.pow_add]; congr 1; omega
  have hwd : 0 < 2 ^ (f.hi + 1 - f.lo) := Nat.two_pow_pos _
  have hlo : 0 < 2 ^ f.lo := Nat.two_pow_pos _
  have key : ∀ x y : Nat, x / 2 ^ (f.hi + 1) = y / 2 ^ (f.hi + 1) → bits x g.hi g.lo = bits y g.hi g.lo := by
    intro x y e
    have hs : 2 ^ g.lo = 2 ^ (f.hi + 1) * 2 ^ (g.lo - (f.hi + 1)) := by rw [← Nat.pow_add]; congr 1; omega
    simp only [bits]; rw [hs, ← Nat.div_div_eq_div_mul, ← Nat.div_div_eq_div_mul, e]
  rw [Fld.get, Fld.get, Fld.put_toNat f n w h1 h2]
  apply key
  have hn : n % 2 ^ (f.hi + 1 - f.lo) + 1 ≤ 2 ^ (f.hi + 1 - f.lo) := Nat.mod_lt _ hwd
  have hx : w.toNat % 2 ^ f.lo < 2 ^ f.lo := Nat.mod_lt _ hlo
  have b : (n % 2 ^ (f.hi + 1 - f.lo) + 1) * 2 ^ f.lo ≤ 2 ^ (f.hi + 1 - f.lo) * 2 ^ f.lo := Nat.mul_le_mul_right _ hn
  rw [Nat.add_mul] at b
  have hb : 2 ^ (f.hi + 1 - f.lo) * 2 ^ f.lo = 2 ^ (f.hi + 1) := by rw [hW, Nat.mul_comm]
  rw [Nat.add_mul_div_right _ _ (Nat.two_pow_pos _), Nat.div_eq_of_lt (by omega), Nat.zero_add]

variable (d : Dev)

/-- A field of a register reads the value set, cut to its width. -/
theorem Dev.fld_setFld_same (r : Reg) (f : Fld) (n : Nat) (h1 : f.lo ≤ f.hi) (h2 : f.hi < 64) :
    (d.setFld r f n).fld r f = n % 2 ^ (f.hi + 1 - f.lo) := by
  simp [Dev.fld, Fld.get_put_same, h1, h2]

/-- A field keeps its value when another field of its register is set. -/
theorem Dev.fld_setFld_apart (r : Reg) (f g : Fld) (n : Nat) (h1 : f.lo ≤ f.hi) (h2 : f.hi < 64) (hg : g.lo ≤ g.hi)
    (h : g.hi < f.lo ∨ f.hi < g.lo) : (d.setFld r f n).fld r g = d.fld r g := by
  rcases h with h | h
  · simp [Dev.fld, Fld.get_put_above f g n _ h1 h2 h hg]
  · simp [Dev.fld, Fld.get_put_below f g n _ h1 h2 h]

end Sys2Proof.Machine
end

