-- ==== Sys2Proof/Laws/Frames.lean ====
section
/-! SUPPORT. What the shared operations on events, counters, queues and time leave as it was: one lemma per operation and field of the
package, and per operation what a register reads after it. -/

namespace Sys2Proof.Machine

/-- A fold whose every step keeps a projection keeps it. -/
theorem foldl_keeps {α β γ : Type} (π : α → γ) (f : α → β → α) (h : ∀ a b, π (f a b) = π a) (l : List β) (a : α) :
    π (l.foldl f a) = π a := by
  induction l generalizing a with
  | nil => rfl
  | cons b t ih => rw [List.foldl_cons, ih, h]

/-- A fold whose every step keeps a property keeps it. -/
theorem foldl_holds {α β : Type} {P : α → Prop} (f : α → β → α) (h : ∀ a b, P a → P (f a b)) (l : List β) (a : α) (ha : P a) :
    P (l.foldl f a) := by
  induction l generalizing a with
  | nil => exact ha
  | cons b t ih => exact ih _ (h a b ha)

variable (d : Dev)


/-! ### What keeps a projection that register writes keep -/

section
variable {γ : Type} (π : Dev → γ) (hw : ∀ (e : Dev) (r : Reg) (w : Word), π (e.wr r w) = π e)
include hw

theorem setFld_keeps (r : Reg) (f : Fld) (n : Nat) : π (d.setFld r f n) = π d := hw ..

theorem countAt_keeps (sel val : Nat → Reg) (ev n k : Nat) : π (countAt sel val ev n k d) = π d :=
  foldl_keeps π _ (by
    intro a b
    split
    · exact setFld_keeps _ π hw ..
    · rfl) _ _

theorem Dev.countCore_keeps (c ev n : Nat) : π (d.countCore c ev n) = π d := by
  unfold Dev.countCore; split
  · rfl
  · exact countAt_keeps d π hw ..

theorem Dev.takes_keeps (ws : List Word) : π (d.takes ws) = π d := by
  unfold Dev.takes Dev.sigAdd; dsimp only
  split <;> split <;> simp only [setFld_keeps _ π hw]

theorem Dev.choiceBit_keeps (n : Nat) : π (d.choiceBit n) = π d := by
  simp only [Dev.choiceBit, Dev.bumpWrap, setFld_keeps _ π hw]

theorem Dev.noteHead_keeps (hq : ∀ (e : Dev) (q : Nat) (x : Queue), π (e.setQueue q x) = π e) (q : Nat) : π (d.noteHead q) = π d := by
  unfold Dev.noteHead; dsimp only
  split
  · rfl
  · split
    · rfl
    · split
      · rw [Dev.choiceBit_keeps _ π hw, hq]
      · exact hq ..

theorem Dev.beginWith_keeps (hq : ∀ (e : Dev) (q : Nat) (x : Queue), π (e.setQueue q x) = π e) (q : Nat) (ws : List Word) (b : Bool) : π (d.beginWith q ws b) = π d := by
  have h0 : ∀ e : Dev, π (if b = true then e.takes ws else e) = π e := by
    intro e; split
    · exact Dev.takes_keeps e π hw ws
    · rfl
  unfold Dev.beginWith
  extract_lets d1 n d2 x r y d3
  have h3 : π d3 = π d := (hq ..).trans ((hw ..).trans (h0 d))
  split
  · exact h3
  · split
    · exact (Dev.countCore_keeps _ π hw ..).trans h3
    · exact h3

end

theorem Dev.tideTo_keeps {γ : Type} (π : Dev → γ) (ht : ∀ (e : Dev) (t : Tide), π (e.setTide t) = π e) (c : Word) : π (d.tideTo c) = π d := by
  unfold Dev.tideTo; dsimp only
  split
  · rfl
  · split <;> exact ht ..

/-- The clocks move on. -/
theorem Dev.pass_keeps {γ : Type} (π : Dev → γ) (hw : ∀ (e : Dev) (r : Reg) (w : Word), π (e.wr r w) = π e) (ht : ∀ (e : Dev) (t : Tide), π (e.setTide t) = π e)
    (hc : ∀ (e : Dev) (c p : Nat), π { e with cycle := c, ptime := p } = π e) (n : Nat) : π (d.pass n) = π d := by
  have h0 : ∀ (e : Dev) (c p : Nat) (t : Tide), π { e with cycle := c, ptime := p, tide := t } = π e := fun e c p t =>
    (ht { e with cycle := c, ptime := p } t).trans (hc e c p)
  unfold Dev.pass
  extract_lets adj t e m e2
  have h1 : π e = π d := h0 d _ _ _
  have h2 : π e2 = π d := by
    simp only [e2]; split
    · exact (countAt_keeps (e.setTide _) π hw _ _ _ _ _).trans ((ht e _).trans h1)
    · exact h1
  split
  · exact (Dev.tideTo_keeps _ π ht _).trans h2
  · split
    · split
      · exact (ht ..).trans h2
      · exact (Dev.tideTo_keeps _ π ht _).trans h2
    · exact h2

/-- A lapse of time is one or two passes. -/
theorem Dev.elapse_keeps {γ : Type} (π : Dev → γ) (hw : ∀ (e : Dev) (r : Reg) (w : Word), π (e.wr r w) = π e) (ht : ∀ (e : Dev) (t : Tide), π (e.setTide t) = π e)
    (hc : ∀ (e : Dev) (c p : Nat), π { e with cycle := c, ptime := p } = π e) (n : Nat) : π (d.elapse n) = π d := by
  unfold Dev.elapse; dsimp only; split
  · exact (Dev.pass_keeps _ π hw ht hc _).trans (Dev.pass_keeps _ π hw ht hc _)
  · exact Dev.pass_keeps _ π hw ht hc _


/-! ### countAt -/

@[simp] theorem countAt_held (sel val : Nat → Reg) (ev n k : Nat) : (countAt sel val ev n k d).held = d.held := countAt_keeps d Dev.held (fun _ _ _ => rfl) ..
@[simp] theorem countAt_cycle (sel val : Nat → Reg) (ev n k : Nat) : (countAt sel val ev n k d).cycle = d.cycle := countAt_keeps d Dev.cycle (fun _ _ _ => rfl) ..
@[simp] theorem countAt_ptime (sel val : Nat → Reg) (ev n k : Nat) : (countAt sel val ev n k d).ptime = d.ptime := countAt_keeps d Dev.ptime (fun _ _ _ => rfl) ..
@[simp] theorem countAt_tide (sel val : Nat → Reg) (ev n k : Nat) : (countAt sel val ev n k d).tide = d.tide := countAt_keeps d Dev.tide (fun _ _ _ => rfl) ..
@[simp] theorem countAt_capInForce (sel val : Nat → Reg) (ev n k : Nat) : (countAt sel val ev n k d).capInForce = d.capInForce := countAt_keeps d Dev.capInForce (fun _ _ _ => rfl) ..
@[simp] theorem countAt_mem (sel val : Nat → Reg) (ev n k : Nat) : (countAt sel val ev n k d).mem = d.mem := countAt_keeps d Dev.mem (fun _ _ _ => rfl) ..
@[simp] theorem countAt_far (sel val : Nat → Reg) (ev n k : Nat) : (countAt sel val ev n k d).far = d.far := countAt_keeps d Dev.far (fun _ _ _ => rfl) ..
@[simp] theorem countAt_badWords (sel val : Nat → Reg) (ev n k : Nat) : (countAt sel val ev n k d).badWords = d.badWords := countAt_keeps d Dev.badWords (fun _ _ _ => rfl) ..
@[simp] theorem countAt_cache (sel val : Nat → Reg) (ev n k : Nat) : (countAt sel val ev n k d).cache = d.cache := countAt_keeps d Dev.cache (fun _ _ _ => rfl) ..
@[simp] theorem countAt_cores (sel val : Nat → Reg) (ev n k : Nat) : (countAt sel val ev n k d).cores = d.cores := countAt_keeps d Dev.cores (fun _ _ _ => rfl) ..
@[simp] theorem countAt_ccs (sel val : Nat → Reg) (ev n k : Nat) : (countAt sel val ev n k d).ccs = d.ccs := countAt_keeps d Dev.ccs (fun _ _ _ => rfl) ..
@[simp] theorem countAt_queues (sel val : Nat → Reg) (ev n k : Nat) : (countAt sel val ev n k d).queues = d.queues := countAt_keeps d Dev.queues (fun _ _ _ => rfl) ..
@[simp] theorem countAt_fabric (sel val : Nat → Reg) (ev n k : Nat) : (countAt sel val ev n k d).fabric = d.fabric := countAt_keeps d Dev.fabric (fun _ _ _ => rfl) ..
@[simp] theorem countAt_plants (sel val : Nat → Reg) (ev n k : Nat) : (countAt sel val ev n k d).plants = d.plants := countAt_keeps d Dev.plants (fun _ _ _ => rfl) ..
@[simp] theorem countAt_hostLink (sel val : Nat → Reg) (ev n k : Nat) : (countAt sel val ev n k d).hostLink = d.hostLink := countAt_keeps d Dev.hostLink (fun _ _ _ => rfl) ..
@[simp] theorem countAt_perst (sel val : Nat → Reg) (ev n k : Nat) : (countAt sel val ev n k d).perst = d.perst := countAt_keeps d Dev.perst (fun _ _ _ => rfl) ..
@[simp] theorem countAt_bias (sel val : Nat → Reg) (ev n k : Nat) : (countAt sel val ev n k d).bias = d.bias := countAt_keeps d Dev.bias (fun _ _ _ => rfl) ..
@[simp] theorem countAt_bcast (sel val : Nat → Reg) (ev n k : Nat) : (countAt sel val ev n k d).bcast = d.bcast := countAt_keeps d Dev.bcast (fun _ _ _ => rfl) ..
@[simp] theorem countAt_board (sel val : Nat → Reg) (ev n k : Nat) : (countAt sel val ev n k d).board = d.board := countAt_keeps d Dev.board (fun _ _ _ => rfl) ..
@[simp] theorem countAt_boot (sel val : Nat → Reg) (ev n k : Nat) : (countAt sel val ev n k d).boot = d.boot := countAt_keeps d Dev.boot (fun _ _ _ => rfl) ..
@[simp] theorem countAt_ownerKey (sel val : Nat → Reg) (ev n k : Nat) : (countAt sel val ev n k d).ownerKey = d.ownerKey := countAt_keeps d Dev.ownerKey (fun _ _ _ => rfl) ..
@[simp] theorem countAt_topq (sel val : Nat → Reg) (ev n k : Nat) : (countAt sel val ev n k d).topq = d.topq := countAt_keeps d Dev.topq (fun _ _ _ => rfl) ..
@[simp] theorem countAt_leaf (sel val : Nat → Reg) (ev n k : Nat) : (countAt sel val ev n k d).leaf = d.leaf := countAt_keeps d Dev.leaf (fun _ _ _ => rfl) ..
@[simp] theorem countAt_custQ (sel val : Nat → Reg) (ev n k : Nat) : (countAt sel val ev n k d).custQ = d.custQ := countAt_keeps d Dev.custQ (fun _ _ _ => rfl) ..
@[simp] theorem countAt_custLost (sel val : Nat → Reg) (ev n k : Nat) : (countAt sel val ev n k d).custLost = d.custLost := countAt_keeps d Dev.custLost (fun _ _ _ => rfl) ..
@[simp] theorem countAt_log (sel val : Nat → Reg) (ev n k : Nat) : (countAt sel val ev n k d).log = d.log := countAt_keeps d Dev.log (fun _ _ _ => rfl) ..
@[simp] theorem countAt_cmpRun (sel val : Nat → Reg) (ev n k : Nat) : (countAt sel val ev n k d).cmpRun = d.cmpRun := countAt_keeps d Dev.cmpRun (fun _ _ _ => rfl) ..
@[simp] theorem countAt_escal (sel val : Nat → Reg) (ev n k : Nat) : (countAt sel val ev n k d).escal = d.escal := countAt_keeps d Dev.escal (fun _ _ _ => rfl) ..
@[simp] theorem countAt_resetCause (sel val : Nat → Reg) (ev n k : Nat) : (countAt sel val ev n k d).resetCause = d.resetCause := countAt_keeps d Dev.resetCause (fun _ _ _ => rfl) ..
@[simp] theorem countAt_corr (sel val : Nat → Reg) (ev n k : Nat) : (countAt sel val ev n k d).corr = d.corr := countAt_keeps d Dev.corr (fun _ _ _ => rfl) ..
@[simp] theorem countAt_jhold (sel val : Nat → Reg) (ev n k : Nat) : (countAt sel val ev n k d).jhold = d.jhold := countAt_keeps d Dev.jhold (fun _ _ _ => rfl) ..
@[simp] theorem countAt_faultN (sel val : Nat → Reg) (ev n k : Nat) : (countAt sel val ev n k d).faultN = d.faultN := countAt_keeps d Dev.faultN (fun _ _ _ => rfl) ..
@[simp] theorem countAt_pwrGood (sel val : Nat → Reg) (ev n k : Nat) : (countAt sel val ev n k d).pwrGood = d.pwrGood := countAt_keeps d Dev.pwrGood (fun _ _ _ => rfl) ..
@[simp] theorem countAt_supplyWarnN (sel val : Nat → Reg) (ev n k : Nat) : (countAt sel val ev n k d).supplyWarnN = d.supplyWarnN := countAt_keeps d Dev.supplyWarnN (fun _ _ _ => rfl) ..
@[simp] theorem countAt_stackT (sel val : Nat → Reg) (ev n k : Nat) : (countAt sel val ev n k d).stackT = d.stackT := countAt_keeps d Dev.stackT (fun _ _ _ => rfl) ..
@[simp] theorem countAt_junction (sel val : Nat → Reg) (ev n k : Nat) : (countAt sel val ev n k d).junction = d.junction := countAt_keeps d Dev.junction (fun _ _ _ => rfl) ..
@[simp] theorem countAt_recd (sel val : Nat → Reg) (ev n k : Nat) : (countAt sel val ev n k d).recd = d.recd := countAt_keeps d Dev.recd (fun _ _ _ => rfl) ..
@[simp] theorem countAt_snap (sel val : Nat → Reg) (ev n k : Nat) : (countAt sel val ev n k d).snap = d.snap := countAt_keeps d Dev.snap (fun _ _ _ => rfl) ..
@[simp] theorem countAt_folio (sel val : Nat → Reg) (ev n k : Nat) : (countAt sel val ev n k d).folio = d.folio := countAt_keeps d Dev.folio (fun _ _ _ => rfl) ..
@[simp] theorem countAt_mgmt (sel val : Nat → Reg) (ev n k : Nat) : (countAt sel val ev n k d).mgmt = d.mgmt := countAt_keeps d Dev.mgmt (fun _ _ _ => rfl) ..
@[simp] theorem countAt_out (sel val : Nat → Reg) (ev n k : Nat) : (countAt sel val ev n k d).out = d.out := countAt_keeps d Dev.out (fun _ _ _ => rfl) ..
@[simp] theorem countAt_free (sel val : Nat → Reg) (ev n k : Nat) : (countAt sel val ev n k d).free = d.free := countAt_keeps d Dev.free (fun _ _ _ => rfl) ..
theorem countAt_rd (sel val : Nat → Reg) (ev n k : Nat) {r : Reg} (h : ∀ j, r ≠ val j) : (countAt sel val ev n k d).rd r = d.rd r :=
  foldl_keeps (fun e => Dev.rd e r) _ (by intro a b; split <;> simp [Dev.rd_setFld_ne, h]) _ _

/-! ### Dev.countFb -/

@[simp] theorem Dev.countFb_held (die ev n : Nat) : (d.countFb die ev n).held = d.held := countAt_held _ _ _ _ _ _
@[simp] theorem Dev.countFb_cycle (die ev n : Nat) : (d.countFb die ev n).cycle = d.cycle := countAt_cycle _ _ _ _ _ _
@[simp] theorem Dev.countFb_ptime (die ev n : Nat) : (d.countFb die ev n).ptime = d.ptime := countAt_ptime _ _ _ _ _ _
@[simp] theorem Dev.countFb_tide (die ev n : Nat) : (d.countFb die ev n).tide = d.tide := countAt_tide _ _ _ _ _ _
@[simp] theorem Dev.countFb_capInForce (die ev n : Nat) : (d.countFb die ev n).capInForce = d.capInForce := countAt_capInForce _ _ _ _ _ _
@[simp] theorem Dev.countFb_mem (die ev n : Nat) : (d.countFb die ev n).mem = d.mem := countAt_mem _ _ _ _ _ _
@[simp] theorem Dev.countFb_far (die ev n : Nat) : (d.countFb die ev n).far = d.far := countAt_far _ _ _ _ _ _
@[simp] theorem Dev.countFb_badWords (die ev n : Nat) : (d.countFb die ev n).badWords = d.badWords := countAt_badWords _ _ _ _ _ _
@[simp] theorem Dev.countFb_cache (die ev n : Nat) : (d.countFb die ev n).cache = d.cache := countAt_cache _ _ _ _ _ _
@[simp] theorem Dev.countFb_cores (die ev n : Nat) : (d.countFb die ev n).cores = d.cores := countAt_cores _ _ _ _ _ _
@[simp] theorem Dev.countFb_ccs (die ev n : Nat) : (d.countFb die ev n).ccs = d.ccs := countAt_ccs _ _ _ _ _ _
@[simp] theorem Dev.countFb_queues (die ev n : Nat) : (d.countFb die ev n).queues = d.queues := countAt_queues _ _ _ _ _ _
@[simp] theorem Dev.countFb_fabric (die ev n : Nat) : (d.countFb die ev n).fabric = d.fabric := countAt_fabric _ _ _ _ _ _
@[simp] theorem Dev.countFb_plants (die ev n : Nat) : (d.countFb die ev n).plants = d.plants := countAt_plants _ _ _ _ _ _
@[simp] theorem Dev.countFb_hostLink (die ev n : Nat) : (d.countFb die ev n).hostLink = d.hostLink := countAt_hostLink _ _ _ _ _ _
@[simp] theorem Dev.countFb_perst (die ev n : Nat) : (d.countFb die ev n).perst = d.perst := countAt_perst _ _ _ _ _ _
@[simp] theorem Dev.countFb_bias (die ev n : Nat) : (d.countFb die ev n).bias = d.bias := countAt_bias _ _ _ _ _ _
@[simp] theorem Dev.countFb_bcast (die ev n : Nat) : (d.countFb die ev n).bcast = d.bcast := countAt_bcast _ _ _ _ _ _
@[simp] theorem Dev.countFb_board (die ev n : Nat) : (d.countFb die ev n).board = d.board := countAt_board _ _ _ _ _ _
@[simp] theorem Dev.countFb_boot (die ev n : Nat) : (d.countFb die ev n).boot = d.boot := countAt_boot _ _ _ _ _ _
@[simp] theorem Dev.countFb_ownerKey (die ev n : Nat) : (d.countFb die ev n).ownerKey = d.ownerKey := countAt_ownerKey _ _ _ _ _ _
@[simp] theorem Dev.countFb_topq (die ev n : Nat) : (d.countFb die ev n).topq = d.topq := countAt_topq _ _ _ _ _ _
@[simp] theorem Dev.countFb_leaf (die ev n : Nat) : (d.countFb die ev n).leaf = d.leaf := countAt_leaf _ _ _ _ _ _
@[simp] theorem Dev.countFb_custQ (die ev n : Nat) : (d.countFb die ev n).custQ = d.custQ := countAt_custQ _ _ _ _ _ _
@[simp] theorem Dev.countFb_custLost (die ev n : Nat) : (d.countFb die ev n).custLost = d.custLost := countAt_custLost _ _ _ _ _ _
@[simp] theorem Dev.countFb_log (die ev n : Nat) : (d.countFb die ev n).log = d.log := countAt_log _ _ _ _ _ _
@[simp] theorem Dev.countFb_cmpRun (die ev n : Nat) : (d.countFb die ev n).cmpRun = d.cmpRun := countAt_cmpRun _ _ _ _ _ _
@[simp] theorem Dev.countFb_escal (die ev n : Nat) : (d.countFb die ev n).escal = d.escal := countAt_escal _ _ _ _ _ _
@[simp] theorem Dev.countFb_resetCause (die ev n : Nat) : (d.countFb die ev n).resetCause = d.resetCause := countAt_resetCause _ _ _ _ _ _
@[simp] theorem Dev.countFb_corr (die ev n : Nat) : (d.countFb die ev n).corr = d.corr := countAt_corr _ _ _ _ _ _
@[simp] theorem Dev.countFb_jhold (die ev n : Nat) : (d.countFb die ev n).jhold = d.jhold := countAt_jhold _ _ _ _ _ _
@[simp] theorem Dev.countFb_faultN (die ev n : Nat) : (d.countFb die ev n).faultN = d.faultN := countAt_faultN _ _ _ _ _ _
@[simp] theorem Dev.countFb_pwrGood (die ev n : Nat) : (d.countFb die ev n).pwrGood = d.pwrGood := countAt_pwrGood _ _ _ _ _ _
@[simp] theorem Dev.countFb_supplyWarnN (die ev n : Nat) : (d.countFb die ev n).supplyWarnN = d.supplyWarnN := countAt_supplyWarnN _ _ _ _ _ _
@[simp] theorem Dev.countFb_stackT (die ev n : Nat) : (d.countFb die ev n).stackT = d.stackT := countAt_stackT _ _ _ _ _ _
@[simp] theorem Dev.countFb_junction (die ev n : Nat) : (d.countFb die ev n).junction = d.junction := countAt_junction _ _ _ _ _ _
@[simp] theorem Dev.countFb_recd (die ev n : Nat) : (d.countFb die ev n).recd = d.recd := countAt_recd _ _ _ _ _ _
@[simp] theorem Dev.countFb_snap (die ev n : Nat) : (d.countFb die ev n).snap = d.snap := countAt_snap _ _ _ _ _ _
@[simp] theorem Dev.countFb_folio (die ev n : Nat) : (d.countFb die ev n).folio = d.folio := countAt_folio _ _ _ _ _ _
@[simp] theorem Dev.countFb_mgmt (die ev n : Nat) : (d.countFb die ev n).mgmt = d.mgmt := countAt_mgmt _ _ _ _ _ _
@[simp] theorem Dev.countFb_out (die ev n : Nat) : (d.countFb die ev n).out = d.out := countAt_out _ _ _ _ _ _
@[simp] theorem Dev.countFb_free (die ev n : Nat) : (d.countFb die ev n).free = d.free := countAt_free _ _ _ _ _ _

/-! ### Dev.countCv -/

@[simp] theorem Dev.countCv_held (v ev n : Nat) : (d.countCv v ev n).held = d.held := countAt_held _ _ _ _ _ _
@[simp] theorem Dev.countCv_cycle (v ev n : Nat) : (d.countCv v ev n).cycle = d.cycle := countAt_cycle _ _ _ _ _ _
@[simp] theorem Dev.countCv_ptime (v ev n : Nat) : (d.countCv v ev n).ptime = d.ptime := countAt_ptime _ _ _ _ _ _
@[simp] theorem Dev.countCv_tide (v ev n : Nat) : (d.countCv v ev n).tide = d.tide := countAt_tide _ _ _ _ _ _
@[simp] theorem Dev.countCv_capInForce (v ev n : Nat) : (d.countCv v ev n).capInForce = d.capInForce := countAt_capInForce _ _ _ _ _ _
@[simp] theorem Dev.countCv_mem (v ev n : Nat) : (d.countCv v ev n).mem = d.mem := countAt_mem _ _ _ _ _ _
@[simp] theorem Dev.countCv_far (v ev n : Nat) : (d.countCv v ev n).far = d.far := countAt_far _ _ _ _ _ _
@[simp] theorem Dev.countCv_badWords (v ev n : Nat) : (d.countCv v ev n).badWords = d.badWords := countAt_badWords _ _ _ _ _ _
@[simp] theorem Dev.countCv_cache (v ev n : Nat) : (d.countCv v ev n).cache = d.cache := countAt_cache _ _ _ _ _ _
@[simp] theorem Dev.countCv_cores (v ev n : Nat) : (d.countCv v ev n).cores = d.cores := countAt_cores _ _ _ _ _ _
@[simp] theorem Dev.countCv_ccs (v ev n : Nat) : (d.countCv v ev n).ccs = d.ccs := countAt_ccs _ _ _ _ _ _
@[simp] theorem Dev.countCv_queues (v ev n : Nat) : (d.countCv v ev n).queues = d.queues := countAt_queues _ _ _ _ _ _
@[simp] theorem Dev.countCv_fabric (v ev n : Nat) : (d.countCv v ev n).fabric = d.fabric := countAt_fabric _ _ _ _ _ _
@[simp] theorem Dev.countCv_plants (v ev n : Nat) : (d.countCv v ev n).plants = d.plants := countAt_plants _ _ _ _ _ _
@[simp] theorem Dev.countCv_hostLink (v ev n : Nat) : (d.countCv v ev n).hostLink = d.hostLink := countAt_hostLink _ _ _ _ _ _
@[simp] theorem Dev.countCv_perst (v ev n : Nat) : (d.countCv v ev n).perst = d.perst := countAt_perst _ _ _ _ _ _
@[simp] theorem Dev.countCv_bias (v ev n : Nat) : (d.countCv v ev n).bias = d.bias := countAt_bias _ _ _ _ _ _
@[simp] theorem Dev.countCv_bcast (v ev n : Nat) : (d.countCv v ev n).bcast = d.bcast := countAt_bcast _ _ _ _ _ _
@[simp] theorem Dev.countCv_board (v ev n : Nat) : (d.countCv v ev n).board = d.board := countAt_board _ _ _ _ _ _
@[simp] theorem Dev.countCv_boot (v ev n : Nat) : (d.countCv v ev n).boot = d.boot := countAt_boot _ _ _ _ _ _
@[simp] theorem Dev.countCv_ownerKey (v ev n : Nat) : (d.countCv v ev n).ownerKey = d.ownerKey := countAt_ownerKey _ _ _ _ _ _
@[simp] theorem Dev.countCv_topq (v ev n : Nat) : (d.countCv v ev n).topq = d.topq := countAt_topq _ _ _ _ _ _
@[simp] theorem Dev.countCv_leaf (v ev n : Nat) : (d.countCv v ev n).leaf = d.leaf := countAt_leaf _ _ _ _ _ _
@[simp] theorem Dev.countCv_custQ (v ev n : Nat) : (d.countCv v ev n).custQ = d.custQ := countAt_custQ _ _ _ _ _ _
@[simp] theorem Dev.countCv_custLost (v ev n : Nat) : (d.countCv v ev n).custLost = d.custLost := countAt_custLost _ _ _ _ _ _
@[simp] theorem Dev.countCv_log (v ev n : Nat) : (d.countCv v ev n).log = d.log := countAt_log _ _ _ _ _ _
@[simp] theorem Dev.countCv_cmpRun (v ev n : Nat) : (d.countCv v ev n).cmpRun = d.cmpRun := countAt_cmpRun _ _ _ _ _ _
@[simp] theorem Dev.countCv_escal (v ev n : Nat) : (d.countCv v ev n).escal = d.escal := countAt_escal _ _ _ _ _ _
@[simp] theorem Dev.countCv_resetCause (v ev n : Nat) : (d.countCv v ev n).resetCause = d.resetCause := countAt_resetCause _ _ _ _ _ _
@[simp] theorem Dev.countCv_corr (v ev n : Nat) : (d.countCv v ev n).corr = d.corr := countAt_corr _ _ _ _ _ _
@[simp] theorem Dev.countCv_jhold (v ev n : Nat) : (d.countCv v ev n).jhold = d.jhold := countAt_jhold _ _ _ _ _ _
@[simp] theorem Dev.countCv_faultN (v ev n : Nat) : (d.countCv v ev n).faultN = d.faultN := countAt_faultN _ _ _ _ _ _
@[simp] theorem Dev.countCv_pwrGood (v ev n : Nat) : (d.countCv v ev n).pwrGood = d.pwrGood := countAt_pwrGood _ _ _ _ _ _
@[simp] theorem Dev.countCv_supplyWarnN (v ev n : Nat) : (d.countCv v ev n).supplyWarnN = d.supplyWarnN := countAt_supplyWarnN _ _ _ _ _ _
@[simp] theorem Dev.countCv_stackT (v ev n : Nat) : (d.countCv v ev n).stackT = d.stackT := countAt_stackT _ _ _ _ _ _
@[simp] theorem Dev.countCv_junction (v ev n : Nat) : (d.countCv v ev n).junction = d.junction := countAt_junction _ _ _ _ _ _
@[simp] theorem Dev.countCv_recd (v ev n : Nat) : (d.countCv v ev n).recd = d.recd := countAt_recd _ _ _ _ _ _
@[simp] theorem Dev.countCv_snap (v ev n : Nat) : (d.countCv v ev n).snap = d.snap := countAt_snap _ _ _ _ _ _
@[simp] theorem Dev.countCv_folio (v ev n : Nat) : (d.countCv v ev n).folio = d.folio := countAt_folio _ _ _ _ _ _
@[simp] theorem Dev.countCv_mgmt (v ev n : Nat) : (d.countCv v ev n).mgmt = d.mgmt := countAt_mgmt _ _ _ _ _ _
@[simp] theorem Dev.countCv_out (v ev n : Nat) : (d.countCv v ev n).out = d.out := countAt_out _ _ _ _ _ _
@[simp] theorem Dev.countCv_free (v ev n : Nat) : (d.countCv v ev n).free = d.free := countAt_free _ _ _ _ _ _

/-! ### Dev.countCn -/

@[simp] theorem Dev.countCn_held (ev n : Nat) : (d.countCn ev n).held = d.held := countAt_held _ _ _ _ _ _
@[simp] theorem Dev.countCn_cycle (ev n : Nat) : (d.countCn ev n).cycle = d.cycle := countAt_cycle _ _ _ _ _ _
@[simp] theorem Dev.countCn_ptime (ev n : Nat) : (d.countCn ev n).ptime = d.ptime := countAt_ptime _ _ _ _ _ _
@[simp] theorem Dev.countCn_tide (ev n : Nat) : (d.countCn ev n).tide = d.tide := countAt_tide _ _ _ _ _ _
@[simp] theorem Dev.countCn_capInForce (ev n : Nat) : (d.countCn ev n).capInForce = d.capInForce := countAt_capInForce _ _ _ _ _ _
@[simp] theorem Dev.countCn_mem (ev n : Nat) : (d.countCn ev n).mem = d.mem := countAt_mem _ _ _ _ _ _
@[simp] theorem Dev.countCn_far (ev n : Nat) : (d.countCn ev n).far = d.far := countAt_far _ _ _ _ _ _
@[simp] theorem Dev.countCn_badWords (ev n : Nat) : (d.countCn ev n).badWords = d.badWords := countAt_badWords _ _ _ _ _ _
@[simp] theorem Dev.countCn_cache (ev n : Nat) : (d.countCn ev n).cache = d.cache := countAt_cache _ _ _ _ _ _
@[simp] theorem Dev.countCn_cores (ev n : Nat) : (d.countCn ev n).cores = d.cores := countAt_cores _ _ _ _ _ _
@[simp] theorem Dev.countCn_ccs (ev n : Nat) : (d.countCn ev n).ccs = d.ccs := countAt_ccs _ _ _ _ _ _
@[simp] theorem Dev.countCn_queues (ev n : Nat) : (d.countCn ev n).queues = d.queues := countAt_queues _ _ _ _ _ _
@[simp] theorem Dev.countCn_fabric (ev n : Nat) : (d.countCn ev n).fabric = d.fabric := countAt_fabric _ _ _ _ _ _
@[simp] theorem Dev.countCn_plants (ev n : Nat) : (d.countCn ev n).plants = d.plants := countAt_plants _ _ _ _ _ _
@[simp] theorem Dev.countCn_hostLink (ev n : Nat) : (d.countCn ev n).hostLink = d.hostLink := countAt_hostLink _ _ _ _ _ _
@[simp] theorem Dev.countCn_perst (ev n : Nat) : (d.countCn ev n).perst = d.perst := countAt_perst _ _ _ _ _ _
@[simp] theorem Dev.countCn_bias (ev n : Nat) : (d.countCn ev n).bias = d.bias := countAt_bias _ _ _ _ _ _
@[simp] theorem Dev.countCn_bcast (ev n : Nat) : (d.countCn ev n).bcast = d.bcast := countAt_bcast _ _ _ _ _ _
@[simp] theorem Dev.countCn_board (ev n : Nat) : (d.countCn ev n).board = d.board := countAt_board _ _ _ _ _ _
@[simp] theorem Dev.countCn_boot (ev n : Nat) : (d.countCn ev n).boot = d.boot := countAt_boot _ _ _ _ _ _
@[simp] theorem Dev.countCn_ownerKey (ev n : Nat) : (d.countCn ev n).ownerKey = d.ownerKey := countAt_ownerKey _ _ _ _ _ _
@[simp] theorem Dev.countCn_topq (ev n : Nat) : (d.countCn ev n).topq = d.topq := countAt_topq _ _ _ _ _ _
@[simp] theorem Dev.countCn_leaf (ev n : Nat) : (d.countCn ev n).leaf = d.leaf := countAt_leaf _ _ _ _ _ _
@[simp] theorem Dev.countCn_custQ (ev n : Nat) : (d.countCn ev n).custQ = d.custQ := countAt_custQ _ _ _ _ _ _
@[simp] theorem Dev.countCn_custLost (ev n : Nat) : (d.countCn ev n).custLost = d.custLost := countAt_custLost _ _ _ _ _ _
@[simp] theorem Dev.countCn_log (ev n : Nat) : (d.countCn ev n).log = d.log := countAt_log _ _ _ _ _ _
@[simp] theorem Dev.countCn_cmpRun (ev n : Nat) : (d.countCn ev n).cmpRun = d.cmpRun := countAt_cmpRun _ _ _ _ _ _
@[simp] theorem Dev.countCn_escal (ev n : Nat) : (d.countCn ev n).escal = d.escal := countAt_escal _ _ _ _ _ _
@[simp] theorem Dev.countCn_resetCause (ev n : Nat) : (d.countCn ev n).resetCause = d.resetCause := countAt_resetCause _ _ _ _ _ _
@[simp] theorem Dev.countCn_corr (ev n : Nat) : (d.countCn ev n).corr = d.corr := countAt_corr _ _ _ _ _ _
@[simp] theorem Dev.countCn_jhold (ev n : Nat) : (d.countCn ev n).jhold = d.jhold := countAt_jhold _ _ _ _ _ _
@[simp] theorem Dev.countCn_faultN (ev n : Nat) : (d.countCn ev n).faultN = d.faultN := countAt_faultN _ _ _ _ _ _
@[simp] theorem Dev.countCn_pwrGood (ev n : Nat) : (d.countCn ev n).pwrGood = d.pwrGood := countAt_pwrGood _ _ _ _ _ _
@[simp] theorem Dev.countCn_supplyWarnN (ev n : Nat) : (d.countCn ev n).supplyWarnN = d.supplyWarnN := countAt_supplyWarnN _ _ _ _ _ _
@[simp] theorem Dev.countCn_stackT (ev n : Nat) : (d.countCn ev n).stackT = d.stackT := countAt_stackT _ _ _ _ _ _
@[simp] theorem Dev.countCn_junction (ev n : Nat) : (d.countCn ev n).junction = d.junction := countAt_junction _ _ _ _ _ _
@[simp] theorem Dev.countCn_recd (ev n : Nat) : (d.countCn ev n).recd = d.recd := countAt_recd _ _ _ _ _ _
@[simp] theorem Dev.countCn_snap (ev n : Nat) : (d.countCn ev n).snap = d.snap := countAt_snap _ _ _ _ _ _
@[simp] theorem Dev.countCn_folio (ev n : Nat) : (d.countCn ev n).folio = d.folio := countAt_folio _ _ _ _ _ _
@[simp] theorem Dev.countCn_mgmt (ev n : Nat) : (d.countCn ev n).mgmt = d.mgmt := countAt_mgmt _ _ _ _ _ _
@[simp] theorem Dev.countCn_out (ev n : Nat) : (d.countCn ev n).out = d.out := countAt_out _ _ _ _ _ _
@[simp] theorem Dev.countCn_free (ev n : Nat) : (d.countCn ev n).free = d.free := countAt_free _ _ _ _ _ _

/-! ### Dev.countTg -/

@[simp] theorem Dev.countTg_held (ev n : Nat) : (d.countTg ev n).held = d.held := countAt_held _ _ _ _ _ _
@[simp] theorem Dev.countTg_cycle (ev n : Nat) : (d.countTg ev n).cycle = d.cycle := countAt_cycle _ _ _ _ _ _
@[simp] theorem Dev.countTg_ptime (ev n : Nat) : (d.countTg ev n).ptime = d.ptime := countAt_ptime _ _ _ _ _ _
@[simp] theorem Dev.countTg_tide (ev n : Nat) : (d.countTg ev n).tide = d.tide := countAt_tide _ _ _ _ _ _
@[simp] theorem Dev.countTg_capInForce (ev n : Nat) : (d.countTg ev n).capInForce = d.capInForce := countAt_capInForce _ _ _ _ _ _
@[simp] theorem Dev.countTg_mem (ev n : Nat) : (d.countTg ev n).mem = d.mem := countAt_mem _ _ _ _ _ _
@[simp] theorem Dev.countTg_far (ev n : Nat) : (d.countTg ev n).far = d.far := countAt_far _ _ _ _ _ _
@[simp] theorem Dev.countTg_badWords (ev n : Nat) : (d.countTg ev n).badWords = d.badWords := countAt_badWords _ _ _ _ _ _
@[simp] theorem Dev.countTg_cache (ev n : Nat) : (d.countTg ev n).cache = d.cache := countAt_cache _ _ _ _ _ _
@[simp] theorem Dev.countTg_cores (ev n : Nat) : (d.countTg ev n).cores = d.cores := countAt_cores _ _ _ _ _ _
@[simp] theorem Dev.countTg_ccs (ev n : Nat) : (d.countTg ev n).ccs = d.ccs := countAt_ccs _ _ _ _ _ _
@[simp] theorem Dev.countTg_queues (ev n : Nat) : (d.countTg ev n).queues = d.queues := countAt_queues _ _ _ _ _ _
@[simp] theorem Dev.countTg_fabric (ev n : Nat) : (d.countTg ev n).fabric = d.fabric := countAt_fabric _ _ _ _ _ _
@[simp] theorem Dev.countTg_plants (ev n : Nat) : (d.countTg ev n).plants = d.plants := countAt_plants _ _ _ _ _ _
@[simp] theorem Dev.countTg_hostLink (ev n : Nat) : (d.countTg ev n).hostLink = d.hostLink := countAt_hostLink _ _ _ _ _ _
@[simp] theorem Dev.countTg_perst (ev n : Nat) : (d.countTg ev n).perst = d.perst := countAt_perst _ _ _ _ _ _
@[simp] theorem Dev.countTg_bias (ev n : Nat) : (d.countTg ev n).bias = d.bias := countAt_bias _ _ _ _ _ _
@[simp] theorem Dev.countTg_bcast (ev n : Nat) : (d.countTg ev n).bcast = d.bcast := countAt_bcast _ _ _ _ _ _
@[simp] theorem Dev.countTg_board (ev n : Nat) : (d.countTg ev n).board = d.board := countAt_board _ _ _ _ _ _
@[simp] theorem Dev.countTg_boot (ev n : Nat) : (d.countTg ev n).boot = d.boot := countAt_boot _ _ _ _ _ _
@[simp] theorem Dev.countTg_ownerKey (ev n : Nat) : (d.countTg ev n).ownerKey = d.ownerKey := countAt_ownerKey _ _ _ _ _ _
@[simp] theorem Dev.countTg_topq (ev n : Nat) : (d.countTg ev n).topq = d.topq := countAt_topq _ _ _ _ _ _
@[simp] theorem Dev.countTg_leaf (ev n : Nat) : (d.countTg ev n).leaf = d.leaf := countAt_leaf _ _ _ _ _ _
@[simp] theorem Dev.countTg_custQ (ev n : Nat) : (d.countTg ev n).custQ = d.custQ := countAt_custQ _ _ _ _ _ _
@[simp] theorem Dev.countTg_custLost (ev n : Nat) : (d.countTg ev n).custLost = d.custLost := countAt_custLost _ _ _ _ _ _
@[simp] theorem Dev.countTg_log (ev n : Nat) : (d.countTg ev n).log = d.log := countAt_log _ _ _ _ _ _
@[simp] theorem Dev.countTg_cmpRun (ev n : Nat) : (d.countTg ev n).cmpRun = d.cmpRun := countAt_cmpRun _ _ _ _ _ _
@[simp] theorem Dev.countTg_escal (ev n : Nat) : (d.countTg ev n).escal = d.escal := countAt_escal _ _ _ _ _ _
@[simp] theorem Dev.countTg_resetCause (ev n : Nat) : (d.countTg ev n).resetCause = d.resetCause := countAt_resetCause _ _ _ _ _ _
@[simp] theorem Dev.countTg_corr (ev n : Nat) : (d.countTg ev n).corr = d.corr := countAt_corr _ _ _ _ _ _
@[simp] theorem Dev.countTg_jhold (ev n : Nat) : (d.countTg ev n).jhold = d.jhold := countAt_jhold _ _ _ _ _ _
@[simp] theorem Dev.countTg_faultN (ev n : Nat) : (d.countTg ev n).faultN = d.faultN := countAt_faultN _ _ _ _ _ _
@[simp] theorem Dev.countTg_pwrGood (ev n : Nat) : (d.countTg ev n).pwrGood = d.pwrGood := countAt_pwrGood _ _ _ _ _ _
@[simp] theorem Dev.countTg_supplyWarnN (ev n : Nat) : (d.countTg ev n).supplyWarnN = d.supplyWarnN := countAt_supplyWarnN _ _ _ _ _ _
@[simp] theorem Dev.countTg_stackT (ev n : Nat) : (d.countTg ev n).stackT = d.stackT := countAt_stackT _ _ _ _ _ _
@[simp] theorem Dev.countTg_junction (ev n : Nat) : (d.countTg ev n).junction = d.junction := countAt_junction _ _ _ _ _ _
@[simp] theorem Dev.countTg_recd (ev n : Nat) : (d.countTg ev n).recd = d.recd := countAt_recd _ _ _ _ _ _
@[simp] theorem Dev.countTg_snap (ev n : Nat) : (d.countTg ev n).snap = d.snap := countAt_snap _ _ _ _ _ _
@[simp] theorem Dev.countTg_folio (ev n : Nat) : (d.countTg ev n).folio = d.folio := countAt_folio _ _ _ _ _ _
@[simp] theorem Dev.countTg_mgmt (ev n : Nat) : (d.countTg ev n).mgmt = d.mgmt := countAt_mgmt _ _ _ _ _ _
@[simp] theorem Dev.countTg_out (ev n : Nat) : (d.countTg ev n).out = d.out := countAt_out _ _ _ _ _ _
@[simp] theorem Dev.countTg_free (ev n : Nat) : (d.countTg ev n).free = d.free := countAt_free _ _ _ _ _ _

/-! ### Dev.countCore -/

@[simp] theorem Dev.countCore_held (c ev n : Nat) : (d.countCore c ev n).held = d.held := d.countCore_keeps Dev.held (fun _ _ _ => rfl) ..
@[simp] theorem Dev.countCore_cycle (c ev n : Nat) : (d.countCore c ev n).cycle = d.cycle := d.countCore_keeps Dev.cycle (fun _ _ _ => rfl) ..
@[simp] theorem Dev.countCore_ptime (c ev n : Nat) : (d.countCore c ev n).ptime = d.ptime := d.countCore_keeps Dev.ptime (fun _ _ _ => rfl) ..
@[simp] theorem Dev.countCore_tide (c ev n : Nat) : (d.countCore c ev n).tide = d.tide := d.countCore_keeps Dev.tide (fun _ _ _ => rfl) ..
@[simp] theorem Dev.countCore_capInForce (c ev n : Nat) : (d.countCore c ev n).capInForce = d.capInForce := d.countCore_keeps Dev.capInForce (fun _ _ _ => rfl) ..
@[simp] theorem Dev.countCore_mem (c ev n : Nat) : (d.countCore c ev n).mem = d.mem := d.countCore_keeps Dev.mem (fun _ _ _ => rfl) ..
@[simp] theorem Dev.countCore_far (c ev n : Nat) : (d.countCore c ev n).far = d.far := d.countCore_keeps Dev.far (fun _ _ _ => rfl) ..
@[simp] theorem Dev.countCore_badWords (c ev n : Nat) : (d.countCore c ev n).badWords = d.badWords := d.countCore_keeps Dev.badWords (fun _ _ _ => rfl) ..
@[simp] theorem Dev.countCore_cache (c ev n : Nat) : (d.countCore c ev n).cache = d.cache := d.countCore_keeps Dev.cache (fun _ _ _ => rfl) ..
@[simp] theorem Dev.countCore_cores (c ev n : Nat) : (d.countCore c ev n).cores = d.cores := d.countCore_keeps Dev.cores (fun _ _ _ => rfl) ..
@[simp] theorem Dev.countCore_ccs (c ev n : Nat) : (d.countCore c ev n).ccs = d.ccs := d.countCore_keeps Dev.ccs (fun _ _ _ => rfl) ..
@[simp] theorem Dev.countCore_queues (c ev n : Nat) : (d.countCore c ev n).queues = d.queues := d.countCore_keeps Dev.queues (fun _ _ _ => rfl) ..
@[simp] theorem Dev.countCore_fabric (c ev n : Nat) : (d.countCore c ev n).fabric = d.fabric := d.countCore_keeps Dev.fabric (fun _ _ _ => rfl) ..
@[simp] theorem Dev.countCore_plants (c ev n : Nat) : (d.countCore c ev n).plants = d.plants := d.countCore_keeps Dev.plants (fun _ _ _ => rfl) ..
@[simp] theorem Dev.countCore_hostLink (c ev n : Nat) : (d.countCore c ev n).hostLink = d.hostLink := d.countCore_keeps Dev.hostLink (fun _ _ _ => rfl) ..
@[simp] theorem Dev.countCore_perst (c ev n : Nat) : (d.countCore c ev n).perst = d.perst := d.countCore_keeps Dev.perst (fun _ _ _ => rfl) ..
@[simp] theorem Dev.countCore_bias (c ev n : Nat) : (d.countCore c ev n).bias = d.bias := d.countCore_keeps Dev.bias (fun _ _ _ => rfl) ..
@[simp] theorem Dev.countCore_bcast (c ev n : Nat) : (d.countCore c ev n).bcast = d.bcast := d.countCore_keeps Dev.bcast (fun _ _ _ => rfl) ..
@[simp] theorem Dev.countCore_board (c ev n : Nat) : (d.countCore c ev n).board = d.board := d.countCore_keeps Dev.board (fun _ _ _ => rfl) ..
@[simp] theorem Dev.countCore_boot (c ev n : Nat) : (d.countCore c ev n).boot = d.boot := d.countCore_keeps Dev.boot (fun _ _ _ => rfl) ..
@[simp] theorem Dev.countCore_ownerKey (c ev n : Nat) : (d.countCore c ev n).ownerKey = d.ownerKey := d.countCore_keeps Dev.ownerKey (fun _ _ _ => rfl) ..
@[simp] theorem Dev.countCore_topq (c ev n : Nat) : (d.countCore c ev n).topq = d.topq := d.countCore_keeps Dev.topq (fun _ _ _ => rfl) ..
@[simp] theorem Dev.countCore_leaf (c ev n : Nat) : (d.countCore c ev n).leaf = d.leaf := d.countCore_keeps Dev.leaf (fun _ _ _ => rfl) ..
@[simp] theorem Dev.countCore_custQ (c ev n : Nat) : (d.countCore c ev n).custQ = d.custQ := d.countCore_keeps Dev.custQ (fun _ _ _ => rfl) ..
@[simp] theorem Dev.countCore_custLost (c ev n : Nat) : (d.countCore c ev n).custLost = d.custLost := d.countCore_keeps Dev.custLost (fun _ _ _ => rfl) ..
@[simp] theorem Dev.countCore_log (c ev n : Nat) : (d.countCore c ev n).log = d.log := d.countCore_keeps Dev.log (fun _ _ _ => rfl) ..
@[simp] theorem Dev.countCore_cmpRun (c ev n : Nat) : (d.countCore c ev n).cmpRun = d.cmpRun := d.countCore_keeps Dev.cmpRun (fun _ _ _ => rfl) ..
@[simp] theorem Dev.countCore_escal (c ev n : Nat) : (d.countCore c ev n).escal = d.escal := d.countCore_keeps Dev.escal (fun _ _ _ => rfl) ..
@[simp] theorem Dev.countCore_resetCause (c ev n : Nat) : (d.countCore c ev n).resetCause = d.resetCause := d.countCore_keeps Dev.resetCause (fun _ _ _ => rfl) ..
@[simp] theorem Dev.countCore_corr (c ev n : Nat) : (d.countCore c ev n).corr = d.corr := d.countCore_keeps Dev.corr (fun _ _ _ => rfl) ..
@[simp] theorem Dev.countCore_jhold (c ev n : Nat) : (d.countCore c ev n).jhold = d.jhold := d.countCore_keeps Dev.jhold (fun _ _ _ => rfl) ..
@[simp] theorem Dev.countCore_faultN (c ev n : Nat) : (d.countCore c ev n).faultN = d.faultN := d.countCore_keeps Dev.faultN (fun _ _ _ => rfl) ..
@[simp] theorem Dev.countCore_pwrGood (c ev n : Nat) : (d.countCore c ev n).pwrGood = d.pwrGood := d.countCore_keeps Dev.pwrGood (fun _ _ _ => rfl) ..
@[simp] theorem Dev.countCore_supplyWarnN (c ev n : Nat) : (d.countCore c ev n).supplyWarnN = d.supplyWarnN := d.countCore_keeps Dev.supplyWarnN (fun _ _ _ => rfl) ..
@[simp] theorem Dev.countCore_stackT (c ev n : Nat) : (d.countCore c ev n).stackT = d.stackT := d.countCore_keeps Dev.stackT (fun _ _ _ => rfl) ..
@[simp] theorem Dev.countCore_junction (c ev n : Nat) : (d.countCore c ev n).junction = d.junction := d.countCore_keeps Dev.junction (fun _ _ _ => rfl) ..
@[simp] theorem Dev.countCore_recd (c ev n : Nat) : (d.countCore c ev n).recd = d.recd := d.countCore_keeps Dev.recd (fun _ _ _ => rfl) ..
@[simp] theorem Dev.countCore_snap (c ev n : Nat) : (d.countCore c ev n).snap = d.snap := d.countCore_keeps Dev.snap (fun _ _ _ => rfl) ..
@[simp] theorem Dev.countCore_folio (c ev n : Nat) : (d.countCore c ev n).folio = d.folio := d.countCore_keeps Dev.folio (fun _ _ _ => rfl) ..
@[simp] theorem Dev.countCore_mgmt (c ev n : Nat) : (d.countCore c ev n).mgmt = d.mgmt := d.countCore_keeps Dev.mgmt (fun _ _ _ => rfl) ..
@[simp] theorem Dev.countCore_out (c ev n : Nat) : (d.countCore c ev n).out = d.out := d.countCore_keeps Dev.out (fun _ _ _ => rfl) ..
@[simp] theorem Dev.countCore_free (c ev n : Nat) : (d.countCore c ev n).free = d.free := d.countCore_keeps Dev.free (fun _ _ _ => rfl) ..
theorem Dev.countFb_rd (die ev n : Nat) {r : Reg} (h : ∀ j, r ≠ .fbPmcValue die j) : (d.countFb die ev n).rd r = d.rd r := countAt_rd _ _ _ _ _ _ h
theorem Dev.countCv_rd (v ev n : Nat) {r : Reg} (h : ∀ j, r ≠ .cvPmcValue v j) : (d.countCv v ev n).rd r = d.rd r := countAt_rd _ _ _ _ _ _ h
theorem Dev.countCn_rd (ev n : Nat) {r : Reg} (h : ∀ j, r ≠ .cnPmcValue j) : (d.countCn ev n).rd r = d.rd r := countAt_rd _ _ _ _ _ _ h
theorem Dev.countTg_rd (ev n : Nat) {r : Reg} (h : ∀ j, r ≠ .tgPmcValue j) : (d.countTg ev n).rd r = d.rd r := countAt_rd _ _ _ _ _ _ h
theorem Dev.countCore_rd (c ev n : Nat) {r : Reg} (h : ∀ j, r ≠ .corePmcValue c j) : (d.countCore c ev n).rd r = d.rd r := by
  unfold Dev.countCore; split
  · rfl
  · exact countAt_rd _ _ _ _ _ _ h

/-! ### Dev.pushCust -/

@[simp] theorem Dev.pushCust_held (e : CustEv) : (d.pushCust e).held = d.held := by unfold Dev.pushCust; split <;> rfl
@[simp] theorem Dev.pushCust_cycle (e : CustEv) : (d.pushCust e).cycle = d.cycle := by unfold Dev.pushCust; split <;> rfl
@[simp] theorem Dev.pushCust_ptime (e : CustEv) : (d.pushCust e).ptime = d.ptime := by unfold Dev.pushCust; split <;> rfl
@[simp] theorem Dev.pushCust_tide (e : CustEv) : (d.pushCust e).tide = d.tide := by unfold Dev.pushCust; split <;> rfl
@[simp] theorem Dev.pushCust_capInForce (e : CustEv) : (d.pushCust e).capInForce = d.capInForce := by unfold Dev.pushCust; split <;> rfl
@[simp] theorem Dev.pushCust_mem (e : CustEv) : (d.pushCust e).mem = d.mem := by unfold Dev.pushCust; split <;> rfl
@[simp] theorem Dev.pushCust_far (e : CustEv) : (d.pushCust e).far = d.far := by unfold Dev.pushCust; split <;> rfl
@[simp] theorem Dev.pushCust_badWords (e : CustEv) : (d.pushCust e).badWords = d.badWords := by unfold Dev.pushCust; split <;> rfl
@[simp] theorem Dev.pushCust_cache (e : CustEv) : (d.pushCust e).cache = d.cache := by unfold Dev.pushCust; split <;> rfl
@[simp] theorem Dev.pushCust_cores (e : CustEv) : (d.pushCust e).cores = d.cores := by unfold Dev.pushCust; split <;> rfl
@[simp] theorem Dev.pushCust_ccs (e : CustEv) : (d.pushCust e).ccs = d.ccs := by unfold Dev.pushCust; split <;> rfl
@[simp] theorem Dev.pushCust_queues (e : CustEv) : (d.pushCust e).queues = d.queues := by unfold Dev.pushCust; split <;> rfl
@[simp] theorem Dev.pushCust_fabric (e : CustEv) : (d.pushCust e).fabric = d.fabric := by unfold Dev.pushCust; split <;> rfl
@[simp] theorem Dev.pushCust_plants (e : CustEv) : (d.pushCust e).plants = d.plants := by unfold Dev.pushCust; split <;> rfl
@[simp] theorem Dev.pushCust_hostLink (e : CustEv) : (d.pushCust e).hostLink = d.hostLink := by unfold Dev.pushCust; split <;> rfl
@[simp] theorem Dev.pushCust_perst (e : CustEv) : (d.pushCust e).perst = d.perst := by unfold Dev.pushCust; split <;> rfl
@[simp] theorem Dev.pushCust_bias (e : CustEv) : (d.pushCust e).bias = d.bias := by unfold Dev.pushCust; split <;> rfl
@[simp] theorem Dev.pushCust_bcast (e : CustEv) : (d.pushCust e).bcast = d.bcast := by unfold Dev.pushCust; split <;> rfl
@[simp] theorem Dev.pushCust_board (e : CustEv) : (d.pushCust e).board = d.board := by unfold Dev.pushCust; split <;> rfl
@[simp] theorem Dev.pushCust_boot (e : CustEv) : (d.pushCust e).boot = d.boot := by unfold Dev.pushCust; split <;> rfl
@[simp] theorem Dev.pushCust_ownerKey (e : CustEv) : (d.pushCust e).ownerKey = d.ownerKey := by unfold Dev.pushCust; split <;> rfl
@[simp] theorem Dev.pushCust_topq (e : CustEv) : (d.pushCust e).topq = d.topq := by unfold Dev.pushCust; split <;> rfl
@[simp] theorem Dev.pushCust_leaf (e : CustEv) : (d.pushCust e).leaf = d.leaf := by unfold Dev.pushCust; split <;> rfl
@[simp] theorem Dev.pushCust_log (e : CustEv) : (d.pushCust e).log = d.log := by unfold Dev.pushCust; split <;> rfl
@[simp] theorem Dev.pushCust_cmpRun (e : CustEv) : (d.pushCust e).cmpRun = d.cmpRun := by unfold Dev.pushCust; split <;> rfl
@[simp] theorem Dev.pushCust_escal (e : CustEv) : (d.pushCust e).escal = d.escal := by unfold Dev.pushCust; split <;> rfl
@[simp] theorem Dev.pushCust_resetCause (e : CustEv) : (d.pushCust e).resetCause = d.resetCause := by unfold Dev.pushCust; split <;> rfl
@[simp] theorem Dev.pushCust_corr (e : CustEv) : (d.pushCust e).corr = d.corr := by unfold Dev.pushCust; split <;> rfl
@[simp] theorem Dev.pushCust_jhold (e : CustEv) : (d.pushCust e).jhold = d.jhold := by unfold Dev.pushCust; split <;> rfl
@[simp] theorem Dev.pushCust_faultN (e : CustEv) : (d.pushCust e).faultN = d.faultN := by unfold Dev.pushCust; split <;> rfl
@[simp] theorem Dev.pushCust_pwrGood (e : CustEv) : (d.pushCust e).pwrGood = d.pwrGood := by unfold Dev.pushCust; split <;> rfl
@[simp] theorem Dev.pushCust_supplyWarnN (e : CustEv) : (d.pushCust e).supplyWarnN = d.supplyWarnN := by unfold Dev.pushCust; split <;> rfl
@[simp] theorem Dev.pushCust_stackT (e : CustEv) : (d.pushCust e).stackT = d.stackT := by unfold Dev.pushCust; split <;> rfl
@[simp] theorem Dev.pushCust_junction (e : CustEv) : (d.pushCust e).junction = d.junction := by unfold Dev.pushCust; split <;> rfl
@[simp] theorem Dev.pushCust_recd (e : CustEv) : (d.pushCust e).recd = d.recd := by unfold Dev.pushCust; split <;> rfl
@[simp] theorem Dev.pushCust_snap (e : CustEv) : (d.pushCust e).snap = d.snap := by unfold Dev.pushCust; split <;> rfl
@[simp] theorem Dev.pushCust_folio (e : CustEv) : (d.pushCust e).folio = d.folio := by unfold Dev.pushCust; split <;> rfl
@[simp] theorem Dev.pushCust_mgmt (e : CustEv) : (d.pushCust e).mgmt = d.mgmt := by unfold Dev.pushCust; split <;> rfl
@[simp] theorem Dev.pushCust_out (e : CustEv) : (d.pushCust e).out = d.out := by unfold Dev.pushCust; split <;> rfl
@[simp] theorem Dev.pushCust_free (e : CustEv) : (d.pushCust e).free = d.free := by unfold Dev.pushCust; split <;> rfl
theorem Dev.pushCust_rd (e : CustEv) {r : Reg} (h : r ≠ .glErrStatus) : (d.pushCust e).rd r = d.rd r := by
  unfold Dev.pushCust; split
  · exact Dev.rd_setFld_ne _ _ _ h
  · exact Dev.rd_setFld_ne _ _ _ h

/-! ### Dev.event -/

@[simp] theorem Dev.event_held (src code data : Nat) (irq : Bool) : (d.event src code data irq).held = d.held := Dev.pushCust_held _ _
@[simp] theorem Dev.event_cycle (src code data : Nat) (irq : Bool) : (d.event src code data irq).cycle = d.cycle := Dev.pushCust_cycle _ _
@[simp] theorem Dev.event_ptime (src code data : Nat) (irq : Bool) : (d.event src code data irq).ptime = d.ptime := Dev.pushCust_ptime _ _
@[simp] theorem Dev.event_tide (src code data : Nat) (irq : Bool) : (d.event src code data irq).tide = d.tide := Dev.pushCust_tide _ _
@[simp] theorem Dev.event_capInForce (src code data : Nat) (irq : Bool) : (d.event src code data irq).capInForce = d.capInForce := Dev.pushCust_capInForce _ _
@[simp] theorem Dev.event_mem (src code data : Nat) (irq : Bool) : (d.event src code data irq).mem = d.mem := Dev.pushCust_mem _ _
@[simp] theorem Dev.event_far (src code data : Nat) (irq : Bool) : (d.event src code data irq).far = d.far := Dev.pushCust_far _ _
@[simp] theorem Dev.event_badWords (src code data : Nat) (irq : Bool) : (d.event src code data irq).badWords = d.badWords := Dev.pushCust_badWords _ _
@[simp] theorem Dev.event_cache (src code data : Nat) (irq : Bool) : (d.event src code data irq).cache = d.cache := Dev.pushCust_cache _ _
@[simp] theorem Dev.event_cores (src code data : Nat) (irq : Bool) : (d.event src code data irq).cores = d.cores := Dev.pushCust_cores _ _
@[simp] theorem Dev.event_ccs (src code data : Nat) (irq : Bool) : (d.event src code data irq).ccs = d.ccs := Dev.pushCust_ccs _ _
@[simp] theorem Dev.event_queues (src code data : Nat) (irq : Bool) : (d.event src code data irq).queues = d.queues := Dev.pushCust_queues _ _
@[simp] theorem Dev.event_fabric (src code data : Nat) (irq : Bool) : (d.event src code data irq).fabric = d.fabric := Dev.pushCust_fabric _ _
@[simp] theorem Dev.event_plants (src code data : Nat) (irq : Bool) : (d.event src code data irq).plants = d.plants := Dev.pushCust_plants _ _
@[simp] theorem Dev.event_hostLink (src code data : Nat) (irq : Bool) : (d.event src code data irq).hostLink = d.hostLink := Dev.pushCust_hostLink _ _
@[simp] theorem Dev.event_perst (src code data : Nat) (irq : Bool) : (d.event src code data irq).perst = d.perst := Dev.pushCust_perst _ _
@[simp] theorem Dev.event_bias (src code data : Nat) (irq : Bool) : (d.event src code data irq).bias = d.bias := Dev.pushCust_bias _ _
@[simp] theorem Dev.event_bcast (src code data : Nat) (irq : Bool) : (d.event src code data irq).bcast = d.bcast := Dev.pushCust_bcast _ _
@[simp] theorem Dev.event_board (src code data : Nat) (irq : Bool) : (d.event src code data irq).board = d.board := Dev.pushCust_board _ _
@[simp] theorem Dev.event_boot (src code data : Nat) (irq : Bool) : (d.event src code data irq).boot = d.boot := Dev.pushCust_boot _ _
@[simp] theorem Dev.event_ownerKey (src code data : Nat) (irq : Bool) : (d.event src code data irq).ownerKey = d.ownerKey := Dev.pushCust_ownerKey _ _
@[simp] theorem Dev.event_topq (src code data : Nat) (irq : Bool) : (d.event src code data irq).topq = d.topq := Dev.pushCust_topq _ _
@[simp] theorem Dev.event_leaf (src code data : Nat) (irq : Bool) : (d.event src code data irq).leaf = d.leaf := Dev.pushCust_leaf _ _
@[simp] theorem Dev.event_log (src code data : Nat) (irq : Bool) : (d.event src code data irq).log = d.log := Dev.pushCust_log _ _
@[simp] theorem Dev.event_cmpRun (src code data : Nat) (irq : Bool) : (d.event src code data irq).cmpRun = d.cmpRun := Dev.pushCust_cmpRun _ _
@[simp] theorem Dev.event_escal (src code data : Nat) (irq : Bool) : (d.event src code data irq).escal = d.escal := Dev.pushCust_escal _ _
@[simp] theorem Dev.event_resetCause (src code data : Nat) (irq : Bool) : (d.event src code data irq).resetCause = d.resetCause := Dev.pushCust_resetCause _ _
@[simp] theorem Dev.event_corr (src code data : Nat) (irq : Bool) : (d.event src code data irq).corr = d.corr := Dev.pushCust_corr _ _
@[simp] theorem Dev.event_jhold (src code data : Nat) (irq : Bool) : (d.event src code data irq).jhold = d.jhold := Dev.pushCust_jhold _ _
@[simp] theorem Dev.event_faultN (src code data : Nat) (irq : Bool) : (d.event src code data irq).faultN = d.faultN := Dev.pushCust_faultN _ _
@[simp] theorem Dev.event_pwrGood (src code data : Nat) (irq : Bool) : (d.event src code data irq).pwrGood = d.pwrGood := Dev.pushCust_pwrGood _ _
@[simp] theorem Dev.event_supplyWarnN (src code data : Nat) (irq : Bool) : (d.event src code data irq).supplyWarnN = d.supplyWarnN := Dev.pushCust_supplyWarnN _ _
@[simp] theorem Dev.event_stackT (src code data : Nat) (irq : Bool) : (d.event src code data irq).stackT = d.stackT := Dev.pushCust_stackT _ _
@[simp] theorem Dev.event_junction (src code data : Nat) (irq : Bool) : (d.event src code data irq).junction = d.junction := Dev.pushCust_junction _ _
@[simp] theorem Dev.event_recd (src code data : Nat) (irq : Bool) : (d.event src code data irq).recd = d.recd := Dev.pushCust_recd _ _
@[simp] theorem Dev.event_snap (src code data : Nat) (irq : Bool) : (d.event src code data irq).snap = d.snap := Dev.pushCust_snap _ _
@[simp] theorem Dev.event_folio (src code data : Nat) (irq : Bool) : (d.event src code data irq).folio = d.folio := Dev.pushCust_folio _ _
@[simp] theorem Dev.event_mgmt (src code data : Nat) (irq : Bool) : (d.event src code data irq).mgmt = d.mgmt := Dev.pushCust_mgmt _ _
@[simp] theorem Dev.event_out (src code data : Nat) (irq : Bool) : (d.event src code data irq).out = d.out := Dev.pushCust_out _ _
@[simp] theorem Dev.event_free (src code data : Nat) (irq : Bool) : (d.event src code data irq).free = d.free := Dev.pushCust_free _ _
theorem Dev.event_rd (src code data : Nat) (irq : Bool) {r : Reg} (h : r ≠ .glErrStatus) : (d.event src code data irq).rd r = d.rd r :=
  Dev.pushCust_rd _ _ h
theorem Dev.choiceBit_rd (n : Nat) {r : Reg} (h : r ≠ .cnChoiceBit) : (d.choiceBit n).rd r = d.rd r := by
  simp [Dev.choiceBit, Dev.bumpWrap, Dev.rd_setFld_ne, h]
theorem Dev.choiceTime_rd (n : Nat) {r : Reg} (h : r ≠ .cnChoiceTime) : (d.choiceTime n).rd r = d.rd r := by
  simp [Dev.choiceTime, Dev.bumpWrap, Dev.rd_setFld_ne, h]

/-! ### Dev.allTideIrq -/

@[simp] theorem Dev.allTideIrq_regs  : (d.allTideIrq).regs = d.regs := foldl_keeps Dev.regs (fun d k => d.setCc k { d.cc k with tide := true }) (fun _ _ => rfl) (List.range 48) d
@[simp] theorem Dev.allTideIrq_held  : (d.allTideIrq).held = d.held := foldl_keeps Dev.held (fun d k => d.setCc k { d.cc k with tide := true }) (fun _ _ => rfl) (List.range 48) d
@[simp] theorem Dev.allTideIrq_cycle  : (d.allTideIrq).cycle = d.cycle := foldl_keeps Dev.cycle (fun d k => d.setCc k { d.cc k with tide := true }) (fun _ _ => rfl) (List.range 48) d
@[simp] theorem Dev.allTideIrq_ptime  : (d.allTideIrq).ptime = d.ptime := foldl_keeps Dev.ptime (fun d k => d.setCc k { d.cc k with tide := true }) (fun _ _ => rfl) (List.range 48) d
@[simp] theorem Dev.allTideIrq_tide  : (d.allTideIrq).tide = d.tide := foldl_keeps Dev.tide (fun d k => d.setCc k { d.cc k with tide := true }) (fun _ _ => rfl) (List.range 48) d
@[simp] theorem Dev.allTideIrq_capInForce  : (d.allTideIrq).capInForce = d.capInForce := foldl_keeps Dev.capInForce (fun d k => d.setCc k { d.cc k with tide := true }) (fun _ _ => rfl) (List.range 48) d
@[simp] theorem Dev.allTideIrq_mem  : (d.allTideIrq).mem = d.mem := foldl_keeps Dev.mem (fun d k => d.setCc k { d.cc k with tide := true }) (fun _ _ => rfl) (List.range 48) d
@[simp] theorem Dev.allTideIrq_far  : (d.allTideIrq).far = d.far := foldl_keeps Dev.far (fun d k => d.setCc k { d.cc k with tide := true }) (fun _ _ => rfl) (List.range 48) d
@[simp] theorem Dev.allTideIrq_badWords  : (d.allTideIrq).badWords = d.badWords := foldl_keeps Dev.badWords (fun d k => d.setCc k { d.cc k with tide := true }) (fun _ _ => rfl) (List.range 48) d
@[simp] theorem Dev.allTideIrq_cache  : (d.allTideIrq).cache = d.cache := foldl_keeps Dev.cache (fun d k => d.setCc k { d.cc k with tide := true }) (fun _ _ => rfl) (List.range 48) d
@[simp] theorem Dev.allTideIrq_cores  : (d.allTideIrq).cores = d.cores := foldl_keeps Dev.cores (fun d k => d.setCc k { d.cc k with tide := true }) (fun _ _ => rfl) (List.range 48) d
@[simp] theorem Dev.allTideIrq_queues  : (d.allTideIrq).queues = d.queues := foldl_keeps Dev.queues (fun d k => d.setCc k { d.cc k with tide := true }) (fun _ _ => rfl) (List.range 48) d
@[simp] theorem Dev.allTideIrq_fabric  : (d.allTideIrq).fabric = d.fabric := foldl_keeps Dev.fabric (fun d k => d.setCc k { d.cc k with tide := true }) (fun _ _ => rfl) (List.range 48) d
@[simp] theorem Dev.allTideIrq_plants  : (d.allTideIrq).plants = d.plants := foldl_keeps Dev.plants (fun d k => d.setCc k { d.cc k with tide := true }) (fun _ _ => rfl) (List.range 48) d
@[simp] theorem Dev.allTideIrq_hostLink  : (d.allTideIrq).hostLink = d.hostLink := foldl_keeps Dev.hostLink (fun d k => d.setCc k { d.cc k with tide := true }) (fun _ _ => rfl) (List.range 48) d
@[simp] theorem Dev.allTideIrq_perst  : (d.allTideIrq).perst = d.perst := foldl_keeps Dev.perst (fun d k => d.setCc k { d.cc k with tide := true }) (fun _ _ => rfl) (List.range 48) d
@[simp] theorem Dev.allTideIrq_bias  : (d.allTideIrq).bias = d.bias := foldl_keeps Dev.bias (fun d k => d.setCc k { d.cc k with tide := true }) (fun _ _ => rfl) (List.range 48) d
@[simp] theorem Dev.allTideIrq_bcast  : (d.allTideIrq).bcast = d.bcast := foldl_keeps Dev.bcast (fun d k => d.setCc k { d.cc k with tide := true }) (fun _ _ => rfl) (List.range 48) d
@[simp] theorem Dev.allTideIrq_board  : (d.allTideIrq).board = d.board := foldl_keeps Dev.board (fun d k => d.setCc k { d.cc k with tide := true }) (fun _ _ => rfl) (List.range 48) d
@[simp] theorem Dev.allTideIrq_boot  : (d.allTideIrq).boot = d.boot := foldl_keeps Dev.boot (fun d k => d.setCc k { d.cc k with tide := true }) (fun _ _ => rfl) (List.range 48) d
@[simp] theorem Dev.allTideIrq_ownerKey  : (d.allTideIrq).ownerKey = d.ownerKey := foldl_keeps Dev.ownerKey (fun d k => d.setCc k { d.cc k with tide := true }) (fun _ _ => rfl) (List.range 48) d
@[simp] theorem Dev.allTideIrq_topq  : (d.allTideIrq).topq = d.topq := foldl_keeps Dev.topq (fun d k => d.setCc k { d.cc k with tide := true }) (fun _ _ => rfl) (List.range 48) d
@[simp] theorem Dev.allTideIrq_leaf  : (d.allTideIrq).leaf = d.leaf := foldl_keeps Dev.leaf (fun d k => d.setCc k { d.cc k with tide := true }) (fun _ _ => rfl) (List.range 48) d
@[simp] theorem Dev.allTideIrq_custQ  : (d.allTideIrq).custQ = d.custQ := foldl_keeps Dev.custQ (fun d k => d.setCc k { d.cc k with tide := true }) (fun _ _ => rfl) (List.range 48) d
@[simp] theorem Dev.allTideIrq_custLost  : (d.allTideIrq).custLost = d.custLost := foldl_keeps Dev.custLost (fun d k => d.setCc k { d.cc k with tide := true }) (fun _ _ => rfl) (List.range 48) d
@[simp] theorem Dev.allTideIrq_log  : (d.allTideIrq).log = d.log := foldl_keeps Dev.log (fun d k => d.setCc k { d.cc k with tide := true }) (fun _ _ => rfl) (List.range 48) d
@[simp] theorem Dev.allTideIrq_cmpRun  : (d.allTideIrq).cmpRun = d.cmpRun := foldl_keeps Dev.cmpRun (fun d k => d.setCc k { d.cc k with tide := true }) (fun _ _ => rfl) (List.range 48) d
@[simp] theorem Dev.allTideIrq_escal  : (d.allTideIrq).escal = d.escal := foldl_keeps Dev.escal (fun d k => d.setCc k { d.cc k with tide := true }) (fun _ _ => rfl) (List.range 48) d
@[simp] theorem Dev.allTideIrq_resetCause  : (d.allTideIrq).resetCause = d.resetCause := foldl_keeps Dev.resetCause (fun d k => d.setCc k { d.cc k with tide := true }) (fun _ _ => rfl) (List.range 48) d
@[simp] theorem Dev.allTideIrq_corr  : (d.allTideIrq).corr = d.corr := foldl_keeps Dev.corr (fun d k => d.setCc k { d.cc k with tide := true }) (fun _ _ => rfl) (List.range 48) d
@[simp] theorem Dev.allTideIrq_jhold  : (d.allTideIrq).jhold = d.jhold := foldl_keeps Dev.jhold (fun d k => d.setCc k { d.cc k with tide := true }) (fun _ _ => rfl) (List.range 48) d
@[simp] theorem Dev.allTideIrq_faultN  : (d.allTideIrq).faultN = d.faultN := foldl_keeps Dev.faultN (fun d k => d.setCc k { d.cc k with tide := true }) (fun _ _ => rfl) (List.range 48) d
@[simp] theorem Dev.allTideIrq_pwrGood  : (d.allTideIrq).pwrGood = d.pwrGood := foldl_keeps Dev.pwrGood (fun d k => d.setCc k { d.cc k with tide := true }) (fun _ _ => rfl) (List.range 48) d
@[simp] theorem Dev.allTideIrq_supplyWarnN  : (d.allTideIrq).supplyWarnN = d.supplyWarnN := foldl_keeps Dev.supplyWarnN (fun d k => d.setCc k { d.cc k with tide := true }) (fun _ _ => rfl) (List.range 48) d
@[simp] theorem Dev.allTideIrq_stackT  : (d.allTideIrq).stackT = d.stackT := foldl_keeps Dev.stackT (fun d k => d.setCc k { d.cc k with tide := true }) (fun _ _ => rfl) (List.range 48) d
@[simp] theorem Dev.allTideIrq_junction  : (d.allTideIrq).junction = d.junction := foldl_keeps Dev.junction (fun d k => d.setCc k { d.cc k with tide := true }) (fun _ _ => rfl) (List.range 48) d
@[simp] theorem Dev.allTideIrq_recd  : (d.allTideIrq).recd = d.recd := foldl_keeps Dev.recd (fun d k => d.setCc k { d.cc k with tide := true }) (fun _ _ => rfl) (List.range 48) d
@[simp] theorem Dev.allTideIrq_snap  : (d.allTideIrq).snap = d.snap := foldl_keeps Dev.snap (fun d k => d.setCc k { d.cc k with tide := true }) (fun _ _ => rfl) (List.range 48) d
@[simp] theorem Dev.allTideIrq_folio  : (d.allTideIrq).folio = d.folio := foldl_keeps Dev.folio (fun d k => d.setCc k { d.cc k with tide := true }) (fun _ _ => rfl) (List.range 48) d
@[simp] theorem Dev.allTideIrq_mgmt  : (d.allTideIrq).mgmt = d.mgmt := foldl_keeps Dev.mgmt (fun d k => d.setCc k { d.cc k with tide := true }) (fun _ _ => rfl) (List.range 48) d
@[simp] theorem Dev.allTideIrq_out  : (d.allTideIrq).out = d.out := foldl_keeps Dev.out (fun d k => d.setCc k { d.cc k with tide := true }) (fun _ _ => rfl) (List.range 48) d
@[simp] theorem Dev.allTideIrq_free  : (d.allTideIrq).free = d.free := foldl_keeps Dev.free (fun d k => d.setCc k { d.cc k with tide := true }) (fun _ _ => rfl) (List.range 48) d

/-! ### Dev.allSupplyIrq -/

@[simp] theorem Dev.allSupplyIrq_regs  : (d.allSupplyIrq).regs = d.regs := foldl_keeps Dev.regs (fun d k => d.setCc k { d.cc k with supply := true }) (fun _ _ => rfl) (List.range 48) d
@[simp] theorem Dev.allSupplyIrq_held  : (d.allSupplyIrq).held = d.held := foldl_keeps Dev.held (fun d k => d.setCc k { d.cc k with supply := true }) (fun _ _ => rfl) (List.range 48) d
@[simp] theorem Dev.allSupplyIrq_cycle  : (d.allSupplyIrq).cycle = d.cycle := foldl_keeps Dev.cycle (fun d k => d.setCc k { d.cc k with supply := true }) (fun _ _ => rfl) (List.range 48) d
@[simp] theorem Dev.allSupplyIrq_ptime  : (d.allSupplyIrq).ptime = d.ptime := foldl_keeps Dev.ptime (fun d k => d.setCc k { d.cc k with supply := true }) (fun _ _ => rfl) (List.range 48) d
@[simp] theorem Dev.allSupplyIrq_tide  : (d.allSupplyIrq).tide = d.tide := foldl_keeps Dev.tide (fun d k => d.setCc k { d.cc k with supply := true }) (fun _ _ => rfl) (List.range 48) d
@[simp] theorem Dev.allSupplyIrq_capInForce  : (d.allSupplyIrq).capInForce = d.capInForce := foldl_keeps Dev.capInForce (fun d k => d.setCc k { d.cc k with supply := true }) (fun _ _ => rfl) (List.range 48) d
@[simp] theorem Dev.allSupplyIrq_mem  : (d.allSupplyIrq).mem = d.mem := foldl_keeps Dev.mem (fun d k => d.setCc k { d.cc k with supply := true }) (fun _ _ => rfl) (List.range 48) d
@[simp] theorem Dev.allSupplyIrq_far  : (d.allSupplyIrq).far = d.far := foldl_keeps Dev.far (fun d k => d.setCc k { d.cc k with supply := true }) (fun _ _ => rfl) (List.range 48) d
@[simp] theorem Dev.allSupplyIrq_badWords  : (d.allSupplyIrq).badWords = d.badWords := foldl_keeps Dev.badWords (fun d k => d.setCc k { d.cc k with supply := true }) (fun _ _ => rfl) (List.range 48) d
@[simp] theorem Dev.allSupplyIrq_cache  : (d.allSupplyIrq).cache = d.cache := foldl_keeps Dev.cache (fun d k => d.setCc k { d.cc k with supply := true }) (fun _ _ => rfl) (List.range 48) d
@[simp] theorem Dev.allSupplyIrq_cores  : (d.allSupplyIrq).cores = d.cores := foldl_keeps Dev.cores (fun d k => d.setCc k { d.cc k with supply := true }) (fun _ _ => rfl) (List.range 48) d
@[simp] theorem Dev.allSupplyIrq_queues  : (d.allSupplyIrq).queues = d.queues := foldl_keeps Dev.queues (fun d k => d.setCc k { d.cc k with supply := true }) (fun _ _ => rfl) (List.range 48) d
@[simp] theorem Dev.allSupplyIrq_fabric  : (d.allSupplyIrq).fabric = d.fabric := foldl_keeps Dev.fabric (fun d k => d.setCc k { d.cc k with supply := true }) (fun _ _ => rfl) (List.range 48) d
@[simp] theorem Dev.allSupplyIrq_plants  : (d.allSupplyIrq).plants = d.plants := foldl_keeps Dev.plants (fun d k => d.setCc k { d.cc k with supply := true }) (fun _ _ => rfl) (List.range 48) d
@[simp] theorem Dev.allSupplyIrq_hostLink  : (d.allSupplyIrq).hostLink = d.hostLink := foldl_keeps Dev.hostLink (fun d k => d.setCc k { d.cc k with supply := true }) (fun _ _ => rfl) (List.range 48) d
@[simp] theorem Dev.allSupplyIrq_perst  : (d.allSupplyIrq).perst = d.perst := foldl_keeps Dev.perst (fun d k => d.setCc k { d.cc k with supply := true }) (fun _ _ => rfl) (List.range 48) d
@[simp] theorem Dev.allSupplyIrq_bias  : (d.allSupplyIrq).bias = d.bias := foldl_keeps Dev.bias (fun d k => d.setCc k { d.cc k with supply := true }) (fun _ _ => rfl) (List.range 48) d
@[simp] theorem Dev.allSupplyIrq_bcast  : (d.allSupplyIrq).bcast = d.bcast := foldl_keeps Dev.bcast (fun d k => d.setCc k { d.cc k with supply := true }) (fun _ _ => rfl) (List.range 48) d
@[simp] theorem Dev.allSupplyIrq_board  : (d.allSupplyIrq).board = d.board := foldl_keeps Dev.board (fun d k => d.setCc k { d.cc k with supply := true }) (fun _ _ => rfl) (List.range 48) d
@[simp] theorem Dev.allSupplyIrq_boot  : (d.allSupplyIrq).boot = d.boot := foldl_keeps Dev.boot (fun d k => d.setCc k { d.cc k with supply := true }) (fun _ _ => rfl) (List.range 48) d
@[simp] theorem Dev.allSupplyIrq_ownerKey  : (d.allSupplyIrq).ownerKey = d.ownerKey := foldl_keeps Dev.ownerKey (fun d k => d.setCc k { d.cc k with supply := true }) (fun _ _ => rfl) (List.range 48) d
@[simp] theorem Dev.allSupplyIrq_topq  : (d.allSupplyIrq).topq = d.topq := foldl_keeps Dev.topq (fun d k => d.setCc k { d.cc k with supply := true }) (fun _ _ => rfl) (List.range 48) d
@[simp] theorem Dev.allSupplyIrq_leaf  : (d.allSupplyIrq).leaf = d.leaf := foldl_keeps Dev.leaf (fun d k => d.setCc k { d.cc k with supply := true }) (fun _ _ => rfl) (List.range 48) d
@[simp] theorem Dev.allSupplyIrq_custQ  : (d.allSupplyIrq).custQ = d.custQ := foldl_keeps Dev.custQ (fun d k => d.setCc k { d.cc k with supply := true }) (fun _ _ => rfl) (List.range 48) d
@[simp] theorem Dev.allSupplyIrq_custLost  : (d.allSupplyIrq).custLost = d.custLost := foldl_keeps Dev.custLost (fun d k => d.setCc k { d.cc k with supply := true }) (fun _ _ => rfl) (List.range 48) d
@[simp] theorem Dev.allSupplyIrq_log  : (d.allSupplyIrq).log = d.log := foldl_keeps Dev.log (fun d k => d.setCc k { d.cc k with supply := true }) (fun _ _ => rfl) (List.range 48) d
@[simp] theorem Dev.allSupplyIrq_cmpRun  : (d.allSupplyIrq).cmpRun = d.cmpRun := foldl_keeps Dev.cmpRun (fun d k => d.setCc k { d.cc k with supply := true }) (fun _ _ => rfl) (List.range 48) d
@[simp] theorem Dev.allSupplyIrq_escal  : (d.allSupplyIrq).escal = d.escal := foldl_keeps Dev.escal (fun d k => d.setCc k { d.cc k with supply := true }) (fun _ _ => rfl) (List.range 48) d
@[simp] theorem Dev.allSupplyIrq_resetCause  : (d.allSupplyIrq).resetCause = d.resetCause := foldl_keeps Dev.resetCause (fun d k => d.setCc k { d.cc k with supply := true }) (fun _ _ => rfl) (List.range 48) d
@[simp] theorem Dev.allSupplyIrq_corr  : (d.allSupplyIrq).corr = d.corr := foldl_keeps Dev.corr (fun d k => d.setCc k { d.cc k with supply := true }) (fun _ _ => rfl) (List.range 48) d
@[simp] theorem Dev.allSupplyIrq_jhold  : (d.allSupplyIrq).jhold = d.jhold := foldl_keeps Dev.jhold (fun d k => d.setCc k { d.cc k with supply := true }) (fun _ _ => rfl) (List.range 48) d
@[simp] theorem Dev.allSupplyIrq_faultN  : (d.allSupplyIrq).faultN = d.faultN := foldl_keeps Dev.faultN (fun d k => d.setCc k { d.cc k with supply := true }) (fun _ _ => rfl) (List.range 48) d
@[simp] theorem Dev.allSupplyIrq_pwrGood  : (d.allSupplyIrq).pwrGood = d.pwrGood := foldl_keeps Dev.pwrGood (fun d k => d.setCc k { d.cc k with supply := true }) (fun _ _ => rfl) (List.range 48) d
@[simp] theorem Dev.allSupplyIrq_supplyWarnN  : (d.allSupplyIrq).supplyWarnN = d.supplyWarnN := foldl_keeps Dev.supplyWarnN (fun d k => d.setCc k { d.cc k with supply := true }) (fun _ _ => rfl) (List.range 48) d
@[simp] theorem Dev.allSupplyIrq_stackT  : (d.allSupplyIrq).stackT = d.stackT := foldl_keeps Dev.stackT (fun d k => d.setCc k { d.cc k with supply := true }) (fun _ _ => rfl) (List.range 48) d
@[simp] theorem Dev.allSupplyIrq_junction  : (d.allSupplyIrq).junction = d.junction := foldl_keeps Dev.junction (fun d k => d.setCc k { d.cc k with supply := true }) (fun _ _ => rfl) (List.range 48) d
@[simp] theorem Dev.allSupplyIrq_recd  : (d.allSupplyIrq).recd = d.recd := foldl_keeps Dev.recd (fun d k => d.setCc k { d.cc k with supply := true }) (fun _ _ => rfl) (List.range 48) d
@[simp] theorem Dev.allSupplyIrq_snap  : (d.allSupplyIrq).snap = d.snap := foldl_keeps Dev.snap (fun d k => d.setCc k { d.cc k with supply := true }) (fun _ _ => rfl) (List.range 48) d
@[simp] theorem Dev.allSupplyIrq_folio  : (d.allSupplyIrq).folio = d.folio := foldl_keeps Dev.folio (fun d k => d.setCc k { d.cc k with supply := true }) (fun _ _ => rfl) (List.range 48) d
@[simp] theorem Dev.allSupplyIrq_mgmt  : (d.allSupplyIrq).mgmt = d.mgmt := foldl_keeps Dev.mgmt (fun d k => d.setCc k { d.cc k with supply := true }) (fun _ _ => rfl) (List.range 48) d
@[simp] theorem Dev.allSupplyIrq_out  : (d.allSupplyIrq).out = d.out := foldl_keeps Dev.out (fun d k => d.setCc k { d.cc k with supply := true }) (fun _ _ => rfl) (List.range 48) d
@[simp] theorem Dev.allSupplyIrq_free  : (d.allSupplyIrq).free = d.free := foldl_keeps Dev.free (fun d k => d.setCc k { d.cc k with supply := true }) (fun _ _ => rfl) (List.range 48) d
@[simp] theorem Dev.allTideIrq_rd (r : Reg) : d.allTideIrq.rd r = d.rd r := by simp [Dev.rd]
@[simp] theorem Dev.allSupplyIrq_rd (r : Reg) : d.allSupplyIrq.rd r = d.rd r := by simp [Dev.rd]

/-! ### Dev.healthDue -/

@[simp] theorem Dev.healthDue_regs  : (d.healthDue).regs = d.regs := rfl
@[simp] theorem Dev.healthDue_held  : (d.healthDue).held = d.held := rfl
@[simp] theorem Dev.healthDue_cycle  : (d.healthDue).cycle = d.cycle := rfl
@[simp] theorem Dev.healthDue_ptime  : (d.healthDue).ptime = d.ptime := rfl
@[simp] theorem Dev.healthDue_tide  : (d.healthDue).tide = d.tide := rfl
@[simp] theorem Dev.healthDue_capInForce  : (d.healthDue).capInForce = d.capInForce := rfl
@[simp] theorem Dev.healthDue_mem  : (d.healthDue).mem = d.mem := rfl
@[simp] theorem Dev.healthDue_far  : (d.healthDue).far = d.far := rfl
@[simp] theorem Dev.healthDue_badWords  : (d.healthDue).badWords = d.badWords := rfl
@[simp] theorem Dev.healthDue_cache  : (d.healthDue).cache = d.cache := rfl
@[simp] theorem Dev.healthDue_cores  : (d.healthDue).cores = d.cores := rfl
@[simp] theorem Dev.healthDue_ccs  : (d.healthDue).ccs = d.ccs := rfl
@[simp] theorem Dev.healthDue_queues  : (d.healthDue).queues = d.queues := rfl
@[simp] theorem Dev.healthDue_fabric  : (d.healthDue).fabric = d.fabric := rfl
@[simp] theorem Dev.healthDue_plants  : (d.healthDue).plants = d.plants := rfl
@[simp] theorem Dev.healthDue_hostLink  : (d.healthDue).hostLink = d.hostLink := rfl
@[simp] theorem Dev.healthDue_perst  : (d.healthDue).perst = d.perst := rfl
@[simp] theorem Dev.healthDue_bias  : (d.healthDue).bias = d.bias := rfl
@[simp] theorem Dev.healthDue_bcast  : (d.healthDue).bcast = d.bcast := rfl
@[simp] theorem Dev.healthDue_board  : (d.healthDue).board = d.board := rfl
@[simp] theorem Dev.healthDue_boot  : (d.healthDue).boot = d.boot := rfl
@[simp] theorem Dev.healthDue_ownerKey  : (d.healthDue).ownerKey = d.ownerKey := rfl
@[simp] theorem Dev.healthDue_topq  : (d.healthDue).topq = d.topq := rfl
@[simp] theorem Dev.healthDue_leaf  : (d.healthDue).leaf = d.leaf := rfl
@[simp] theorem Dev.healthDue_custQ  : (d.healthDue).custQ = d.custQ := rfl
@[simp] theorem Dev.healthDue_custLost  : (d.healthDue).custLost = d.custLost := rfl
@[simp] theorem Dev.healthDue_log  : (d.healthDue).log = d.log := rfl
@[simp] theorem Dev.healthDue_cmpRun  : (d.healthDue).cmpRun = d.cmpRun := rfl
@[simp] theorem Dev.healthDue_escal  : (d.healthDue).escal = d.escal := rfl
@[simp] theorem Dev.healthDue_resetCause  : (d.healthDue).resetCause = d.resetCause := rfl
@[simp] theorem Dev.healthDue_corr  : (d.healthDue).corr = d.corr := rfl
@[simp] theorem Dev.healthDue_jhold  : (d.healthDue).jhold = d.jhold := rfl
@[simp] theorem Dev.healthDue_faultN  : (d.healthDue).faultN = d.faultN := rfl
@[simp] theorem Dev.healthDue_pwrGood  : (d.healthDue).pwrGood = d.pwrGood := rfl
@[simp] theorem Dev.healthDue_supplyWarnN  : (d.healthDue).supplyWarnN = d.supplyWarnN := rfl
@[simp] theorem Dev.healthDue_stackT  : (d.healthDue).stackT = d.stackT := rfl
@[simp] theorem Dev.healthDue_junction  : (d.healthDue).junction = d.junction := rfl
@[simp] theorem Dev.healthDue_recd  : (d.healthDue).recd = d.recd := rfl
@[simp] theorem Dev.healthDue_snap  : (d.healthDue).snap = d.snap := rfl
@[simp] theorem Dev.healthDue_folio  : (d.healthDue).folio = d.folio := rfl
@[simp] theorem Dev.healthDue_out  : (d.healthDue).out = d.out := rfl
@[simp] theorem Dev.healthDue_free  : (d.healthDue).free = d.free := rfl

/-! ### Dev.irq -/

@[simp] theorem Dev.irq_regs  : (d.irq).regs = d.regs := rfl
@[simp] theorem Dev.irq_held  : (d.irq).held = d.held := rfl
@[simp] theorem Dev.irq_cycle  : (d.irq).cycle = d.cycle := rfl
@[simp] theorem Dev.irq_ptime  : (d.irq).ptime = d.ptime := rfl
@[simp] theorem Dev.irq_tide  : (d.irq).tide = d.tide := rfl
@[simp] theorem Dev.irq_capInForce  : (d.irq).capInForce = d.capInForce := rfl
@[simp] theorem Dev.irq_mem  : (d.irq).mem = d.mem := rfl
@[simp] theorem Dev.irq_far  : (d.irq).far = d.far := rfl
@[simp] theorem Dev.irq_badWords  : (d.irq).badWords = d.badWords := rfl
@[simp] theorem Dev.irq_cache  : (d.irq).cache = d.cache := rfl
@[simp] theorem Dev.irq_cores  : (d.irq).cores = d.cores := rfl
@[simp] theorem Dev.irq_ccs  : (d.irq).ccs = d.ccs := rfl
@[simp] theorem Dev.irq_queues  : (d.irq).queues = d.queues := rfl
@[simp] theorem Dev.irq_fabric  : (d.irq).fabric = d.fabric := rfl
@[simp] theorem Dev.irq_plants  : (d.irq).plants = d.plants := rfl
@[simp] theorem Dev.irq_hostLink  : (d.irq).hostLink = d.hostLink := rfl
@[simp] theorem Dev.irq_perst  : (d.irq).perst = d.perst := rfl
@[simp] theorem Dev.irq_bias  : (d.irq).bias = d.bias := rfl
@[simp] theorem Dev.irq_bcast  : (d.irq).bcast = d.bcast := rfl
@[simp] theorem Dev.irq_board  : (d.irq).board = d.board := rfl
@[simp] theorem Dev.irq_boot  : (d.irq).boot = d.boot := rfl
@[simp] theorem Dev.irq_ownerKey  : (d.irq).ownerKey = d.ownerKey := rfl
@[simp] theorem Dev.irq_topq  : (d.irq).topq = d.topq := rfl
@[simp] theorem Dev.irq_leaf  : (d.irq).leaf = d.leaf := rfl
@[simp] theorem Dev.irq_custQ  : (d.irq).custQ = d.custQ := rfl
@[simp] theorem Dev.irq_custLost  : (d.irq).custLost = d.custLost := rfl
@[simp] theorem Dev.irq_log  : (d.irq).log = d.log := rfl
@[simp] theorem Dev.irq_cmpRun  : (d.irq).cmpRun = d.cmpRun := rfl
@[simp] theorem Dev.irq_escal  : (d.irq).escal = d.escal := rfl
@[simp] theorem Dev.irq_resetCause  : (d.irq).resetCause = d.resetCause := rfl
@[simp] theorem Dev.irq_corr  : (d.irq).corr = d.corr := rfl
@[simp] theorem Dev.irq_jhold  : (d.irq).jhold = d.jhold := rfl
@[simp] theorem Dev.irq_faultN  : (d.irq).faultN = d.faultN := rfl
@[simp] theorem Dev.irq_pwrGood  : (d.irq).pwrGood = d.pwrGood := rfl
@[simp] theorem Dev.irq_supplyWarnN  : (d.irq).supplyWarnN = d.supplyWarnN := rfl
@[simp] theorem Dev.irq_stackT  : (d.irq).stackT = d.stackT := rfl
@[simp] theorem Dev.irq_junction  : (d.irq).junction = d.junction := rfl
@[simp] theorem Dev.irq_recd  : (d.irq).recd = d.recd := rfl
@[simp] theorem Dev.irq_snap  : (d.irq).snap = d.snap := rfl
@[simp] theorem Dev.irq_folio  : (d.irq).folio = d.folio := rfl
@[simp] theorem Dev.irq_mgmt  : (d.irq).mgmt = d.mgmt := rfl
@[simp] theorem Dev.irq_free  : (d.irq).free = d.free := rfl

/-! ### Dev.setTide -/

@[simp] theorem Dev.setTide_regs (t : Tide) : (d.setTide t).regs = d.regs := rfl
@[simp] theorem Dev.setTide_held (t : Tide) : (d.setTide t).held = d.held := rfl
@[simp] theorem Dev.setTide_cycle (t : Tide) : (d.setTide t).cycle = d.cycle := rfl
@[simp] theorem Dev.setTide_ptime (t : Tide) : (d.setTide t).ptime = d.ptime := rfl
@[simp] theorem Dev.setTide_capInForce (t : Tide) : (d.setTide t).capInForce = d.capInForce := rfl
@[simp] theorem Dev.setTide_mem (t : Tide) : (d.setTide t).mem = d.mem := rfl
@[simp] theorem Dev.setTide_far (t : Tide) : (d.setTide t).far = d.far := rfl
@[simp] theorem Dev.setTide_badWords (t : Tide) : (d.setTide t).badWords = d.badWords := rfl
@[simp] theorem Dev.setTide_cache (t : Tide) : (d.setTide t).cache = d.cache := rfl
@[simp] theorem Dev.setTide_cores (t : Tide) : (d.setTide t).cores = d.cores := rfl
@[simp] theorem Dev.setTide_ccs (t : Tide) : (d.setTide t).ccs = d.ccs := rfl
@[simp] theorem Dev.setTide_queues (t : Tide) : (d.setTide t).queues = d.queues := rfl
@[simp] theorem Dev.setTide_fabric (t : Tide) : (d.setTide t).fabric = d.fabric := rfl
@[simp] theorem Dev.setTide_plants (t : Tide) : (d.setTide t).plants = d.plants := rfl
@[simp] theorem Dev.setTide_hostLink (t : Tide) : (d.setTide t).hostLink = d.hostLink := rfl
@[simp] theorem Dev.setTide_perst (t : Tide) : (d.setTide t).perst = d.perst := rfl
@[simp] theorem Dev.setTide_bias (t : Tide) : (d.setTide t).bias = d.bias := rfl
@[simp] theorem Dev.setTide_bcast (t : Tide) : (d.setTide t).bcast = d.bcast := rfl
@[simp] theorem Dev.setTide_board (t : Tide) : (d.setTide t).board = d.board := rfl
@[simp] theorem Dev.setTide_boot (t : Tide) : (d.setTide t).boot = d.boot := rfl
@[simp] theorem Dev.setTide_ownerKey (t : Tide) : (d.setTide t).ownerKey = d.ownerKey := rfl
@[simp] theorem Dev.setTide_topq (t : Tide) : (d.setTide t).topq = d.topq := rfl
@[simp] theorem Dev.setTide_leaf (t : Tide) : (d.setTide t).leaf = d.leaf := rfl
@[simp] theorem Dev.setTide_custQ (t : Tide) : (d.setTide t).custQ = d.custQ := rfl
@[simp] theorem Dev.setTide_custLost (t : Tide) : (d.setTide t).custLost = d.custLost := rfl
@[simp] theorem Dev.setTide_log (t : Tide) : (d.setTide t).log = d.log := rfl
@[simp] theorem Dev.setTide_cmpRun (t : Tide) : (d.setTide t).cmpRun = d.cmpRun := rfl
@[simp] theorem Dev.setTide_escal (t : Tide) : (d.setTide t).escal = d.escal := rfl
@[simp] theorem Dev.setTide_resetCause (t : Tide) : (d.setTide t).resetCause = d.resetCause := rfl
@[simp] theorem Dev.setTide_corr (t : Tide) : (d.setTide t).corr = d.corr := rfl
@[simp] theorem Dev.setTide_jhold (t : Tide) : (d.setTide t).jhold = d.jhold := rfl
@[simp] theorem Dev.setTide_faultN (t : Tide) : (d.setTide t).faultN = d.faultN := rfl
@[simp] theorem Dev.setTide_pwrGood (t : Tide) : (d.setTide t).pwrGood = d.pwrGood := rfl
@[simp] theorem Dev.setTide_supplyWarnN (t : Tide) : (d.setTide t).supplyWarnN = d.supplyWarnN := rfl
@[simp] theorem Dev.setTide_stackT (t : Tide) : (d.setTide t).stackT = d.stackT := rfl
@[simp] theorem Dev.setTide_junction (t : Tide) : (d.setTide t).junction = d.junction := rfl
@[simp] theorem Dev.setTide_recd (t : Tide) : (d.setTide t).recd = d.recd := rfl
@[simp] theorem Dev.setTide_snap (t : Tide) : (d.setTide t).snap = d.snap := rfl
@[simp] theorem Dev.setTide_folio (t : Tide) : (d.setTide t).folio = d.folio := rfl
@[simp] theorem Dev.setTide_mgmt (t : Tide) : (d.setTide t).mgmt = d.mgmt := rfl
@[simp] theorem Dev.setTide_out (t : Tide) : (d.setTide t).out = d.out := rfl
@[simp] theorem Dev.setTide_free (t : Tide) : (d.setTide t).free = d.free := rfl
@[simp] theorem Dev.setTide_tide (t : Tide) : (d.setTide t).tide = t := rfl

/-! ### Dev.liveDrop -/

@[simp] theorem Dev.liveDrop_held  : (d.liveDrop).held = d.held := rfl
@[simp] theorem Dev.liveDrop_cycle  : (d.liveDrop).cycle = d.cycle := rfl
@[simp] theorem Dev.liveDrop_ptime  : (d.liveDrop).ptime = d.ptime := rfl
@[simp] theorem Dev.liveDrop_tide  : (d.liveDrop).tide = d.tide := rfl
@[simp] theorem Dev.liveDrop_capInForce  : (d.liveDrop).capInForce = d.capInForce := rfl
@[simp] theorem Dev.liveDrop_mem  : (d.liveDrop).mem = d.mem := rfl
@[simp] theorem Dev.liveDrop_far  : (d.liveDrop).far = d.far := rfl
@[simp] theorem Dev.liveDrop_badWords  : (d.liveDrop).badWords = d.badWords := rfl
@[simp] theorem Dev.liveDrop_cache  : (d.liveDrop).cache = d.cache := rfl
@[simp] theorem Dev.liveDrop_cores  : (d.liveDrop).cores = d.cores := rfl
@[simp] theorem Dev.liveDrop_ccs  : (d.liveDrop).ccs = d.ccs := rfl
@[simp] theorem Dev.liveDrop_queues  : (d.liveDrop).queues = d.queues := rfl
@[simp] theorem Dev.liveDrop_fabric  : (d.liveDrop).fabric = d.fabric := rfl
@[simp] theorem Dev.liveDrop_plants  : (d.liveDrop).plants = d.plants := rfl
@[simp] theorem Dev.liveDrop_hostLink  : (d.liveDrop).hostLink = d.hostLink := rfl
@[simp] theorem Dev.liveDrop_perst  : (d.liveDrop).perst = d.perst := rfl
@[simp] theorem Dev.liveDrop_bias  : (d.liveDrop).bias = d.bias := rfl
@[simp] theorem Dev.liveDrop_bcast  : (d.liveDrop).bcast = d.bcast := rfl
@[simp] theorem Dev.liveDrop_board  : (d.liveDrop).board = d.board := rfl
@[simp] theorem Dev.liveDrop_boot  : (d.liveDrop).boot = d.boot := rfl
@[simp] theorem Dev.liveDrop_ownerKey  : (d.liveDrop).ownerKey = d.ownerKey := rfl
@[simp] theorem Dev.liveDrop_topq  : (d.liveDrop).topq = d.topq := rfl
@[simp] theorem Dev.liveDrop_leaf  : (d.liveDrop).leaf = d.leaf := rfl
@[simp] theorem Dev.liveDrop_custQ  : (d.liveDrop).custQ = d.custQ := rfl
@[simp] theorem Dev.liveDrop_custLost  : (d.liveDrop).custLost = d.custLost := rfl
@[simp] theorem Dev.liveDrop_log  : (d.liveDrop).log = d.log := rfl
@[simp] theorem Dev.liveDrop_cmpRun  : (d.liveDrop).cmpRun = d.cmpRun := rfl
@[simp] theorem Dev.liveDrop_escal  : (d.liveDrop).escal = d.escal := rfl
@[simp] theorem Dev.liveDrop_resetCause  : (d.liveDrop).resetCause = d.resetCause := rfl
@[simp] theorem Dev.liveDrop_corr  : (d.liveDrop).corr = d.corr := rfl
@[simp] theorem Dev.liveDrop_jhold  : (d.liveDrop).jhold = d.jhold := rfl
@[simp] theorem Dev.liveDrop_faultN  : (d.liveDrop).faultN = d.faultN := rfl
@[simp] theorem Dev.liveDrop_pwrGood  : (d.liveDrop).pwrGood = d.pwrGood := rfl
@[simp] theorem Dev.liveDrop_supplyWarnN  : (d.liveDrop).supplyWarnN = d.supplyWarnN := rfl
@[simp] theorem Dev.liveDrop_stackT  : (d.liveDrop).stackT = d.stackT := rfl
@[simp] theorem Dev.liveDrop_junction  : (d.liveDrop).junction = d.junction := rfl
@[simp] theorem Dev.liveDrop_recd  : (d.liveDrop).recd = d.recd := rfl
@[simp] theorem Dev.liveDrop_snap  : (d.liveDrop).snap = d.snap := rfl
@[simp] theorem Dev.liveDrop_folio  : (d.liveDrop).folio = d.folio := rfl
@[simp] theorem Dev.liveDrop_mgmt  : (d.liveDrop).mgmt = d.mgmt := rfl
@[simp] theorem Dev.liveDrop_out  : (d.liveDrop).out = d.out := rfl
@[simp] theorem Dev.liveDrop_free  : (d.liveDrop).free = d.free := rfl

/-! ### Dev.setRun -/

@[simp] theorem Dev.setRun_regs (q : Nat) (f : Run → Run) : (d.setRun q f).regs = d.regs := rfl
@[simp] theorem Dev.setRun_held (q : Nat) (f : Run → Run) : (d.setRun q f).held = d.held := rfl
@[simp] theorem Dev.setRun_cycle (q : Nat) (f : Run → Run) : (d.setRun q f).cycle = d.cycle := rfl
@[simp] theorem Dev.setRun_ptime (q : Nat) (f : Run → Run) : (d.setRun q f).ptime = d.ptime := rfl
@[simp] theorem Dev.setRun_tide (q : Nat) (f : Run → Run) : (d.setRun q f).tide = d.tide := rfl
@[simp] theorem Dev.setRun_capInForce (q : Nat) (f : Run → Run) : (d.setRun q f).capInForce = d.capInForce := rfl
@[simp] theorem Dev.setRun_mem (q : Nat) (f : Run → Run) : (d.setRun q f).mem = d.mem := rfl
@[simp] theorem Dev.setRun_far (q : Nat) (f : Run → Run) : (d.setRun q f).far = d.far := rfl
@[simp] theorem Dev.setRun_badWords (q : Nat) (f : Run → Run) : (d.setRun q f).badWords = d.badWords := rfl
@[simp] theorem Dev.setRun_cache (q : Nat) (f : Run → Run) : (d.setRun q f).cache = d.cache := rfl
@[simp] theorem Dev.setRun_cores (q : Nat) (f : Run → Run) : (d.setRun q f).cores = d.cores := rfl
@[simp] theorem Dev.setRun_ccs (q : Nat) (f : Run → Run) : (d.setRun q f).ccs = d.ccs := rfl
@[simp] theorem Dev.setRun_fabric (q : Nat) (f : Run → Run) : (d.setRun q f).fabric = d.fabric := rfl
@[simp] theorem Dev.setRun_plants (q : Nat) (f : Run → Run) : (d.setRun q f).plants = d.plants := rfl
@[simp] theorem Dev.setRun_hostLink (q : Nat) (f : Run → Run) : (d.setRun q f).hostLink = d.hostLink := rfl
@[simp] theorem Dev.setRun_perst (q : Nat) (f : Run → Run) : (d.setRun q f).perst = d.perst := rfl
@[simp] theorem Dev.setRun_bias (q : Nat) (f : Run → Run) : (d.setRun q f).bias = d.bias := rfl
@[simp] theorem Dev.setRun_bcast (q : Nat) (f : Run → Run) : (d.setRun q f).bcast = d.bcast := rfl
@[simp] theorem Dev.setRun_board (q : Nat) (f : Run → Run) : (d.setRun q f).board = d.board := rfl
@[simp] theorem Dev.setRun_boot (q : Nat) (f : Run → Run) : (d.setRun q f).boot = d.boot := rfl
@[simp] theorem Dev.setRun_ownerKey (q : Nat) (f : Run → Run) : (d.setRun q f).ownerKey = d.ownerKey := rfl
@[simp] theorem Dev.setRun_topq (q : Nat) (f : Run → Run) : (d.setRun q f).topq = d.topq := rfl
@[simp] theorem Dev.setRun_leaf (q : Nat) (f : Run → Run) : (d.setRun q f).leaf = d.leaf := rfl
@[simp] theorem Dev.setRun_custQ (q : Nat) (f : Run → Run) : (d.setRun q f).custQ = d.custQ := rfl
@[simp] theorem Dev.setRun_custLost (q : Nat) (f : Run → Run) : (d.setRun q f).custLost = d.custLost := rfl
@[simp] theorem Dev.setRun_log (q : Nat) (f : Run → Run) : (d.setRun q f).log = d.log := rfl
@[simp] theorem Dev.setRun_cmpRun (q : Nat) (f : Run → Run) : (d.setRun q f).cmpRun = d.cmpRun := rfl
@[simp] theorem Dev.setRun_escal (q : Nat) (f : Run → Run) : (d.setRun q f).escal = d.escal := rfl
@[simp] theorem Dev.setRun_resetCause (q : Nat) (f : Run → Run) : (d.setRun q f).resetCause = d.resetCause := rfl
@[simp] theorem Dev.setRun_corr (q : Nat) (f : Run → Run) : (d.setRun q f).corr = d.corr := rfl
@[simp] theorem Dev.setRun_jhold (q : Nat) (f : Run → Run) : (d.setRun q f).jhold = d.jhold := rfl
@[simp] theorem Dev.setRun_faultN (q : Nat) (f : Run → Run) : (d.setRun q f).faultN = d.faultN := rfl
@[simp] theorem Dev.setRun_pwrGood (q : Nat) (f : Run → Run) : (d.setRun q f).pwrGood = d.pwrGood := rfl
@[simp] theorem Dev.setRun_supplyWarnN (q : Nat) (f : Run → Run) : (d.setRun q f).supplyWarnN = d.supplyWarnN := rfl
@[simp] theorem Dev.setRun_stackT (q : Nat) (f : Run → Run) : (d.setRun q f).stackT = d.stackT := rfl
@[simp] theorem Dev.setRun_junction (q : Nat) (f : Run → Run) : (d.setRun q f).junction = d.junction := rfl
@[simp] theorem Dev.setRun_recd (q : Nat) (f : Run → Run) : (d.setRun q f).recd = d.recd := rfl
@[simp] theorem Dev.setRun_snap (q : Nat) (f : Run → Run) : (d.setRun q f).snap = d.snap := rfl
@[simp] theorem Dev.setRun_folio (q : Nat) (f : Run → Run) : (d.setRun q f).folio = d.folio := rfl
@[simp] theorem Dev.setRun_mgmt (q : Nat) (f : Run → Run) : (d.setRun q f).mgmt = d.mgmt := rfl
@[simp] theorem Dev.setRun_out (q : Nat) (f : Run → Run) : (d.setRun q f).out = d.out := rfl
@[simp] theorem Dev.setRun_free (q : Nat) (f : Run → Run) : (d.setRun q f).free = d.free := rfl

/-! ### Dev.setRunN -/

@[simp] theorem Dev.setRunN_regs (q n : Nat) (f : Run → Run) : (d.setRunN q n f).regs = d.regs := rfl
@[simp] theorem Dev.setRunN_held (q n : Nat) (f : Run → Run) : (d.setRunN q n f).held = d.held := rfl
@[simp] theorem Dev.setRunN_cycle (q n : Nat) (f : Run → Run) : (d.setRunN q n f).cycle = d.cycle := rfl
@[simp] theorem Dev.setRunN_ptime (q n : Nat) (f : Run → Run) : (d.setRunN q n f).ptime = d.ptime := rfl
@[simp] theorem Dev.setRunN_tide (q n : Nat) (f : Run → Run) : (d.setRunN q n f).tide = d.tide := rfl
@[simp] theorem Dev.setRunN_capInForce (q n : Nat) (f : Run → Run) : (d.setRunN q n f).capInForce = d.capInForce := rfl
@[simp] theorem Dev.setRunN_mem (q n : Nat) (f : Run → Run) : (d.setRunN q n f).mem = d.mem := rfl
@[simp] theorem Dev.setRunN_far (q n : Nat) (f : Run → Run) : (d.setRunN q n f).far = d.far := rfl
@[simp] theorem Dev.setRunN_badWords (q n : Nat) (f : Run → Run) : (d.setRunN q n f).badWords = d.badWords := rfl
@[simp] theorem Dev.setRunN_cache (q n : Nat) (f : Run → Run) : (d.setRunN q n f).cache = d.cache := rfl
@[simp] theorem Dev.setRunN_cores (q n : Nat) (f : Run → Run) : (d.setRunN q n f).cores = d.cores := rfl
@[simp] theorem Dev.setRunN_ccs (q n : Nat) (f : Run → Run) : (d.setRunN q n f).ccs = d.ccs := rfl
@[simp] theorem Dev.setRunN_fabric (q n : Nat) (f : Run → Run) : (d.setRunN q n f).fabric = d.fabric := rfl
@[simp] theorem Dev.setRunN_plants (q n : Nat) (f : Run → Run) : (d.setRunN q n f).plants = d.plants := rfl
@[simp] theorem Dev.setRunN_hostLink (q n : Nat) (f : Run → Run) : (d.setRunN q n f).hostLink = d.hostLink := rfl
@[simp] theorem Dev.setRunN_perst (q n : Nat) (f : Run → Run) : (d.setRunN q n f).perst = d.perst := rfl
@[simp] theorem Dev.setRunN_bias (q n : Nat) (f : Run → Run) : (d.setRunN q n f).bias = d.bias := rfl
@[simp] theorem Dev.setRunN_bcast (q n : Nat) (f : Run → Run) : (d.setRunN q n f).bcast = d.bcast := rfl
@[simp] theorem Dev.setRunN_board (q n : Nat) (f : Run → Run) : (d.setRunN q n f).board = d.board := rfl
@[simp] theorem Dev.setRunN_boot (q n : Nat) (f : Run → Run) : (d.setRunN q n f).boot = d.boot := rfl
@[simp] theorem Dev.setRunN_ownerKey (q n : Nat) (f : Run → Run) : (d.setRunN q n f).ownerKey = d.ownerKey := rfl
@[simp] theorem Dev.setRunN_topq (q n : Nat) (f : Run → Run) : (d.setRunN q n f).topq = d.topq := rfl
@[simp] theorem Dev.setRunN_leaf (q n : Nat) (f : Run → Run) : (d.setRunN q n f).leaf = d.leaf := rfl
@[simp] theorem Dev.setRunN_custQ (q n : Nat) (f : Run → Run) : (d.setRunN q n f).custQ = d.custQ := rfl
@[simp] theorem Dev.setRunN_custLost (q n : Nat) (f : Run → Run) : (d.setRunN q n f).custLost = d.custLost := rfl
@[simp] theorem Dev.setRunN_log (q n : Nat) (f : Run → Run) : (d.setRunN q n f).log = d.log := rfl
@[simp] theorem Dev.setRunN_cmpRun (q n : Nat) (f : Run → Run) : (d.setRunN q n f).cmpRun = d.cmpRun := rfl
@[simp] theorem Dev.setRunN_escal (q n : Nat) (f : Run → Run) : (d.setRunN q n f).escal = d.escal := rfl
@[simp] theorem Dev.setRunN_resetCause (q n : Nat) (f : Run → Run) : (d.setRunN q n f).resetCause = d.resetCause := rfl
@[simp] theorem Dev.setRunN_corr (q n : Nat) (f : Run → Run) : (d.setRunN q n f).corr = d.corr := rfl
@[simp] theorem Dev.setRunN_jhold (q n : Nat) (f : Run → Run) : (d.setRunN q n f).jhold = d.jhold := rfl
@[simp] theorem Dev.setRunN_faultN (q n : Nat) (f : Run → Run) : (d.setRunN q n f).faultN = d.faultN := rfl
@[simp] theorem Dev.setRunN_pwrGood (q n : Nat) (f : Run → Run) : (d.setRunN q n f).pwrGood = d.pwrGood := rfl
@[simp] theorem Dev.setRunN_supplyWarnN (q n : Nat) (f : Run → Run) : (d.setRunN q n f).supplyWarnN = d.supplyWarnN := rfl
@[simp] theorem Dev.setRunN_stackT (q n : Nat) (f : Run → Run) : (d.setRunN q n f).stackT = d.stackT := rfl
@[simp] theorem Dev.setRunN_junction (q n : Nat) (f : Run → Run) : (d.setRunN q n f).junction = d.junction := rfl
@[simp] theorem Dev.setRunN_recd (q n : Nat) (f : Run → Run) : (d.setRunN q n f).recd = d.recd := rfl
@[simp] theorem Dev.setRunN_snap (q n : Nat) (f : Run → Run) : (d.setRunN q n f).snap = d.snap := rfl
@[simp] theorem Dev.setRunN_folio (q n : Nat) (f : Run → Run) : (d.setRunN q n f).folio = d.folio := rfl
@[simp] theorem Dev.setRunN_mgmt (q n : Nat) (f : Run → Run) : (d.setRunN q n f).mgmt = d.mgmt := rfl
@[simp] theorem Dev.setRunN_out (q n : Nat) (f : Run → Run) : (d.setRunN q n f).out = d.out := rfl
@[simp] theorem Dev.setRunN_free (q n : Nat) (f : Run → Run) : (d.setRunN q n f).free = d.free := rfl

/-! ### Dev.finish -/

@[simp] theorem Dev.finish_regs (q st dt : Nat) : (d.finish q st dt).regs = d.regs := rfl
@[simp] theorem Dev.finish_held (q st dt : Nat) : (d.finish q st dt).held = d.held := rfl
@[simp] theorem Dev.finish_cycle (q st dt : Nat) : (d.finish q st dt).cycle = d.cycle := rfl
@[simp] theorem Dev.finish_ptime (q st dt : Nat) : (d.finish q st dt).ptime = d.ptime := rfl
@[simp] theorem Dev.finish_tide (q st dt : Nat) : (d.finish q st dt).tide = d.tide := rfl
@[simp] theorem Dev.finish_capInForce (q st dt : Nat) : (d.finish q st dt).capInForce = d.capInForce := rfl
@[simp] theorem Dev.finish_mem (q st dt : Nat) : (d.finish q st dt).mem = d.mem := rfl
@[simp] theorem Dev.finish_far (q st dt : Nat) : (d.finish q st dt).far = d.far := rfl
@[simp] theorem Dev.finish_badWords (q st dt : Nat) : (d.finish q st dt).badWords = d.badWords := rfl
@[simp] theorem Dev.finish_cache (q st dt : Nat) : (d.finish q st dt).cache = d.cache := rfl
@[simp] theorem Dev.finish_cores (q st dt : Nat) : (d.finish q st dt).cores = d.cores := rfl
@[simp] theorem Dev.finish_ccs (q st dt : Nat) : (d.finish q st dt).ccs = d.ccs := rfl
@[simp] theorem Dev.finish_fabric (q st dt : Nat) : (d.finish q st dt).fabric = d.fabric := rfl
@[simp] theorem Dev.finish_plants (q st dt : Nat) : (d.finish q st dt).plants = d.plants := rfl
@[simp] theorem Dev.finish_hostLink (q st dt : Nat) : (d.finish q st dt).hostLink = d.hostLink := rfl
@[simp] theorem Dev.finish_perst (q st dt : Nat) : (d.finish q st dt).perst = d.perst := rfl
@[simp] theorem Dev.finish_bias (q st dt : Nat) : (d.finish q st dt).bias = d.bias := rfl
@[simp] theorem Dev.finish_bcast (q st dt : Nat) : (d.finish q st dt).bcast = d.bcast := rfl
@[simp] theorem Dev.finish_board (q st dt : Nat) : (d.finish q st dt).board = d.board := rfl
@[simp] theorem Dev.finish_boot (q st dt : Nat) : (d.finish q st dt).boot = d.boot := rfl
@[simp] theorem Dev.finish_ownerKey (q st dt : Nat) : (d.finish q st dt).ownerKey = d.ownerKey := rfl
@[simp] theorem Dev.finish_topq (q st dt : Nat) : (d.finish q st dt).topq = d.topq := rfl
@[simp] theorem Dev.finish_leaf (q st dt : Nat) : (d.finish q st dt).leaf = d.leaf := rfl
@[simp] theorem Dev.finish_custQ (q st dt : Nat) : (d.finish q st dt).custQ = d.custQ := rfl
@[simp] theorem Dev.finish_custLost (q st dt : Nat) : (d.finish q st dt).custLost = d.custLost := rfl
@[simp] theorem Dev.finish_log (q st dt : Nat) : (d.finish q st dt).log = d.log := rfl
@[simp] theorem Dev.finish_cmpRun (q st dt : Nat) : (d.finish q st dt).cmpRun = d.cmpRun := rfl
@[simp] theorem Dev.finish_escal (q st dt : Nat) : (d.finish q st dt).escal = d.escal := rfl
@[simp] theorem Dev.finish_resetCause (q st dt : Nat) : (d.finish q st dt).resetCause = d.resetCause := rfl
@[simp] theorem Dev.finish_corr (q st dt : Nat) : (d.finish q st dt).corr = d.corr := rfl
@[simp] theorem Dev.finish_jhold (q st dt : Nat) : (d.finish q st dt).jhold = d.jhold := rfl
@[simp] theorem Dev.finish_faultN (q st dt : Nat) : (d.finish q st dt).faultN = d.faultN := rfl
@[simp] theorem Dev.finish_pwrGood (q st dt : Nat) : (d.finish q st dt).pwrGood = d.pwrGood := rfl
@[simp] theorem Dev.finish_supplyWarnN (q st dt : Nat) : (d.finish q st dt).supplyWarnN = d.supplyWarnN := rfl
@[simp] theorem Dev.finish_stackT (q st dt : Nat) : (d.finish q st dt).stackT = d.stackT := rfl
@[simp] theorem Dev.finish_junction (q st dt : Nat) : (d.finish q st dt).junction = d.junction := rfl
@[simp] theorem Dev.finish_recd (q st dt : Nat) : (d.finish q st dt).recd = d.recd := rfl
@[simp] theorem Dev.finish_snap (q st dt : Nat) : (d.finish q st dt).snap = d.snap := rfl
@[simp] theorem Dev.finish_folio (q st dt : Nat) : (d.finish q st dt).folio = d.folio := rfl
@[simp] theorem Dev.finish_mgmt (q st dt : Nat) : (d.finish q st dt).mgmt = d.mgmt := rfl
@[simp] theorem Dev.finish_out (q st dt : Nat) : (d.finish q st dt).out = d.out := rfl
@[simp] theorem Dev.finish_free (q st dt : Nat) : (d.finish q st dt).free = d.free := rfl
@[simp] theorem Dev.healthDue_rd  (r : Reg) : (d.healthDue).rd r = d.rd r := rfl
@[simp] theorem Dev.irq_rd  (r : Reg) : (d.irq).rd r = d.rd r := rfl
@[simp] theorem Dev.setTide_rd (t : Tide) (r : Reg) : (d.setTide t).rd r = d.rd r := rfl
@[simp] theorem Dev.setRun_rd (q : Nat) (f : Run → Run) (r : Reg) : (d.setRun q f).rd r = d.rd r := rfl
@[simp] theorem Dev.finish_rd (q st dt : Nat) (r : Reg) : (d.finish q st dt).rd r = d.rd r := rfl

/-! ### Dev.takes -/

@[simp] theorem Dev.takes_held (ws : List Word) : (d.takes ws).held = d.held := d.takes_keeps Dev.held (fun _ _ _ => rfl) ..
@[simp] theorem Dev.takes_cycle (ws : List Word) : (d.takes ws).cycle = d.cycle := d.takes_keeps Dev.cycle (fun _ _ _ => rfl) ..
@[simp] theorem Dev.takes_ptime (ws : List Word) : (d.takes ws).ptime = d.ptime := d.takes_keeps Dev.ptime (fun _ _ _ => rfl) ..
@[simp] theorem Dev.takes_tide (ws : List Word) : (d.takes ws).tide = d.tide := d.takes_keeps Dev.tide (fun _ _ _ => rfl) ..
@[simp] theorem Dev.takes_capInForce (ws : List Word) : (d.takes ws).capInForce = d.capInForce := d.takes_keeps Dev.capInForce (fun _ _ _ => rfl) ..
@[simp] theorem Dev.takes_mem (ws : List Word) : (d.takes ws).mem = d.mem := d.takes_keeps Dev.mem (fun _ _ _ => rfl) ..
@[simp] theorem Dev.takes_far (ws : List Word) : (d.takes ws).far = d.far := d.takes_keeps Dev.far (fun _ _ _ => rfl) ..
@[simp] theorem Dev.takes_badWords (ws : List Word) : (d.takes ws).badWords = d.badWords := d.takes_keeps Dev.badWords (fun _ _ _ => rfl) ..
@[simp] theorem Dev.takes_cache (ws : List Word) : (d.takes ws).cache = d.cache := d.takes_keeps Dev.cache (fun _ _ _ => rfl) ..
@[simp] theorem Dev.takes_cores (ws : List Word) : (d.takes ws).cores = d.cores := d.takes_keeps Dev.cores (fun _ _ _ => rfl) ..
@[simp] theorem Dev.takes_ccs (ws : List Word) : (d.takes ws).ccs = d.ccs := d.takes_keeps Dev.ccs (fun _ _ _ => rfl) ..
@[simp] theorem Dev.takes_queues (ws : List Word) : (d.takes ws).queues = d.queues := d.takes_keeps Dev.queues (fun _ _ _ => rfl) ..
@[simp] theorem Dev.takes_fabric (ws : List Word) : (d.takes ws).fabric = d.fabric := d.takes_keeps Dev.fabric (fun _ _ _ => rfl) ..
@[simp] theorem Dev.takes_plants (ws : List Word) : (d.takes ws).plants = d.plants := d.takes_keeps Dev.plants (fun _ _ _ => rfl) ..
@[simp] theorem Dev.takes_hostLink (ws : List Word) : (d.takes ws).hostLink = d.hostLink := d.takes_keeps Dev.hostLink (fun _ _ _ => rfl) ..
@[simp] theorem Dev.takes_perst (ws : List Word) : (d.takes ws).perst = d.perst := d.takes_keeps Dev.perst (fun _ _ _ => rfl) ..
@[simp] theorem Dev.takes_bias (ws : List Word) : (d.takes ws).bias = d.bias := d.takes_keeps Dev.bias (fun _ _ _ => rfl) ..
@[simp] theorem Dev.takes_bcast (ws : List Word) : (d.takes ws).bcast = d.bcast := d.takes_keeps Dev.bcast (fun _ _ _ => rfl) ..
@[simp] theorem Dev.takes_board (ws : List Word) : (d.takes ws).board = d.board := d.takes_keeps Dev.board (fun _ _ _ => rfl) ..
@[simp] theorem Dev.takes_boot (ws : List Word) : (d.takes ws).boot = d.boot := d.takes_keeps Dev.boot (fun _ _ _ => rfl) ..
@[simp] theorem Dev.takes_ownerKey (ws : List Word) : (d.takes ws).ownerKey = d.ownerKey := d.takes_keeps Dev.ownerKey (fun _ _ _ => rfl) ..
@[simp] theorem Dev.takes_topq (ws : List Word) : (d.takes ws).topq = d.topq := d.takes_keeps Dev.topq (fun _ _ _ => rfl) ..
@[simp] theorem Dev.takes_leaf (ws : List Word) : (d.takes ws).leaf = d.leaf := d.takes_keeps Dev.leaf (fun _ _ _ => rfl) ..
@[simp] theorem Dev.takes_custQ (ws : List Word) : (d.takes ws).custQ = d.custQ := d.takes_keeps Dev.custQ (fun _ _ _ => rfl) ..
@[simp] theorem Dev.takes_custLost (ws : List Word) : (d.takes ws).custLost = d.custLost := d.takes_keeps Dev.custLost (fun _ _ _ => rfl) ..
@[simp] theorem Dev.takes_log (ws : List Word) : (d.takes ws).log = d.log := d.takes_keeps Dev.log (fun _ _ _ => rfl) ..
@[simp] theorem Dev.takes_cmpRun (ws : List Word) : (d.takes ws).cmpRun = d.cmpRun := d.takes_keeps Dev.cmpRun (fun _ _ _ => rfl) ..
@[simp] theorem Dev.takes_escal (ws : List Word) : (d.takes ws).escal = d.escal := d.takes_keeps Dev.escal (fun _ _ _ => rfl) ..
@[simp] theorem Dev.takes_resetCause (ws : List Word) : (d.takes ws).resetCause = d.resetCause := d.takes_keeps Dev.resetCause (fun _ _ _ => rfl) ..
@[simp] theorem Dev.takes_corr (ws : List Word) : (d.takes ws).corr = d.corr := d.takes_keeps Dev.corr (fun _ _ _ => rfl) ..
@[simp] theorem Dev.takes_jhold (ws : List Word) : (d.takes ws).jhold = d.jhold := d.takes_keeps Dev.jhold (fun _ _ _ => rfl) ..
@[simp] theorem Dev.takes_faultN (ws : List Word) : (d.takes ws).faultN = d.faultN := d.takes_keeps Dev.faultN (fun _ _ _ => rfl) ..
@[simp] theorem Dev.takes_pwrGood (ws : List Word) : (d.takes ws).pwrGood = d.pwrGood := d.takes_keeps Dev.pwrGood (fun _ _ _ => rfl) ..
@[simp] theorem Dev.takes_supplyWarnN (ws : List Word) : (d.takes ws).supplyWarnN = d.supplyWarnN := d.takes_keeps Dev.supplyWarnN (fun _ _ _ => rfl) ..
@[simp] theorem Dev.takes_stackT (ws : List Word) : (d.takes ws).stackT = d.stackT := d.takes_keeps Dev.stackT (fun _ _ _ => rfl) ..
@[simp] theorem Dev.takes_junction (ws : List Word) : (d.takes ws).junction = d.junction := d.takes_keeps Dev.junction (fun _ _ _ => rfl) ..
@[simp] theorem Dev.takes_recd (ws : List Word) : (d.takes ws).recd = d.recd := d.takes_keeps Dev.recd (fun _ _ _ => rfl) ..
@[simp] theorem Dev.takes_snap (ws : List Word) : (d.takes ws).snap = d.snap := d.takes_keeps Dev.snap (fun _ _ _ => rfl) ..
@[simp] theorem Dev.takes_folio (ws : List Word) : (d.takes ws).folio = d.folio := d.takes_keeps Dev.folio (fun _ _ _ => rfl) ..
@[simp] theorem Dev.takes_mgmt (ws : List Word) : (d.takes ws).mgmt = d.mgmt := d.takes_keeps Dev.mgmt (fun _ _ _ => rfl) ..
@[simp] theorem Dev.takes_out (ws : List Word) : (d.takes ws).out = d.out := d.takes_keeps Dev.out (fun _ _ _ => rfl) ..
@[simp] theorem Dev.takes_free (ws : List Word) : (d.takes ws).free = d.free := d.takes_keeps Dev.free (fun _ _ _ => rfl) ..
theorem Dev.takes_rd (ws : List Word) {r : Reg} (h : ∀ n, r ≠ .cqSig n) : (d.takes ws).rd r = d.rd r := by
  unfold Dev.takes; dsimp only; split <;> split <;> simp [Dev.sigAdd, Dev.rd_setFld_ne, h]

/-! ### Dev.skipRun, Dev.noteHead, Dev.beginWith -/

/-- A skip changes nothing but its queue. -/
theorem Dev.skipRun_keeps {γ : Type} (π : Dev → γ) (q : Nat) (h : ∀ (e : Dev) (x : Queue), π (e.setQueue q x) = π e) (n : Nat) :
    π (Dev.skipRun q n d) = π d := by
  induction n generalizing d with
  | zero => rfl
  | succ n ih =>
    unfold Dev.skipRun
    dsimp only
    (repeat' split) <;> first | rfl | rw [ih, h]

@[simp] theorem Dev.skipRun_regs (q n : Nat) : (Dev.skipRun q n d).regs = d.regs := d.skipRun_keeps Dev.regs q (fun _ _ => rfl) n
@[simp] theorem Dev.skipRun_held (q n : Nat) : (Dev.skipRun q n d).held = d.held := d.skipRun_keeps Dev.held q (fun _ _ => rfl) n
@[simp] theorem Dev.skipRun_cycle (q n : Nat) : (Dev.skipRun q n d).cycle = d.cycle := d.skipRun_keeps Dev.cycle q (fun _ _ => rfl) n
@[simp] theorem Dev.skipRun_ptime (q n : Nat) : (Dev.skipRun q n d).ptime = d.ptime := d.skipRun_keeps Dev.ptime q (fun _ _ => rfl) n
@[simp] theorem Dev.skipRun_tide (q n : Nat) : (Dev.skipRun q n d).tide = d.tide := d.skipRun_keeps Dev.tide q (fun _ _ => rfl) n
@[simp] theorem Dev.skipRun_capInForce (q n : Nat) : (Dev.skipRun q n d).capInForce = d.capInForce := d.skipRun_keeps Dev.capInForce q (fun _ _ => rfl) n
@[simp] theorem Dev.skipRun_mem (q n : Nat) : (Dev.skipRun q n d).mem = d.mem := d.skipRun_keeps Dev.mem q (fun _ _ => rfl) n
@[simp] theorem Dev.skipRun_far (q n : Nat) : (Dev.skipRun q n d).far = d.far := d.skipRun_keeps Dev.far q (fun _ _ => rfl) n
@[simp] theorem Dev.skipRun_badWords (q n : Nat) : (Dev.skipRun q n d).badWords = d.badWords := d.skipRun_keeps Dev.badWords q (fun _ _ => rfl) n
@[simp] theorem Dev.skipRun_cache (q n : Nat) : (Dev.skipRun q n d).cache = d.cache := d.skipRun_keeps Dev.cache q (fun _ _ => rfl) n
@[simp] theorem Dev.skipRun_cores (q n : Nat) : (Dev.skipRun q n d).cores = d.cores := d.skipRun_keeps Dev.cores q (fun _ _ => rfl) n
@[simp] theorem Dev.skipRun_ccs (q n : Nat) : (Dev.skipRun q n d).ccs = d.ccs := d.skipRun_keeps Dev.ccs q (fun _ _ => rfl) n
@[simp] theorem Dev.skipRun_fabric (q n : Nat) : (Dev.skipRun q n d).fabric = d.fabric := d.skipRun_keeps Dev.fabric q (fun _ _ => rfl) n
@[simp] theorem Dev.skipRun_plants (q n : Nat) : (Dev.skipRun q n d).plants = d.plants := d.skipRun_keeps Dev.plants q (fun _ _ => rfl) n
@[simp] theorem Dev.skipRun_hostLink (q n : Nat) : (Dev.skipRun q n d).hostLink = d.hostLink := d.skipRun_keeps Dev.hostLink q (fun _ _ => rfl) n
@[simp] theorem Dev.skipRun_perst (q n : Nat) : (Dev.skipRun q n d).perst = d.perst := d.skipRun_keeps Dev.perst q (fun _ _ => rfl) n
@[simp] theorem Dev.skipRun_bias (q n : Nat) : (Dev.skipRun q n d).bias = d.bias := d.skipRun_keeps Dev.bias q (fun _ _ => rfl) n
@[simp] theorem Dev.skipRun_bcast (q n : Nat) : (Dev.skipRun q n d).bcast = d.bcast := d.skipRun_keeps Dev.bcast q (fun _ _ => rfl) n
@[simp] theorem Dev.skipRun_board (q n : Nat) : (Dev.skipRun q n d).board = d.board := d.skipRun_keeps Dev.board q (fun _ _ => rfl) n
@[simp] theorem Dev.skipRun_boot (q n : Nat) : (Dev.skipRun q n d).boot = d.boot := d.skipRun_keeps Dev.boot q (fun _ _ => rfl) n
@[simp] theorem Dev.skipRun_ownerKey (q n : Nat) : (Dev.skipRun q n d).ownerKey = d.ownerKey := d.skipRun_keeps Dev.ownerKey q (fun _ _ => rfl) n
@[simp] theorem Dev.skipRun_topq (q n : Nat) : (Dev.skipRun q n d).topq = d.topq := d.skipRun_keeps Dev.topq q (fun _ _ => rfl) n
@[simp] theorem Dev.skipRun_leaf (q n : Nat) : (Dev.skipRun q n d).leaf = d.leaf := d.skipRun_keeps Dev.leaf q (fun _ _ => rfl) n
@[simp] theorem Dev.skipRun_custQ (q n : Nat) : (Dev.skipRun q n d).custQ = d.custQ := d.skipRun_keeps Dev.custQ q (fun _ _ => rfl) n
@[simp] theorem Dev.skipRun_custLost (q n : Nat) : (Dev.skipRun q n d).custLost = d.custLost := d.skipRun_keeps Dev.custLost q (fun _ _ => rfl) n
@[simp] theorem Dev.skipRun_log (q n : Nat) : (Dev.skipRun q n d).log = d.log := d.skipRun_keeps Dev.log q (fun _ _ => rfl) n
@[simp] theorem Dev.skipRun_cmpRun (q n : Nat) : (Dev.skipRun q n d).cmpRun = d.cmpRun := d.skipRun_keeps Dev.cmpRun q (fun _ _ => rfl) n
@[simp] theorem Dev.skipRun_escal (q n : Nat) : (Dev.skipRun q n d).escal = d.escal := d.skipRun_keeps Dev.escal q (fun _ _ => rfl) n
@[simp] theorem Dev.skipRun_resetCause (q n : Nat) : (Dev.skipRun q n d).resetCause = d.resetCause := d.skipRun_keeps Dev.resetCause q (fun _ _ => rfl) n
@[simp] theorem Dev.skipRun_corr (q n : Nat) : (Dev.skipRun q n d).corr = d.corr := d.skipRun_keeps Dev.corr q (fun _ _ => rfl) n
@[simp] theorem Dev.skipRun_jhold (q n : Nat) : (Dev.skipRun q n d).jhold = d.jhold := d.skipRun_keeps Dev.jhold q (fun _ _ => rfl) n
@[simp] theorem Dev.skipRun_faultN (q n : Nat) : (Dev.skipRun q n d).faultN = d.faultN := d.skipRun_keeps Dev.faultN q (fun _ _ => rfl) n
@[simp] theorem Dev.skipRun_pwrGood (q n : Nat) : (Dev.skipRun q n d).pwrGood = d.pwrGood := d.skipRun_keeps Dev.pwrGood q (fun _ _ => rfl) n
@[simp] theorem Dev.skipRun_supplyWarnN (q n : Nat) : (Dev.skipRun q n d).supplyWarnN = d.supplyWarnN := d.skipRun_keeps Dev.supplyWarnN q (fun _ _ => rfl) n
@[simp] theorem Dev.skipRun_stackT (q n : Nat) : (Dev.skipRun q n d).stackT = d.stackT := d.skipRun_keeps Dev.stackT q (fun _ _ => rfl) n
@[simp] theorem Dev.skipRun_junction (q n : Nat) : (Dev.skipRun q n d).junction = d.junction := d.skipRun_keeps Dev.junction q (fun _ _ => rfl) n
@[simp] theorem Dev.skipRun_recd (q n : Nat) : (Dev.skipRun q n d).recd = d.recd := d.skipRun_keeps Dev.recd q (fun _ _ => rfl) n
@[simp] theorem Dev.skipRun_snap (q n : Nat) : (Dev.skipRun q n d).snap = d.snap := d.skipRun_keeps Dev.snap q (fun _ _ => rfl) n
@[simp] theorem Dev.skipRun_folio (q n : Nat) : (Dev.skipRun q n d).folio = d.folio := d.skipRun_keeps Dev.folio q (fun _ _ => rfl) n
@[simp] theorem Dev.skipRun_mgmt (q n : Nat) : (Dev.skipRun q n d).mgmt = d.mgmt := d.skipRun_keeps Dev.mgmt q (fun _ _ => rfl) n
@[simp] theorem Dev.skipRun_out (q n : Nat) : (Dev.skipRun q n d).out = d.out := d.skipRun_keeps Dev.out q (fun _ _ => rfl) n
@[simp] theorem Dev.skipRun_free (q n : Nat) : (Dev.skipRun q n d).free = d.free := d.skipRun_keeps Dev.free q (fun _ _ => rfl) n
@[simp] theorem Dev.skipRun_rd (q n : Nat) (r : Reg) : (Dev.skipRun q n d).rd r = d.rd r := by simp [Dev.rd]
@[simp] theorem Dev.noteHead_held (q : Nat) : (d.noteHead q).held = d.held := d.noteHead_keeps Dev.held (fun _ _ _ => rfl) (fun _ _ _ => rfl) q
@[simp] theorem Dev.noteHead_cycle (q : Nat) : (d.noteHead q).cycle = d.cycle := d.noteHead_keeps Dev.cycle (fun _ _ _ => rfl) (fun _ _ _ => rfl) q
@[simp] theorem Dev.noteHead_ptime (q : Nat) : (d.noteHead q).ptime = d.ptime := d.noteHead_keeps Dev.ptime (fun _ _ _ => rfl) (fun _ _ _ => rfl) q
@[simp] theorem Dev.noteHead_tide (q : Nat) : (d.noteHead q).tide = d.tide := d.noteHead_keeps Dev.tide (fun _ _ _ => rfl) (fun _ _ _ => rfl) q
@[simp] theorem Dev.noteHead_capInForce (q : Nat) : (d.noteHead q).capInForce = d.capInForce := d.noteHead_keeps Dev.capInForce (fun _ _ _ => rfl) (fun _ _ _ => rfl) q
@[simp] theorem Dev.noteHead_mem (q : Nat) : (d.noteHead q).mem = d.mem := d.noteHead_keeps Dev.mem (fun _ _ _ => rfl) (fun _ _ _ => rfl) q
@[simp] theorem Dev.noteHead_far (q : Nat) : (d.noteHead q).far = d.far := d.noteHead_keeps Dev.far (fun _ _ _ => rfl) (fun _ _ _ => rfl) q
@[simp] theorem Dev.noteHead_badWords (q : Nat) : (d.noteHead q).badWords = d.badWords := d.noteHead_keeps Dev.badWords (fun _ _ _ => rfl) (fun _ _ _ => rfl) q
@[simp] theorem Dev.noteHead_cache (q : Nat) : (d.noteHead q).cache = d.cache := d.noteHead_keeps Dev.cache (fun _ _ _ => rfl) (fun _ _ _ => rfl) q
@[simp] theorem Dev.noteHead_cores (q : Nat) : (d.noteHead q).cores = d.cores := d.noteHead_keeps Dev.cores (fun _ _ _ => rfl) (fun _ _ _ => rfl) q
@[simp] theorem Dev.noteHead_ccs (q : Nat) : (d.noteHead q).ccs = d.ccs := d.noteHead_keeps Dev.ccs (fun _ _ _ => rfl) (fun _ _ _ => rfl) q
@[simp] theorem Dev.noteHead_fabric (q : Nat) : (d.noteHead q).fabric = d.fabric := d.noteHead_keeps Dev.fabric (fun _ _ _ => rfl) (fun _ _ _ => rfl) q
@[simp] theorem Dev.noteHead_plants (q : Nat) : (d.noteHead q).plants = d.plants := d.noteHead_keeps Dev.plants (fun _ _ _ => rfl) (fun _ _ _ => rfl) q
@[simp] theorem Dev.noteHead_hostLink (q : Nat) : (d.noteHead q).hostLink = d.hostLink := d.noteHead_keeps Dev.hostLink (fun _ _ _ => rfl) (fun _ _ _ => rfl) q
@[simp] theorem Dev.noteHead_perst (q : Nat) : (d.noteHead q).perst = d.perst := d.noteHead_keeps Dev.perst (fun _ _ _ => rfl) (fun _ _ _ => rfl) q
@[simp] theorem Dev.noteHead_bias (q : Nat) : (d.noteHead q).bias = d.bias := d.noteHead_keeps Dev.bias (fun _ _ _ => rfl) (fun _ _ _ => rfl) q
@[simp] theorem Dev.noteHead_bcast (q : Nat) : (d.noteHead q).bcast = d.bcast := d.noteHead_keeps Dev.bcast (fun _ _ _ => rfl) (fun _ _ _ => rfl) q
@[simp] theorem Dev.noteHead_board (q : Nat) : (d.noteHead q).board = d.board := d.noteHead_keeps Dev.board (fun _ _ _ => rfl) (fun _ _ _ => rfl) q
@[simp] theorem Dev.noteHead_boot (q : Nat) : (d.noteHead q).boot = d.boot := d.noteHead_keeps Dev.boot (fun _ _ _ => rfl) (fun _ _ _ => rfl) q
@[simp] theorem Dev.noteHead_ownerKey (q : Nat) : (d.noteHead q).ownerKey = d.ownerKey := d.noteHead_keeps Dev.ownerKey (fun _ _ _ => rfl) (fun _ _ _ => rfl) q
@[simp] theorem Dev.noteHead_topq (q : Nat) : (d.noteHead q).topq = d.topq := d.noteHead_keeps Dev.topq (fun _ _ _ => rfl) (fun _ _ _ => rfl) q
@[simp] theorem Dev.noteHead_leaf (q : Nat) : (d.noteHead q).leaf = d.leaf := d.noteHead_keeps Dev.leaf (fun _ _ _ => rfl) (fun _ _ _ => rfl) q
@[simp] theorem Dev.noteHead_custQ (q : Nat) : (d.noteHead q).custQ = d.custQ := d.noteHead_keeps Dev.custQ (fun _ _ _ => rfl) (fun _ _ _ => rfl) q
@[simp] theorem Dev.noteHead_custLost (q : Nat) : (d.noteHead q).custLost = d.custLost := d.noteHead_keeps Dev.custLost (fun _ _ _ => rfl) (fun _ _ _ => rfl) q
@[simp] theorem Dev.noteHead_log (q : Nat) : (d.noteHead q).log = d.log := d.noteHead_keeps Dev.log (fun _ _ _ => rfl) (fun _ _ _ => rfl) q
@[simp] theorem Dev.noteHead_cmpRun (q : Nat) : (d.noteHead q).cmpRun = d.cmpRun := d.noteHead_keeps Dev.cmpRun (fun _ _ _ => rfl) (fun _ _ _ => rfl) q
@[simp] theorem Dev.noteHead_escal (q : Nat) : (d.noteHead q).escal = d.escal := d.noteHead_keeps Dev.escal (fun _ _ _ => rfl) (fun _ _ _ => rfl) q
@[simp] theorem Dev.noteHead_resetCause (q : Nat) : (d.noteHead q).resetCause = d.resetCause := d.noteHead_keeps Dev.resetCause (fun _ _ _ => rfl) (fun _ _ _ => rfl) q
@[simp] theorem Dev.noteHead_corr (q : Nat) : (d.noteHead q).corr = d.corr := d.noteHead_keeps Dev.corr (fun _ _ _ => rfl) (fun _ _ _ => rfl) q
@[simp] theorem Dev.noteHead_jhold (q : Nat) : (d.noteHead q).jhold = d.jhold := d.noteHead_keeps Dev.jhold (fun _ _ _ => rfl) (fun _ _ _ => rfl) q
@[simp] theorem Dev.noteHead_faultN (q : Nat) : (d.noteHead q).faultN = d.faultN := d.noteHead_keeps Dev.faultN (fun _ _ _ => rfl) (fun _ _ _ => rfl) q
@[simp] theorem Dev.noteHead_pwrGood (q : Nat) : (d.noteHead q).pwrGood = d.pwrGood := d.noteHead_keeps Dev.pwrGood (fun _ _ _ => rfl) (fun _ _ _ => rfl) q
@[simp] theorem Dev.noteHead_supplyWarnN (q : Nat) : (d.noteHead q).supplyWarnN = d.supplyWarnN := d.noteHead_keeps Dev.supplyWarnN (fun _ _ _ => rfl) (fun _ _ _ => rfl) q
@[simp] theorem Dev.noteHead_stackT (q : Nat) : (d.noteHead q).stackT = d.stackT := d.noteHead_keeps Dev.stackT (fun _ _ _ => rfl) (fun _ _ _ => rfl) q
@[simp] theorem Dev.noteHead_junction (q : Nat) : (d.noteHead q).junction = d.junction := d.noteHead_keeps Dev.junction (fun _ _ _ => rfl) (fun _ _ _ => rfl) q
@[simp] theorem Dev.noteHead_recd (q : Nat) : (d.noteHead q).recd = d.recd := d.noteHead_keeps Dev.recd (fun _ _ _ => rfl) (fun _ _ _ => rfl) q
@[simp] theorem Dev.noteHead_snap (q : Nat) : (d.noteHead q).snap = d.snap := d.noteHead_keeps Dev.snap (fun _ _ _ => rfl) (fun _ _ _ => rfl) q
@[simp] theorem Dev.noteHead_folio (q : Nat) : (d.noteHead q).folio = d.folio := d.noteHead_keeps Dev.folio (fun _ _ _ => rfl) (fun _ _ _ => rfl) q
@[simp] theorem Dev.noteHead_mgmt (q : Nat) : (d.noteHead q).mgmt = d.mgmt := d.noteHead_keeps Dev.mgmt (fun _ _ _ => rfl) (fun _ _ _ => rfl) q
@[simp] theorem Dev.noteHead_out (q : Nat) : (d.noteHead q).out = d.out := d.noteHead_keeps Dev.out (fun _ _ _ => rfl) (fun _ _ _ => rfl) q
@[simp] theorem Dev.noteHead_free (q : Nat) : (d.noteHead q).free = d.free := d.noteHead_keeps Dev.free (fun _ _ _ => rfl) (fun _ _ _ => rfl) q
theorem Dev.noteHead_rd (q : Nat) {r : Reg} (h : r ≠ .cnChoiceBit) : (d.noteHead q).rd r = d.rd r := by
  unfold Dev.noteHead; dsimp only; (repeat' split) <;> first | rfl | simp [Dev.choiceBit_rd, h]
@[simp] theorem Dev.beginWith_held (q : Nat) (ws : List Word) (t : Bool) : (d.beginWith q ws t).held = d.held :=
  d.beginWith_keeps Dev.held (fun _ _ _ => rfl) (fun _ _ _ => rfl) q ws t
@[simp] theorem Dev.beginWith_cycle (q : Nat) (ws : List Word) (t : Bool) : (d.beginWith q ws t).cycle = d.cycle :=
  d.beginWith_keeps Dev.cycle (fun _ _ _ => rfl) (fun _ _ _ => rfl) q ws t
@[simp] theorem Dev.beginWith_ptime (q : Nat) (ws : List Word) (t : Bool) : (d.beginWith q ws t).ptime = d.ptime :=
  d.beginWith_keeps Dev.ptime (fun _ _ _ => rfl) (fun _ _ _ => rfl) q ws t
@[simp] theorem Dev.beginWith_tide (q : Nat) (ws : List Word) (t : Bool) : (d.beginWith q ws t).tide = d.tide :=
  d.beginWith_keeps Dev.tide (fun _ _ _ => rfl) (fun _ _ _ => rfl) q ws t
@[simp] theorem Dev.beginWith_capInForce (q : Nat) (ws : List Word) (t : Bool) : (d.beginWith q ws t).capInForce = d.capInForce :=
  d.beginWith_keeps Dev.capInForce (fun _ _ _ => rfl) (fun _ _ _ => rfl) q ws t
@[simp] theorem Dev.beginWith_mem (q : Nat) (ws : List Word) (t : Bool) : (d.beginWith q ws t).mem = d.mem :=
  d.beginWith_keeps Dev.mem (fun _ _ _ => rfl) (fun _ _ _ => rfl) q ws t
@[simp] theorem Dev.beginWith_far (q : Nat) (ws : List Word) (t : Bool) : (d.beginWith q ws t).far = d.far :=
  d.beginWith_keeps Dev.far (fun _ _ _ => rfl) (fun _ _ _ => rfl) q ws t
@[simp] theorem Dev.beginWith_badWords (q : Nat) (ws : List Word) (t : Bool) : (d.beginWith q ws t).badWords = d.badWords :=
  d.beginWith_keeps Dev.badWords (fun _ _ _ => rfl) (fun _ _ _ => rfl) q ws t
@[simp] theorem Dev.beginWith_cache (q : Nat) (ws : List Word) (t : Bool) : (d.beginWith q ws t).cache = d.cache :=
  d.beginWith_keeps Dev.cache (fun _ _ _ => rfl) (fun _ _ _ => rfl) q ws t
@[simp] theorem Dev.beginWith_cores (q : Nat) (ws : List Word) (t : Bool) : (d.beginWith q ws t).cores = d.cores :=
  d.beginWith_keeps Dev.cores (fun _ _ _ => rfl) (fun _ _ _ => rfl) q ws t
@[simp] theorem Dev.beginWith_ccs (q : Nat) (ws : List Word) (t : Bool) : (d.beginWith q ws t).ccs = d.ccs :=
  d.beginWith_keeps Dev.ccs (fun _ _ _ => rfl) (fun _ _ _ => rfl) q ws t
@[simp] theorem Dev.beginWith_fabric (q : Nat) (ws : List Word) (t : Bool) : (d.beginWith q ws t).fabric = d.fabric :=
  d.beginWith_keeps Dev.fabric (fun _ _ _ => rfl) (fun _ _ _ => rfl) q ws t
@[simp] theorem Dev.beginWith_plants (q : Nat) (ws : List Word) (t : Bool) : (d.beginWith q ws t).plants = d.plants :=
  d.beginWith_keeps Dev.plants (fun _ _ _ => rfl) (fun _ _ _ => rfl) q ws t
@[simp] theorem Dev.beginWith_hostLink (q : Nat) (ws : List Word) (t : Bool) : (d.beginWith q ws t).hostLink = d.hostLink :=
  d.beginWith_keeps Dev.hostLink (fun _ _ _ => rfl) (fun _ _ _ => rfl) q ws t
@[simp] theorem Dev.beginWith_perst (q : Nat) (ws : List Word) (t : Bool) : (d.beginWith q ws t).perst = d.perst :=
  d.beginWith_keeps Dev.perst (fun _ _ _ => rfl) (fun _ _ _ => rfl) q ws t
@[simp] theorem Dev.beginWith_bias (q : Nat) (ws : List Word) (t : Bool) : (d.beginWith q ws t).bias = d.bias :=
  d.beginWith_keeps Dev.bias (fun _ _ _ => rfl) (fun _ _ _ => rfl) q ws t
@[simp] theorem Dev.beginWith_bcast (q : Nat) (ws : List Word) (t : Bool) : (d.beginWith q ws t).bcast = d.bcast :=
  d.beginWith_keeps Dev.bcast (fun _ _ _ => rfl) (fun _ _ _ => rfl) q ws t
@[simp] theorem Dev.beginWith_board (q : Nat) (ws : List Word) (t : Bool) : (d.beginWith q ws t).board = d.board :=
  d.beginWith_keeps Dev.board (fun _ _ _ => rfl) (fun _ _ _ => rfl) q ws t
@[simp] theorem Dev.beginWith_boot (q : Nat) (ws : List Word) (t : Bool) : (d.beginWith q ws t).boot = d.boot :=
  d.beginWith_keeps Dev.boot (fun _ _ _ => rfl) (fun _ _ _ => rfl) q ws t
@[simp] theorem Dev.beginWith_ownerKey (q : Nat) (ws : List Word) (t : Bool) : (d.beginWith q ws t).ownerKey = d.ownerKey :=
  d.beginWith_keeps Dev.ownerKey (fun _ _ _ => rfl) (fun _ _ _ => rfl) q ws t
@[simp] theorem Dev.beginWith_topq (q : Nat) (ws : List Word) (t : Bool) : (d.beginWith q ws t).topq = d.topq :=
  d.beginWith_keeps Dev.topq (fun _ _ _ => rfl) (fun _ _ _ => rfl) q ws t
@[simp] theorem Dev.beginWith_leaf (q : Nat) (ws : List Word) (t : Bool) : (d.beginWith q ws t).leaf = d.leaf :=
  d.beginWith_keeps Dev.leaf (fun _ _ _ => rfl) (fun _ _ _ => rfl) q ws t
@[simp] theorem Dev.beginWith_custQ (q : Nat) (ws : List Word) (t : Bool) : (d.beginWith q ws t).custQ = d.custQ :=
  d.beginWith_keeps Dev.custQ (fun _ _ _ => rfl) (fun _ _ _ => rfl) q ws t
@[simp] theorem Dev.beginWith_custLost (q : Nat) (ws : List Word) (t : Bool) : (d.beginWith q ws t).custLost = d.custLost :=
  d.beginWith_keeps Dev.custLost (fun _ _ _ => rfl) (fun _ _ _ => rfl) q ws t
@[simp] theorem Dev.beginWith_log (q : Nat) (ws : List Word) (t : Bool) : (d.beginWith q ws t).log = d.log :=
  d.beginWith_keeps Dev.log (fun _ _ _ => rfl) (fun _ _ _ => rfl) q ws t
@[simp] theorem Dev.beginWith_cmpRun (q : Nat) (ws : List Word) (t : Bool) : (d.beginWith q ws t).cmpRun = d.cmpRun :=
  d.beginWith_keeps Dev.cmpRun (fun _ _ _ => rfl) (fun _ _ _ => rfl) q ws t
@[simp] theorem Dev.beginWith_escal (q : Nat) (ws : List Word) (t : Bool) : (d.beginWith q ws t).escal = d.escal :=
  d.beginWith_keeps Dev.escal (fun _ _ _ => rfl) (fun _ _ _ => rfl) q ws t
@[simp] theorem Dev.beginWith_resetCause (q : Nat) (ws : List Word) (t : Bool) : (d.beginWith q ws t).resetCause = d.resetCause :=
  d.beginWith_keeps Dev.resetCause (fun _ _ _ => rfl) (fun _ _ _ => rfl) q ws t
@[simp] theorem Dev.beginWith_corr (q : Nat) (ws : List Word) (t : Bool) : (d.beginWith q ws t).corr = d.corr :=
  d.beginWith_keeps Dev.corr (fun _ _ _ => rfl) (fun _ _ _ => rfl) q ws t
@[simp] theorem Dev.beginWith_jhold (q : Nat) (ws : List Word) (t : Bool) : (d.beginWith q ws t).jhold = d.jhold :=
  d.beginWith_keeps Dev.jhold (fun _ _ _ => rfl) (fun _ _ _ => rfl) q ws t
@[simp] theorem Dev.beginWith_faultN (q : Nat) (ws : List Word) (t : Bool) : (d.beginWith q ws t).faultN = d.faultN :=
  d.beginWith_keeps Dev.faultN (fun _ _ _ => rfl) (fun _ _ _ => rfl) q ws t
@[simp] theorem Dev.beginWith_pwrGood (q : Nat) (ws : List Word) (t : Bool) : (d.beginWith q ws t).pwrGood = d.pwrGood :=
  d.beginWith_keeps Dev.pwrGood (fun _ _ _ => rfl) (fun _ _ _ => rfl) q ws t
@[simp] theorem Dev.beginWith_supplyWarnN (q : Nat) (ws : List Word) (t : Bool) : (d.beginWith q ws t).supplyWarnN = d.supplyWarnN :=
  d.beginWith_keeps Dev.supplyWarnN (fun _ _ _ => rfl) (fun _ _ _ => rfl) q ws t
@[simp] theorem Dev.beginWith_stackT (q : Nat) (ws : List Word) (t : Bool) : (d.beginWith q ws t).stackT = d.stackT :=
  d.beginWith_keeps Dev.stackT (fun _ _ _ => rfl) (fun _ _ _ => rfl) q ws t
@[simp] theorem Dev.beginWith_junction (q : Nat) (ws : List Word) (t : Bool) : (d.beginWith q ws t).junction = d.junction :=
  d.beginWith_keeps Dev.junction (fun _ _ _ => rfl) (fun _ _ _ => rfl) q ws t
@[simp] theorem Dev.beginWith_recd (q : Nat) (ws : List Word) (t : Bool) : (d.beginWith q ws t).recd = d.recd :=
  d.beginWith_keeps Dev.recd (fun _ _ _ => rfl) (fun _ _ _ => rfl) q ws t
@[simp] theorem Dev.beginWith_snap (q : Nat) (ws : List Word) (t : Bool) : (d.beginWith q ws t).snap = d.snap :=
  d.beginWith_keeps Dev.snap (fun _ _ _ => rfl) (fun _ _ _ => rfl) q ws t
@[simp] theorem Dev.beginWith_folio (q : Nat) (ws : List Word) (t : Bool) : (d.beginWith q ws t).folio = d.folio :=
  d.beginWith_keeps Dev.folio (fun _ _ _ => rfl) (fun _ _ _ => rfl) q ws t
@[simp] theorem Dev.beginWith_mgmt (q : Nat) (ws : List Word) (t : Bool) : (d.beginWith q ws t).mgmt = d.mgmt :=
  d.beginWith_keeps Dev.mgmt (fun _ _ _ => rfl) (fun _ _ _ => rfl) q ws t
@[simp] theorem Dev.beginWith_out (q : Nat) (ws : List Word) (t : Bool) : (d.beginWith q ws t).out = d.out :=
  d.beginWith_keeps Dev.out (fun _ _ _ => rfl) (fun _ _ _ => rfl) q ws t
@[simp] theorem Dev.beginWith_free (q : Nat) (ws : List Word) (t : Bool) : (d.beginWith q ws t).free = d.free :=
  d.beginWith_keeps Dev.free (fun _ _ _ => rfl) (fun _ _ _ => rfl) q ws t
@[simp] theorem Dev.begin_held (q : Nat) (ws : List Word) : (d.begin q ws).held = d.held := Dev.beginWith_held _ _ _ _
@[simp] theorem Dev.begin_cycle (q : Nat) (ws : List Word) : (d.begin q ws).cycle = d.cycle := Dev.beginWith_cycle _ _ _ _
@[simp] theorem Dev.begin_ptime (q : Nat) (ws : List Word) : (d.begin q ws).ptime = d.ptime := Dev.beginWith_ptime _ _ _ _
@[simp] theorem Dev.begin_tide (q : Nat) (ws : List Word) : (d.begin q ws).tide = d.tide := Dev.beginWith_tide _ _ _ _
@[simp] theorem Dev.begin_capInForce (q : Nat) (ws : List Word) : (d.begin q ws).capInForce = d.capInForce := Dev.beginWith_capInForce _ _ _ _
@[simp] theorem Dev.begin_mem (q : Nat) (ws : List Word) : (d.begin q ws).mem = d.mem := Dev.beginWith_mem _ _ _ _
@[simp] theorem Dev.begin_far (q : Nat) (ws : List Word) : (d.begin q ws).far = d.far := Dev.beginWith_far _ _ _ _
@[simp] theorem Dev.begin_badWords (q : Nat) (ws : List Word) : (d.begin q ws).badWords = d.badWords := Dev.beginWith_badWords _ _ _ _
@[simp] theorem Dev.begin_cache (q : Nat) (ws : List Word) : (d.begin q ws).cache = d.cache := Dev.beginWith_cache _ _ _ _
@[simp] theorem Dev.begin_cores (q : Nat) (ws : List Word) : (d.begin q ws).cores = d.cores := Dev.beginWith_cores _ _ _ _
@[simp] theorem Dev.begin_ccs (q : Nat) (ws : List Word) : (d.begin q ws).ccs = d.ccs := Dev.beginWith_ccs _ _ _ _
@[simp] theorem Dev.begin_fabric (q : Nat) (ws : List Word) : (d.begin q ws).fabric = d.fabric := Dev.beginWith_fabric _ _ _ _
@[simp] theorem Dev.begin_plants (q : Nat) (ws : List Word) : (d.begin q ws).plants = d.plants := Dev.beginWith_plants _ _ _ _
@[simp] theorem Dev.begin_hostLink (q : Nat) (ws : List Word) : (d.begin q ws).hostLink = d.hostLink := Dev.beginWith_hostLink _ _ _ _
@[simp] theorem Dev.begin_perst (q : Nat) (ws : List Word) : (d.begin q ws).perst = d.perst := Dev.beginWith_perst _ _ _ _
@[simp] theorem Dev.begin_bias (q : Nat) (ws : List Word) : (d.begin q ws).bias = d.bias := Dev.beginWith_bias _ _ _ _
@[simp] theorem Dev.begin_bcast (q : Nat) (ws : List Word) : (d.begin q ws).bcast = d.bcast := Dev.beginWith_bcast _ _ _ _
@[simp] theorem Dev.begin_board (q : Nat) (ws : List Word) : (d.begin q ws).board = d.board := Dev.beginWith_board _ _ _ _
@[simp] theorem Dev.begin_boot (q : Nat) (ws : List Word) : (d.begin q ws).boot = d.boot := Dev.beginWith_boot _ _ _ _
@[simp] theorem Dev.begin_ownerKey (q : Nat) (ws : List Word) : (d.begin q ws).ownerKey = d.ownerKey := Dev.beginWith_ownerKey _ _ _ _
@[simp] theorem Dev.begin_topq (q : Nat) (ws : List Word) : (d.begin q ws).topq = d.topq := Dev.beginWith_topq _ _ _ _
@[simp] theorem Dev.begin_leaf (q : Nat) (ws : List Word) : (d.begin q ws).leaf = d.leaf := Dev.beginWith_leaf _ _ _ _
@[simp] theorem Dev.begin_custQ (q : Nat) (ws : List Word) : (d.begin q ws).custQ = d.custQ := Dev.beginWith_custQ _ _ _ _
@[simp] theorem Dev.begin_custLost (q : Nat) (ws : List Word) : (d.begin q ws).custLost = d.custLost := Dev.beginWith_custLost _ _ _ _
@[simp] theorem Dev.begin_log (q : Nat) (ws : List Word) : (d.begin q ws).log = d.log := Dev.beginWith_log _ _ _ _
@[simp] theorem Dev.begin_cmpRun (q : Nat) (ws : List Word) : (d.begin q ws).cmpRun = d.cmpRun := Dev.beginWith_cmpRun _ _ _ _
@[simp] theorem Dev.begin_escal (q : Nat) (ws : List Word) : (d.begin q ws).escal = d.escal := Dev.beginWith_escal _ _ _ _
@[simp] theorem Dev.begin_resetCause (q : Nat) (ws : List Word) : (d.begin q ws).resetCause = d.resetCause := Dev.beginWith_resetCause _ _ _ _
@[simp] theorem Dev.begin_corr (q : Nat) (ws : List Word) : (d.begin q ws).corr = d.corr := Dev.beginWith_corr _ _ _ _
@[simp] theorem Dev.begin_jhold (q : Nat) (ws : List Word) : (d.begin q ws).jhold = d.jhold := Dev.beginWith_jhold _ _ _ _
@[simp] theorem Dev.begin_faultN (q : Nat) (ws : List Word) : (d.begin q ws).faultN = d.faultN := Dev.beginWith_faultN _ _ _ _
@[simp] theorem Dev.begin_pwrGood (q : Nat) (ws : List Word) : (d.begin q ws).pwrGood = d.pwrGood := Dev.beginWith_pwrGood _ _ _ _
@[simp] theorem Dev.begin_supplyWarnN (q : Nat) (ws : List Word) : (d.begin q ws).supplyWarnN = d.supplyWarnN := Dev.beginWith_supplyWarnN _ _ _ _
@[simp] theorem Dev.begin_stackT (q : Nat) (ws : List Word) : (d.begin q ws).stackT = d.stackT := Dev.beginWith_stackT _ _ _ _
@[simp] theorem Dev.begin_junction (q : Nat) (ws : List Word) : (d.begin q ws).junction = d.junction := Dev.beginWith_junction _ _ _ _
@[simp] theorem Dev.begin_recd (q : Nat) (ws : List Word) : (d.begin q ws).recd = d.recd := Dev.beginWith_recd _ _ _ _
@[simp] theorem Dev.begin_snap (q : Nat) (ws : List Word) : (d.begin q ws).snap = d.snap := Dev.beginWith_snap _ _ _ _
@[simp] theorem Dev.begin_folio (q : Nat) (ws : List Word) : (d.begin q ws).folio = d.folio := Dev.beginWith_folio _ _ _ _
@[simp] theorem Dev.begin_mgmt (q : Nat) (ws : List Word) : (d.begin q ws).mgmt = d.mgmt := Dev.beginWith_mgmt _ _ _ _
@[simp] theorem Dev.begin_out (q : Nat) (ws : List Word) : (d.begin q ws).out = d.out := Dev.beginWith_out _ _ _ _
@[simp] theorem Dev.begin_free (q : Nat) (ws : List Word) : (d.begin q ws).free = d.free := Dev.beginWith_free _ _ _ _
/-- A register that a start does not touch: no signal counter, no counter of a core, not the queue's serial. -/
theorem Dev.begin_rd (q : Nat) (ws : List Word) {r : Reg} (h1 : ∀ n, r ≠ .cqSig n) (h2 : r ≠ .cqSerial q)
    (h3 : ∀ c j, r ≠ .corePmcValue c j) : (d.begin q ws).rd r = d.rd r := by
  unfold Dev.begin Dev.beginWith
  extract_lets e1 n e2 x z y e3
  have h : e3.rd r = d.rd r := by
    simp only [e3, e2, e1, Dev.rd_setQueue, if_true]
    rw [Dev.rd_setFld_ne _ _ _ h2, Dev.takes_rd _ _ h1]
  split
  · exact h
  · split
    · rw [Dev.countCore_rd _ _ _ _ (h3 _)]; exact h
    · exact h

/-! ### Dev.tideTo, Dev.elapse -/

@[simp] theorem Dev.tideTo_regs (c : Word) : (d.tideTo c).regs = d.regs := d.tideTo_keeps Dev.regs (fun _ _ => rfl) c
@[simp] theorem Dev.tideTo_held (c : Word) : (d.tideTo c).held = d.held := d.tideTo_keeps Dev.held (fun _ _ => rfl) c
@[simp] theorem Dev.tideTo_cycle (c : Word) : (d.tideTo c).cycle = d.cycle := d.tideTo_keeps Dev.cycle (fun _ _ => rfl) c
@[simp] theorem Dev.tideTo_ptime (c : Word) : (d.tideTo c).ptime = d.ptime := d.tideTo_keeps Dev.ptime (fun _ _ => rfl) c
@[simp] theorem Dev.tideTo_capInForce (c : Word) : (d.tideTo c).capInForce = d.capInForce := d.tideTo_keeps Dev.capInForce (fun _ _ => rfl) c
@[simp] theorem Dev.tideTo_mem (c : Word) : (d.tideTo c).mem = d.mem := d.tideTo_keeps Dev.mem (fun _ _ => rfl) c
@[simp] theorem Dev.tideTo_far (c : Word) : (d.tideTo c).far = d.far := d.tideTo_keeps Dev.far (fun _ _ => rfl) c
@[simp] theorem Dev.tideTo_badWords (c : Word) : (d.tideTo c).badWords = d.badWords := d.tideTo_keeps Dev.badWords (fun _ _ => rfl) c
@[simp] theorem Dev.tideTo_cache (c : Word) : (d.tideTo c).cache = d.cache := d.tideTo_keeps Dev.cache (fun _ _ => rfl) c
@[simp] theorem Dev.tideTo_cores (c : Word) : (d.tideTo c).cores = d.cores := d.tideTo_keeps Dev.cores (fun _ _ => rfl) c
@[simp] theorem Dev.tideTo_ccs (c : Word) : (d.tideTo c).ccs = d.ccs := d.tideTo_keeps Dev.ccs (fun _ _ => rfl) c
@[simp] theorem Dev.tideTo_queues (c : Word) : (d.tideTo c).queues = d.queues := d.tideTo_keeps Dev.queues (fun _ _ => rfl) c
@[simp] theorem Dev.tideTo_fabric (c : Word) : (d.tideTo c).fabric = d.fabric := d.tideTo_keeps Dev.fabric (fun _ _ => rfl) c
@[simp] theorem Dev.tideTo_plants (c : Word) : (d.tideTo c).plants = d.plants := d.tideTo_keeps Dev.plants (fun _ _ => rfl) c
@[simp] theorem Dev.tideTo_hostLink (c : Word) : (d.tideTo c).hostLink = d.hostLink := d.tideTo_keeps Dev.hostLink (fun _ _ => rfl) c
@[simp] theorem Dev.tideTo_perst (c : Word) : (d.tideTo c).perst = d.perst := d.tideTo_keeps Dev.perst (fun _ _ => rfl) c
@[simp] theorem Dev.tideTo_bias (c : Word) : (d.tideTo c).bias = d.bias := d.tideTo_keeps Dev.bias (fun _ _ => rfl) c
@[simp] theorem Dev.tideTo_bcast (c : Word) : (d.tideTo c).bcast = d.bcast := d.tideTo_keeps Dev.bcast (fun _ _ => rfl) c
@[simp] theorem Dev.tideTo_board (c : Word) : (d.tideTo c).board = d.board := d.tideTo_keeps Dev.board (fun _ _ => rfl) c
@[simp] theorem Dev.tideTo_boot (c : Word) : (d.tideTo c).boot = d.boot := d.tideTo_keeps Dev.boot (fun _ _ => rfl) c
@[simp] theorem Dev.tideTo_ownerKey (c : Word) : (d.tideTo c).ownerKey = d.ownerKey := d.tideTo_keeps Dev.ownerKey (fun _ _ => rfl) c
@[simp] theorem Dev.tideTo_topq (c : Word) : (d.tideTo c).topq = d.topq := d.tideTo_keeps Dev.topq (fun _ _ => rfl) c
@[simp] theorem Dev.tideTo_leaf (c : Word) : (d.tideTo c).leaf = d.leaf := d.tideTo_keeps Dev.leaf (fun _ _ => rfl) c
@[simp] theorem Dev.tideTo_custQ (c : Word) : (d.tideTo c).custQ = d.custQ := d.tideTo_keeps Dev.custQ (fun _ _ => rfl) c
@[simp] theorem Dev.tideTo_custLost (c : Word) : (d.tideTo c).custLost = d.custLost := d.tideTo_keeps Dev.custLost (fun _ _ => rfl) c
@[simp] theorem Dev.tideTo_log (c : Word) : (d.tideTo c).log = d.log := d.tideTo_keeps Dev.log (fun _ _ => rfl) c
@[simp] theorem Dev.tideTo_cmpRun (c : Word) : (d.tideTo c).cmpRun = d.cmpRun := d.tideTo_keeps Dev.cmpRun (fun _ _ => rfl) c
@[simp] theorem Dev.tideTo_escal (c : Word) : (d.tideTo c).escal = d.escal := d.tideTo_keeps Dev.escal (fun _ _ => rfl) c
@[simp] theorem Dev.tideTo_resetCause (c : Word) : (d.tideTo c).resetCause = d.resetCause := d.tideTo_keeps Dev.resetCause (fun _ _ => rfl) c
@[simp] theorem Dev.tideTo_corr (c : Word) : (d.tideTo c).corr = d.corr := d.tideTo_keeps Dev.corr (fun _ _ => rfl) c
@[simp] theorem Dev.tideTo_jhold (c : Word) : (d.tideTo c).jhold = d.jhold := d.tideTo_keeps Dev.jhold (fun _ _ => rfl) c
@[simp] theorem Dev.tideTo_faultN (c : Word) : (d.tideTo c).faultN = d.faultN := d.tideTo_keeps Dev.faultN (fun _ _ => rfl) c
@[simp] theorem Dev.tideTo_pwrGood (c : Word) : (d.tideTo c).pwrGood = d.pwrGood := d.tideTo_keeps Dev.pwrGood (fun _ _ => rfl) c
@[simp] theorem Dev.tideTo_supplyWarnN (c : Word) : (d.tideTo c).supplyWarnN = d.supplyWarnN := d.tideTo_keeps Dev.supplyWarnN (fun _ _ => rfl) c
@[simp] theorem Dev.tideTo_stackT (c : Word) : (d.tideTo c).stackT = d.stackT := d.tideTo_keeps Dev.stackT (fun _ _ => rfl) c
@[simp] theorem Dev.tideTo_junction (c : Word) : (d.tideTo c).junction = d.junction := d.tideTo_keeps Dev.junction (fun _ _ => rfl) c
@[simp] theorem Dev.tideTo_recd (c : Word) : (d.tideTo c).recd = d.recd := d.tideTo_keeps Dev.recd (fun _ _ => rfl) c
@[simp] theorem Dev.tideTo_snap (c : Word) : (d.tideTo c).snap = d.snap := d.tideTo_keeps Dev.snap (fun _ _ => rfl) c
@[simp] theorem Dev.tideTo_folio (c : Word) : (d.tideTo c).folio = d.folio := d.tideTo_keeps Dev.folio (fun _ _ => rfl) c
@[simp] theorem Dev.tideTo_mgmt (c : Word) : (d.tideTo c).mgmt = d.mgmt := d.tideTo_keeps Dev.mgmt (fun _ _ => rfl) c
@[simp] theorem Dev.tideTo_out (c : Word) : (d.tideTo c).out = d.out := d.tideTo_keeps Dev.out (fun _ _ => rfl) c
@[simp] theorem Dev.tideTo_free (c : Word) : (d.tideTo c).free = d.free := d.tideTo_keeps Dev.free (fun _ _ => rfl) c
@[simp] theorem Dev.elapse_held (n : Nat) : (d.elapse n).held = d.held :=
  d.elapse_keeps Dev.held (fun _ _ _ => rfl) (fun _ _ => rfl) (fun _ _ _ => rfl) n
@[simp] theorem Dev.elapse_capInForce (n : Nat) : (d.elapse n).capInForce = d.capInForce :=
  d.elapse_keeps Dev.capInForce (fun _ _ _ => rfl) (fun _ _ => rfl) (fun _ _ _ => rfl) n
@[simp] theorem Dev.elapse_mem (n : Nat) : (d.elapse n).mem = d.mem :=
  d.elapse_keeps Dev.mem (fun _ _ _ => rfl) (fun _ _ => rfl) (fun _ _ _ => rfl) n
@[simp] theorem Dev.elapse_far (n : Nat) : (d.elapse n).far = d.far :=
  d.elapse_keeps Dev.far (fun _ _ _ => rfl) (fun _ _ => rfl) (fun _ _ _ => rfl) n
@[simp] theorem Dev.elapse_badWords (n : Nat) : (d.elapse n).badWords = d.badWords :=
  d.elapse_keeps Dev.badWords (fun _ _ _ => rfl) (fun _ _ => rfl) (fun _ _ _ => rfl) n
@[simp] theorem Dev.elapse_cache (n : Nat) : (d.elapse n).cache = d.cache :=
  d.elapse_keeps Dev.cache (fun _ _ _ => rfl) (fun _ _ => rfl) (fun _ _ _ => rfl) n
@[simp] theorem Dev.elapse_cores (n : Nat) : (d.elapse n).cores = d.cores :=
  d.elapse_keeps Dev.cores (fun _ _ _ => rfl) (fun _ _ => rfl) (fun _ _ _ => rfl) n
@[simp] theorem Dev.elapse_ccs (n : Nat) : (d.elapse n).ccs = d.ccs :=
  d.elapse_keeps Dev.ccs (fun _ _ _ => rfl) (fun _ _ => rfl) (fun _ _ _ => rfl) n
@[simp] theorem Dev.elapse_queues (n : Nat) : (d.elapse n).queues = d.queues :=
  d.elapse_keeps Dev.queues (fun _ _ _ => rfl) (fun _ _ => rfl) (fun _ _ _ => rfl) n
@[simp] theorem Dev.elapse_fabric (n : Nat) : (d.elapse n).fabric = d.fabric :=
  d.elapse_keeps Dev.fabric (fun _ _ _ => rfl) (fun _ _ => rfl) (fun _ _ _ => rfl) n
@[simp] theorem Dev.elapse_plants (n : Nat) : (d.elapse n).plants = d.plants :=
  d.elapse_keeps Dev.plants (fun _ _ _ => rfl) (fun _ _ => rfl) (fun _ _ _ => rfl) n
@[simp] theorem Dev.elapse_hostLink (n : Nat) : (d.elapse n).hostLink = d.hostLink :=
  d.elapse_keeps Dev.hostLink (fun _ _ _ => rfl) (fun _ _ => rfl) (fun _ _ _ => rfl) n
@[simp] theorem Dev.elapse_perst (n : Nat) : (d.elapse n).perst = d.perst :=
  d.elapse_keeps Dev.perst (fun _ _ _ => rfl) (fun _ _ => rfl) (fun _ _ _ => rfl) n
@[simp] theorem Dev.elapse_bias (n : Nat) : (d.elapse n).bias = d.bias :=
  d.elapse_keeps Dev.bias (fun _ _ _ => rfl) (fun _ _ => rfl) (fun _ _ _ => rfl) n
@[simp] theorem Dev.elapse_bcast (n : Nat) : (d.elapse n).bcast = d.bcast :=
  d.elapse_keeps Dev.bcast (fun _ _ _ => rfl) (fun _ _ => rfl) (fun _ _ _ => rfl) n
@[simp] theorem Dev.elapse_board (n : Nat) : (d.elapse n).board = d.board :=
  d.elapse_keeps Dev.board (fun _ _ _ => rfl) (fun _ _ => rfl) (fun _ _ _ => rfl) n
@[simp] theorem Dev.elapse_boot (n : Nat) : (d.elapse n).boot = d.boot :=
  d.elapse_keeps Dev.boot (fun _ _ _ => rfl) (fun _ _ => rfl) (fun _ _ _ => rfl) n
@[simp] theorem Dev.elapse_ownerKey (n : Nat) : (d.elapse n).ownerKey = d.ownerKey :=
  d.elapse_keeps Dev.ownerKey (fun _ _ _ => rfl) (fun _ _ => rfl) (fun _ _ _ => rfl) n
@[simp] theorem Dev.elapse_topq (n : Nat) : (d.elapse n).topq = d.topq :=
  d.elapse_keeps Dev.topq (fun _ _ _ => rfl) (fun _ _ => rfl) (fun _ _ _ => rfl) n
@[simp] theorem Dev.elapse_leaf (n : Nat) : (d.elapse n).leaf = d.leaf :=
  d.elapse_keeps Dev.leaf (fun _ _ _ => rfl) (fun _ _ => rfl) (fun _ _ _ => rfl) n
@[simp] theorem Dev.elapse_custQ (n : Nat) : (d.elapse n).custQ = d.custQ :=
  d.elapse_keeps Dev.custQ (fun _ _ _ => rfl) (fun _ _ => rfl) (fun _ _ _ => rfl) n
@[simp] theorem Dev.elapse_custLost (n : Nat) : (d.elapse n).custLost = d.custLost :=
  d.elapse_keeps Dev.custLost (fun _ _ _ => rfl) (fun _ _ => rfl) (fun _ _ _ => rfl) n
@[simp] theorem Dev.elapse_log (n : Nat) : (d.elapse n).log = d.log :=
  d.elapse_keeps Dev.log (fun _ _ _ => rfl) (fun _ _ => rfl) (fun _ _ _ => rfl) n
@[simp] theorem Dev.elapse_cmpRun (n : Nat) : (d.elapse n).cmpRun = d.cmpRun :=
  d.elapse_keeps Dev.cmpRun (fun _ _ _ => rfl) (fun _ _ => rfl) (fun _ _ _ => rfl) n
@[simp] theorem Dev.elapse_escal (n : Nat) : (d.elapse n).escal = d.escal :=
  d.elapse_keeps Dev.escal (fun _ _ _ => rfl) (fun _ _ => rfl) (fun _ _ _ => rfl) n
@[simp] theorem Dev.elapse_resetCause (n : Nat) : (d.elapse n).resetCause = d.resetCause :=
  d.elapse_keeps Dev.resetCause (fun _ _ _ => rfl) (fun _ _ => rfl) (fun _ _ _ => rfl) n
@[simp] theorem Dev.elapse_corr (n : Nat) : (d.elapse n).corr = d.corr :=
  d.elapse_keeps Dev.corr (fun _ _ _ => rfl) (fun _ _ => rfl) (fun _ _ _ => rfl) n
@[simp] theorem Dev.elapse_jhold (n : Nat) : (d.elapse n).jhold = d.jhold :=
  d.elapse_keeps Dev.jhold (fun _ _ _ => rfl) (fun _ _ => rfl) (fun _ _ _ => rfl) n
@[simp] theorem Dev.elapse_faultN (n : Nat) : (d.elapse n).faultN = d.faultN :=
  d.elapse_keeps Dev.faultN (fun _ _ _ => rfl) (fun _ _ => rfl) (fun _ _ _ => rfl) n
@[simp] theorem Dev.elapse_pwrGood (n : Nat) : (d.elapse n).pwrGood = d.pwrGood :=
  d.elapse_keeps Dev.pwrGood (fun _ _ _ => rfl) (fun _ _ => rfl) (fun _ _ _ => rfl) n
@[simp] theorem Dev.elapse_supplyWarnN (n : Nat) : (d.elapse n).supplyWarnN = d.supplyWarnN :=
  d.elapse_keeps Dev.supplyWarnN (fun _ _ _ => rfl) (fun _ _ => rfl) (fun _ _ _ => rfl) n
@[simp] theorem Dev.elapse_stackT (n : Nat) : (d.elapse n).stackT = d.stackT :=
  d.elapse_keeps Dev.stackT (fun _ _ _ => rfl) (fun _ _ => rfl) (fun _ _ _ => rfl) n
@[simp] theorem Dev.elapse_junction (n : Nat) : (d.elapse n).junction = d.junction :=
  d.elapse_keeps Dev.junction (fun _ _ _ => rfl) (fun _ _ => rfl) (fun _ _ _ => rfl) n
@[simp] theorem Dev.elapse_recd (n : Nat) : (d.elapse n).recd = d.recd :=
  d.elapse_keeps Dev.recd (fun _ _ _ => rfl) (fun _ _ => rfl) (fun _ _ _ => rfl) n
@[simp] theorem Dev.elapse_snap (n : Nat) : (d.elapse n).snap = d.snap :=
  d.elapse_keeps Dev.snap (fun _ _ _ => rfl) (fun _ _ => rfl) (fun _ _ _ => rfl) n
@[simp] theorem Dev.elapse_folio (n : Nat) : (d.elapse n).folio = d.folio :=
  d.elapse_keeps Dev.folio (fun _ _ _ => rfl) (fun _ _ => rfl) (fun _ _ _ => rfl) n
@[simp] theorem Dev.elapse_mgmt (n : Nat) : (d.elapse n).mgmt = d.mgmt :=
  d.elapse_keeps Dev.mgmt (fun _ _ _ => rfl) (fun _ _ => rfl) (fun _ _ _ => rfl) n
@[simp] theorem Dev.elapse_out (n : Nat) : (d.elapse n).out = d.out :=
  d.elapse_keeps Dev.out (fun _ _ _ => rfl) (fun _ _ => rfl) (fun _ _ _ => rfl) n
@[simp] theorem Dev.elapse_free (n : Nat) : (d.elapse n).free = d.free :=
  d.elapse_keeps Dev.free (fun _ _ _ => rfl) (fun _ _ => rfl) (fun _ _ _ => rfl) n
@[simp] theorem Dev.tideTo_rd (c : Word) (r : Reg) : (d.tideTo c).rd r = d.rd r := by simp [Dev.rd]
theorem Dev.pass_cycle (n : Nat) : (d.pass n).cycle = d.cycle + n := by
  unfold Dev.pass
  extract_lets adj t e m e2
  have h2 : e2.cycle = d.cycle + n := by
    simp only [e2]; split
    · exact (Dev.countTg_cycle ..).trans rfl
    · rfl
  split
  · rw [Dev.tideTo_cycle]; exact h2
  · split
    · split
      · exact h2
      · rw [Dev.tideTo_cycle]; exact h2
    · exact h2
theorem Dev.pass_rd (n : Nat) {r : Reg} (h : ∀ j, r ≠ .tgPmcValue j) : (d.pass n).rd r = d.rd r := by
  unfold Dev.pass
  extract_lets adj t e m e2
  have h2 : e2.rd r = d.rd r := by
    simp only [e2]; split
    · exact (Dev.countTg_rd _ _ _ h).trans rfl
    · rfl
  split
  · rw [Dev.tideTo_rd]; exact h2
  · split
    · split
      · exact h2
      · rw [Dev.tideTo_rd]; exact h2
    · exact h2
theorem Dev.pass_pass_cycle (k n : Nat) (h : 0 < k ∧ k ≤ n) : ((d.pass (k - 1)).pass (n - (k - 1))).cycle = d.cycle + n := by
  rw [Dev.pass_cycle, Dev.pass_cycle, Nat.add_assoc, Nat.add_sub_cancel' (Nat.le_trans (Nat.sub_le k 1) h.2)]
@[simp] theorem Dev.elapse_cycle (n : Nat) : (d.elapse n).cycle = d.cycle + n := by
  unfold Dev.elapse
  extract_lets k
  split
  · exact d.pass_pass_cycle k n (by assumption)
  · exact d.pass_cycle n
theorem Dev.elapse_rd (n : Nat) {r : Reg} (h : ∀ j, r ≠ .tgPmcValue j) : (d.elapse n).rd r = d.rd r := by
  unfold Dev.elapse; dsimp only; split
  · rw [Dev.pass_rd _ _ h, Dev.pass_rd _ _ h]
  · rw [Dev.pass_rd _ _ h]

end Sys2Proof.Machine
end

