-- ==== Sys2Proof/Laws/Memory.lean ====
section
/-! SUPPORT. The laws of the sparse memory (Machine/Bits.lean): a byte reads what was last put at it, no other byte changes, and every
operation keeps the canonical form. -/

namespace Sys2Proof.Machine

/-- No address below the bound of a canonical memory is listed. -/
theorem Mem.get_below {lo : Nat} {m : List Host.Cell} (h : Mem.wfFrom lo m = true) {a : Nat} (ha : a < lo) :
    Mem.get m a = Mem.blank := by
  cases m with
  | nil => rfl
  | cons c t =>
    obtain ⟨a', b⟩ := c
    simp [Mem.wfFrom] at h
    have h1 : ¬ a = a' := by omega
    have h2 : a < a' := by omega
    simp [Mem.get, h1, h2]

/-- A canonical memory stays canonical for a lower bound. -/
theorem Mem.wfFrom_mono {lo lo' : Nat} {m : List Host.Cell} (h : Mem.wfFrom lo m = true) (hl : lo' ≤ lo) :
    Mem.wfFrom lo' m = true := by
  cases m with
  | nil => rfl
  | cons c t =>
    obtain ⟨a', b⟩ := c
    simp [Mem.wfFrom] at h ⊢
    exact ⟨⟨by omega, h.1.2⟩, h.2⟩

/-- A put keeps the canonical form above a bound. -/
theorem Mem.put_wfFrom {lo : Nat} (a : Nat) (b : Byte) {m : List Host.Cell} (h : Mem.wfFrom lo m = true) (ha : lo ≤ a) :
    Mem.wfFrom lo (Mem.put a b m) = true := by
  induction m generalizing lo with
  | nil => by_cases hb : b = Mem.blank <;> simp [Mem.put, hb, Mem.wfFrom, ha]
  | cons c t ih =>
    obtain ⟨a', b'⟩ := c
    have h' := h
    simp [Mem.wfFrom] at h
    by_cases h1 : a = a'
    · subst h1
      by_cases hb : b = Mem.blank
      · simp [Mem.put, hb]; exact Mem.wfFrom_mono h.2 (by omega)
      · simp [Mem.put, hb, Mem.wfFrom, ha, h.2]
    · by_cases h2 : a < a'
      · by_cases hb : b = Mem.blank
        · simpa [Mem.put, h1, h2, hb] using h'
        · simp [Mem.put, h1, h2, hb, Mem.wfFrom, ha, h.1.2, h.2] <;> omega
      · simp [Mem.put, h1, h2, Mem.wfFrom, h.1]
        exact ih h.2 (by omega)

/-- A put keeps the canonical form. -/
theorem Mem.put_wf (a : Nat) (b : Byte) {m : List Host.Cell} (h : Memory.wf m = true) : Memory.wf (Mem.put a b m) = true :=
  Mem.put_wfFrom a b h (Nat.zero_le a)

/-- A write of bytes keeps the canonical form. -/
theorem Mem.write_wf (a : Nat) (bs : List Byte) {m : List Host.Cell} (h : Memory.wf m = true) :
    Memory.wf (Mem.write a bs m) = true := by
  induction bs generalizing a m with
  | nil => exact h
  | cons b t ih => exact ih (a + 1) (Mem.put_wf a b h)

/-- Reading any address of a canonical memory after a put. -/
theorem Mem.get_put {lo : Nat} (a j : Nat) (b : Byte) {m : List Host.Cell} (h : Mem.wfFrom lo m = true) :
    Mem.get (Mem.put a b m) j = if j = a then b else Mem.get m j := by
  induction m generalizing lo with
  | nil =>
    by_cases hb : b = Mem.blank <;> by_cases hj : j = a <;> simp [Mem.put, Mem.get, hb, hj]
  | cons c t ih =>
    obtain ⟨a', b'⟩ := c
    simp [Mem.wfFrom] at h
    by_cases h1 : a = a'
    · subst h1
      by_cases hb : b = Mem.blank
      · by_cases hj : j = a
        · subst hj
          simpa [Mem.put, hb] using Mem.get_below h.2 (by omega)
        · by_cases hl : j < a
          · simpa [Mem.put, Mem.get, hb, hj, hl] using Mem.get_below h.2 (by omega)
          · simp [Mem.put, Mem.get, hb, hj, hl]
      · by_cases hj : j = a <;> simp [Mem.put, Mem.get, hb, hj]
    · by_cases h2 : a < a'
      · by_cases hb : b = Mem.blank
        · by_cases hj : j = a
          · subst hj; simp [Mem.put, Mem.get, h1, h2, hb]
          · simp [Mem.put, h1, h2, hb, hj]
        · by_cases hj : j = a
          · subst hj; simp [Mem.put, Mem.get, h1, h2, hb]
          · by_cases hl : j < a
            · have h3 : ¬ j = a' := by omega
              have h4 : j < a' := by omega
              simp [Mem.put, Mem.get, h1, h2, hb, hj, hl, h3, h4]
            · simp [Mem.put, Mem.get, h1, h2, hb, hj, hl]
      · by_cases h3 : j = a'
        · have h4 : ¬ j = a := by omega
          simp [Mem.put, Mem.get, h1, h2, h3]; omega
        · by_cases h4 : j < a'
          · have h5 : ¬ j = a := by omega
            simp [Mem.put, Mem.get, h1, h2, h3, h4, h5]
          · simp [Mem.put, Mem.get, h1, h2, h3, h4]
            exact ih h.2

/-- Reading any address of a canonical memory after a write of bytes. -/
theorem Mem.get_write (a j : Nat) (bs : List Byte) {m : List Host.Cell} (h : Memory.wf m = true) :
    Mem.get (Mem.write a bs m) j = if a ≤ j ∧ j < a + bs.length then bs.getD (j - a) 0 else Mem.get m j := by
  induction bs generalizing a m with
  | nil => simp [Mem.write] <;> omega
  | cons b t ih =>
    rw [Mem.write, ih (a + 1) (Mem.put_wf a b h)]
    by_cases h1 : j = a
    · subst h1
      have h2 : ¬ (j + 1 ≤ j ∧ j < j + 1 + t.length) := by omega
      have h3 : j ≤ j ∧ j < j + (b :: t).length := by simp
      rw [if_neg h2, if_pos h3, Mem.get_put j j b h]
      simp
    · by_cases h2 : a + 1 ≤ j ∧ j < a + 1 + t.length
      · have h3 : a ≤ j ∧ j < a + (b :: t).length := by simp; omega
        rw [if_pos h2, if_pos h3]
        obtain ⟨k, hk⟩ : ∃ k, j - a = k + 1 := ⟨j - a - 1, by omega⟩
        have : j - (a + 1) = k := by omega
        rw [hk, this]; simp
      · have h3 : ¬ (a ≤ j ∧ j < a + (b :: t).length) := by simp; omega
        rw [if_neg h2, if_neg h3, Mem.get_put a j b h, if_neg h1]

/-- A write leaves every byte outside it as it was. -/
theorem Mem.get_write_outside (a j : Nat) (bs : List Byte) {m : List Host.Cell} (h : Memory.wf m = true)
    (ho : j < a ∨ a + bs.length ≤ j) : Mem.get (Mem.write a bs m) j = Mem.get m j := by
  rw [Mem.get_write a j bs h, if_neg (by omega)]

/-- A filter keeps the canonical form above a bound. -/
theorem Mem.filter_wfFrom (p : Host.Cell → Bool) {lo : Nat} {m : List Host.Cell} (h : Mem.wfFrom lo m = true) :
    Mem.wfFrom lo (m.filter p) = true := by
  induction m generalizing lo with
  | nil => rfl
  | cons c t ih =>
    obtain ⟨a', b'⟩ := c
    simp [Mem.wfFrom] at h
    by_cases hp : p (a', b') = true
    · rw [List.filter_cons_of_pos hp]; simp [Mem.wfFrom, h.1]; exact ih h.2
    · rw [List.filter_cons_of_neg hp]
      exact Mem.wfFrom_mono (ih h.2) (by omega)

/-- Clearing a range keeps the canonical form. -/
theorem Mem.clear_wf (a n : Nat) {m : List Host.Cell} (h : Memory.wf m = true) : Memory.wf (Mem.clear m a n) = true :=
  Mem.filter_wfFrom _ h

/-- Pasting cells over a range keeps the canonical form. -/
theorem Mem.paste_wf (a n : Nat) (cells : List Host.Cell) {m : List Host.Cell} (h : Memory.wf m = true) :
    Memory.wf (Mem.paste m a n cells) = true := by
  unfold Mem.paste
  have h0 := Mem.clear_wf a n h
  generalize Mem.clear m a n = m' at h0
  induction cells generalizing m' with
  | nil => exact h0
  | cons c t ih => exact ih _ (Mem.put_wf _ _ h0)

/-- The exclusive or of two ranges keeps the canonical form. -/
theorem Mem.xor_wf (cells : List Host.Cell) {m : List Host.Cell} (h : Memory.wf m = true) :
    Memory.wf (Mem.xor m cells) = true := by
  unfold Mem.xor
  have key : ∀ (l m' : List Host.Cell), Memory.wf m' = true →
      Memory.wf (l.foldl (fun m c => Mem.put c.1 (Mem.get m c.1 ^^^ c.2) m) m') = true := by
    intro l
    induction l with
    | nil => intro m' h; exact h
    | cons c t ih => intro m' h; exact ih _ (Mem.put_wf _ _ h)
  exact key cells m h

/-- The empty memory is canonical. -/
theorem Memory.nil_wf : Memory.wf [] = true := rfl

end Sys2Proof.Machine
end

