-- ==== Sys2Proof/Laws/Image.lean ====
section
/-! SUPPORT. Images that verify and load (15), by construction: an HSS key made from a signature so that it verifies, header and section
checksums, and records for every register that an image must set. The tests take their witnesses for a load that succeeds from here. -/

namespace Sys2Proof.Laws.Image

open Sys2Proof.Machine

/-! ### Images that verify, by construction (15) -/

theorem length_bytesOf (n w : Nat) : (bytesOf n w).length = n := by
  induction n generalizing w with
  | zero => rfl
  | succ n ih => simp [bytesOf, ih]

theorem ofBytes_bytesOf (n w : Nat) : ofBytes (bytesOf n w) = w % 256 ^ n := by
  induction n generalizing w with
  | zero => simp [bytesOf, ofBytes, Nat.mod_one]
  | succ n ih =>
    have : (BitVec.ofNat 8 (w % 256)).toNat = w % 256 := by simp
    simp only [bytesOf, ofBytes, ih, this, Nat.pow_succ', Nat.mod_mul]

theorem length_shaRounds (l : List (BitVec 32)) : ∀ s : ShaWork, s.top.length = 4 → s.low.length = 4 →
    (l.foldl ShaWork.round s).top.length = 4 ∧ (l.foldl ShaWork.round s).low.length = 4 := by
  induction l with
  | nil => intro s h h'; exact ⟨h, h'⟩
  | cons k t ih => intro s _ _; exact ih _ rfl rfl

theorem length_shaH : shaH.length = 8 := by decide +kernel

theorem length_shaBlocks (n : Nat) : ∀ (h : List (BitVec 32)) (l : List Byte), h.length = 8 → (shaBlocks n h l).length = 8 := by
  induction n with
  | zero => intro h l hh; exact hh
  | succ n ih =>
    intro h l hh
    refine ih _ _ ?_
    have hr := length_shaRounds shaK { win := blockWords (l.take 64), top := h.take 4, low := h.drop 4 } (by simp [hh]) (by simp [hh])
    simp [shaBlock, hr, hh]

theorem length_sha256 (l : List Byte) : (sha256 l).length = 32 := by
  have h4 (m : List (BitVec 32)) : (m.flatMap (fun w => beBytes 4 w.toNat)).length = 4 * m.length := by
    induction m with
    | nil => rfl
    | cons w t ih =>
      rw [List.flatMap_cons, List.length_append, ih, beBytes, List.length_reverse, length_bytesOf, List.length_cons]; omega
  rw [sha256, h4, length_shaBlocks _ shaH _ length_shaH]

/-- An HSS signature of one level, H10, with every digit's element zero; the root that makes it one over `dig`, and its key. -/
def sigZ : List Byte := zeros 4 ++ ([0, 0, 0, 3] ++ (zeros 2176 ++ ([0, 0, 0, 6] ++ zeros 320)))
def rootZ (dig : List Byte) : List Byte :=
  lmsClimb (zeros 16) 10 (2 ^ 10 + 0) (sigZ.drop 2188) (sha256 (zeros 16 ++ beBytes 4 (2 ^ 10 + 0) ++ beBytes 2 0x8282 ++
    otsCandidate (zeros 16) 0 (sigZ.drop 4) dig))
def keyZ (dig : List Byte) : List Byte := [0, 0, 0, 1, 0, 0, 0, 6, 0, 0, 0, 3] ++ (zeros 16 ++ rootZ dig)

theorem length_rootZ (dig : List Byte) : (rootZ dig).length = 32 := by
  have (n : Nat) : ∀ (node : Nat) (p t : List Byte), t.length = 32 → (lmsClimb (zeros 16) n node p t).length = 32 := by
    induction n with
    | zero => intro _ _ _ h; exact h
    | succ n ih => intro node p t h; exact ih _ _ _ (length_sha256 _)
  exact this _ _ _ _ (length_sha256 _)

theorem hssVerify_keyZ (dig : List Byte) : hssVerify (keyZ dig) ([0, 0, 0, 0] ++ sigZ) dig = true := by
  have hl : (keyZ dig).length = 60 := by simp [keyZ, length_rootZ, zeros]
  have h0 : ∀ r : List Byte, beNum ([0, 0, 0, 1, 0, 0, 0, 6, 0, 0, 0, 3] ++ (zeros 16 ++ r)) 0 4 = 1 := fun _ => rfl
  have hd : ∀ r : List Byte, ([0, 0, 0, 1, 0, 0, 0, 6, 0, 0, 0, 3] ++ (zeros 16 ++ r)).drop 4 = [0, 0, 0, 6, 0, 0, 0, 3] ++ (zeros 16 ++ r) := fun _ => rfl
  have h1 : ∀ r : List Byte, beNum ([0, 0, 0, 6, 0, 0, 0, 3] ++ (zeros 16 ++ r)) 0 4 = 6 := fun _ => rfl
  have h2 : ∀ r : List Byte, beNum ([0, 0, 0, 6, 0, 0, 0, 3] ++ (zeros 16 ++ r)) 4 4 = 3 := fun _ => rfl
  have h3 : ∀ r : List Byte, (([0, 0, 0, 6, 0, 0, 0, 3] ++ (zeros 16 ++ r)).drop 8).take 16 = zeros 16 := fun _ => rfl
  have h4 : ∀ r : List Byte, ([0, 0, 0, 6, 0, 0, 0, 3] ++ (zeros 16 ++ r)).drop 24 = r := fun _ => rfl
  have s0 : beNum ([0, 0, 0, 0] ++ sigZ) 0 4 = 0 := by decide +kernel
  have s1 : ([0, 0, 0, 0] ++ sigZ).drop 4 = sigZ := rfl
  have g0 : sigZ.length = lmsSigLen 10 := by decide +kernel
  have g1 : beNum sigZ 0 4 = 0 := by decide +kernel
  have g2 : beNum sigZ 4 4 = 3 := by decide +kernel
  have g3 : beNum sigZ 2184 4 = 6 := by decide +kernel
  have hv : lmsVerify ([0, 0, 0, 6, 0, 0, 0, 3] ++ (zeros 16 ++ rootZ dig)) sigZ dig = true := by
    rw [lmsVerify, h1, show lmsHeight 6 = some 10 from rfl]
    simp only [h2, h3, h4, g0, g1, g2, g3, decide_true, Bool.true_and, List.take_of_length_le (Nat.le_of_eq (length_rootZ dig))]
    simp [rootZ]
  simp only [hssVerify, hl, s0, s1]
  rw [keyZ, h0, hd]
  simp only [Nat.sub_self, hssTypesOk, hssLevels, h1, h2, hv]
  rfl

/-- Header bytes 0 to 19 and, with the section table, 24 on, of an image of `n` sections with its signature block at `off`. -/
def imgA (n off : Nat) : List Byte := bytesOf 8 (0x31474D49 + 2 ^ 32 + n * 2 ^ 48) ++ (bytesOf 8 (off + 2624 + off * 2 ^ 32) ++ bytesOf 4 2624)
def imgB (T : List Byte) : List Byte := bytesOf 4 (2 ^ 16) ++ (zeros 228 ++ T)
/-- A section table entry. -/
def imgT (t off len mask : Nat) (s : List Byte) : List Byte := bytesOf 8 (t + 2 ^ 16 + off * 2 ^ 32) ++ (bytesOf 4 len ++ (bytesOf 4 (crc32c s) ++
  (bytesOf 4 (mask * 2 ^ 16) ++ zeros 12)))
def imgPre (n off : Nat) (T body : List Byte) : List Byte := imgA n off ++ (bytesOf 4 (crc32c (imgA n off ++ zeros 4 ++ imgB T)) ++ (imgB T ++ body))
def img (n off : Nat) (T body : List Byte) : List Byte :=
  let p := imgPre n off T body
  p ++ (keyZ (sha256 p) ++ ([0, 0, 0, 0] ++ sigZ ++ zeros 52))

theorem length_zeros (n : Nat) : (zeros n).length = n := List.length_replicate

theorem crc32c_lt (l : List Byte) : crc32c l < 256 ^ 4 := BitVec.isLt _

theorem length_imgA (n off : Nat) : (imgA n off).length = 20 := by simp [imgA, length_bytesOf]
theorem length_imgPre (n off : Nat) (T body : List Byte) : (imgPre n off T body).length = 256 + T.length + body.length := by
  simp only [imgPre, length_imgA, imgB, length_bytesOf, length_zeros, List.length_append]; omega
theorem length_sigZ : sigZ.length = 2508 := by decide +kernel
theorem length_keyZ (dig : List Byte) : (keyZ dig).length = 60 := by simp [keyZ, length_rootZ, zeros]
theorem length_img (n off : Nat) (T body : List Byte) : (img n off T body).length = 256 + T.length + body.length + 2624 := by
  simp only [img, length_imgPre, length_keyZ, length_sigZ, length_zeros, List.length_append, List.length_cons, List.length_nil]

theorem physRead_at (d : Dev) (a : Nat) (b : List Byte) (n : Nat) (hm : d.mem = Mem.write a b []) (ha : a < stackSize)
    (hn : n ≤ b.length) : d.physRead a n = b.take n := by
  have hl : d.locate a = .stack a := by rw [Dev.locate, if_pos ha]
  rw [Dev.physRead, hl]
  simp only [Dev.memRead, addrs, List.map_map]
  apply List.ext_getElem
  · simp; omega
  · intro i h1 h2
    simp at h1 h2
    simp only [List.getElem_map, List.getElem_range, Function.comp_apply, Dev.memByte, hm, List.getElem_take]
    rw [Mem.get_write a (a + i) b Memory.nil_wf, if_pos (by omega), Nat.add_sub_cancel_left, List.getD_eq_getElem?_getD, List.getElem?_eq_getElem (by omega)]
    rfl

theorem hcrc_img (n off : Nat) (T body : List Byte) (hT : T.length = 32 * n) (h6 : numAt (img n off T body) 6 2 = n) :
    crc32c ((img n off T body).take 20 ++ zeros 4 ++ ((img n off T body).take (256 + 32 * n)).drop 24) = numAt (img n off T body) 20 4 := by
  have hB : (imgB T).length = 232 + 32 * n := by simp only [imgB, length_bytesOf, length_zeros, List.length_append, hT]; omega
  have e : img n off T body = imgA n off ++ (bytesOf 4 (crc32c (imgA n off ++ zeros 4 ++ imgB T)) ++ (imgB T ++ (body ++
      (keyZ (sha256 (imgPre n off T body)) ++ ([0, 0, 0, 0] ++ sigZ ++ zeros 52))))) := by simp only [img, imgPre, List.append_assoc]
  have a1 : (img n off T body).take 20 = imgA n off := by rw [e, List.take_left' (length_imgA n off)]
  have a2 : ((img n off T body).take (256 + 32 * n)).drop 24 = imgB T := by
    rw [List.drop_take, show 256 + 32 * n - 24 = 232 + 32 * n by omega, e, show (24 : Nat) = 20 + 4 from rfl, ← List.drop_drop, List.drop_left' (length_imgA n off), List.drop_left' (length_bytesOf 4 _), List.take_left' hB]
  have a3 : numAt (img n off T body) 20 4 = crc32c (imgA n off ++ zeros 4 ++ imgB T) := by
    rw [numAt, e, List.drop_left' (length_imgA n off), List.take_left' (length_bytesOf 4 _), ofBytes_bytesOf, Nat.mod_eq_of_lt (crc32c_lt _)]
  rw [a1, a2, a3]

theorem imgAuth_img (d : Dev) (n off : Nat) (T body : List Byte) (hl : 256 + T.length + body.length = off)
    (h12 : numAt (img n off T body) 12 4 = off) (h16 : numAt (img n off T body) 16 4 = 2624)
    (hk : d.ownerKey = some (keyZ (sha256 (imgPre n off T body)))) : d.imgAuth (img n off T body) = true := by
  have hp : (imgPre n off T body).length = off := by rw [length_imgPre, hl]
  have d1 : (img n off T body).drop off = keyZ (sha256 (imgPre n off T body)) ++ ([0, 0, 0, 0] ++ sigZ ++ zeros 52) := by rw [img, List.drop_left' hp]
  have d2 : (img n off T body).take off = imgPre n off T body := by rw [img, List.take_left' hp]
  have g : hssSigLen (beNum ([0, 0, 0, 0] ++ sigZ ++ zeros 52) 0 4) (([0, 0, 0, 0] ++ sigZ ++ zeros 52).drop 4) = some 2508 := by decide +kernel
  have t : ([0, 0, 0, 0] ++ sigZ ++ zeros 52).take (4 + 2508) = [0, 0, 0, 0] ++ sigZ := by
    rw [List.take_left']; simp only [List.length_append, length_sigZ, List.length_cons, List.length_nil]
  rw [Dev.imgAuth]
  simp only [h12, h16, d1, d2, List.take_left' (length_keyZ _), List.drop_left' (length_keyZ _), g, t, hk, hssVerify_keyZ]
  simp

/-- A package whose memory holds only `b`, at GL_IMG_ADDR. -/
structure Holds (d : Dev) (a : Nat) (b : List Byte) : Prop where
  mem : d.mem = Mem.write a b []
  addr : d.imgAddr = a
  bad : d.badWords = []
  fits : a + b.length ≤ stackSize

theorem Holds.unread {d : Dev} {a : Nat} {b : List Byte} (h : Holds d a b) (n : Nat) (hn : n ≤ b.length) : d.imgUnread n = none := by
  have := h.fits
  simp only [Dev.imgUnread, h.addr, Dev.badIn, h.bad, List.filter_nil]
  rw [if_neg (by omega)]

/-- The checks of step 2 that look at no checksum. -/
def plainOk (b : List Byte) (size : Nat) : Bool :=
  (imgHeaderFault (b.take 256)).isNone && numAt (b.take 256) 8 4 == size && (imgSects b).all (fun s => (sectFault b s).isNone) && (imgSects b).all (fun s => !sectOverlap (imgSects b) s) &&
  (firstBreach [(decide (2 < numAt b 24 1), 24), (decide (8 ≤ numAt b 25 1), 25), (numAt b 26 2 == 0 || decide (184 < numAt b 26 2), 26),
    ((firstSet b 120 136).isSome, (firstSet b 120 136).getD 120)]).isNone && numAt b 32 16 == 0 && numAt b 28 4 == 0 && numAt b 26 2 == 1

theorem imgVerify_of (d : Dev) (a : Nat) (b : List Byte) (size : Nat) (h : Holds d a b) (hlen : b.length = size) (h256 : 256 ≤ size)
    (hc : crc32c (b.take 20 ++ zeros 4 ++ (b.take (256 + 32 * numAt b 6 2)).drop 24) = numAt b 20 4) (ha : d.imgAuth b = true)
    (hp : plainOk b size = true) (hs : ∀ s ∈ imgSects b, crc32c (sliceB b s.off s.len) = s.crc) (hu : 0 < d.usable.length) :
    d.imgVerify = .ok b := by
  simp only [plainOk, Bool.and_eq_true, Option.isNone_iff_eq_none, beq_iff_eq, List.all_eq_true, Bool.not_eq_true'] at hp
  obtain ⟨⟨⟨⟨⟨⟨⟨p1, p2⟩, p3⟩, p4⟩, p5⟩, p6⟩, p7⟩, p8⟩ := hp
  have tf : imgTableFault b = none := by
    rw [imgTableFault, firstBreach, hc]
    simp only [bne_self_eq_false, Bool.false_eq_true, if_false]
    rw [p5]
    have f1 : (imgSects b).findSome? (fun s => (sectFault b s).map (fun x => (s.ix, x))) = none := by
      rw [List.findSome?_eq_none_iff]; intro s hs; rw [p3 s hs]; rfl
    have f2 : (imgSects b).find? (sectOverlap (imgSects b)) = none := by
      rw [List.find?_eq_none]; intro s hs; rw [p4 s hs]; decide
    simp only [f1, f2, Option.map_none]
  have fs : (imgSects b).find? (fun s => crc32c (sliceB b s.off s.len) != s.crc) = none := by
    rw [List.find?_eq_none]; intro s hm; rw [hs s hm]; simp
  have fm : d.featMissing b = none := by
    rw [Dev.featMissing, List.find?_eq_none, p6]; intro j _; simp [bit]
  have hlt : a < stackSize := by have := h.fits; omega
  have hr1 : d.physRead a 256 = b.take 256 := physRead_at d a _ 256 h.mem hlt (hlen ▸ h256)
  have hr2 : d.physRead a size = b := by
    rw [physRead_at d a _ size h.mem hlt (Nat.le_of_eq hlen.symm), List.take_of_length_le (Nat.le_of_eq hlen)]
  have hu1 := h.unread 256 (hlen ▸ h256)
  have hu2 := h.unread size (Nat.le_of_eq hlen.symm)
  simp only [Dev.imgVerify, h.addr, hu1, hr1, p1, p2, hu2, hr2, tf, ha, fs, fm, p7, p8, Bool.not_true, Bool.false_eq_true, if_false,
    Nat.not_lt_zero, Nat.not_lt.mpr hu]

theorem drop_flatMap {α : Type} (f : α → List Byte) (k : Nat) (hf : ∀ x, (f x).length = k) (l : List α) (i : Nat) :
    (l.flatMap f).drop (k * i) = (l.drop i).flatMap f := by
  induction i generalizing l with
  | zero => rfl
  | succ i ih =>
    cases l with
    | nil => simp
    | cons x t =>
      rw [List.flatMap_cons, Nat.mul_succ, Nat.add_comm, ← List.drop_drop, List.drop_left' (hf x), ih]; rfl

theorem length_flatMap_const {α : Type} (f : α → List Byte) (k : Nat) (hf : ∀ x, (f x).length = k) (l : List α) : (l.flatMap f).length = k * l.length := by
  induction l with
  | nil => rfl
  | cons x t ih => rw [List.flatMap_cons, List.length_append, hf, ih, List.length_cons, Nat.mul_succ, Nat.add_comm]

theorem numAt_append (l m : List Byte) (o n k : Nat) (h : l.length = k) : numAt (l ++ m) (k + o) n = numAt m o n := by
  rw [numAt, ← List.drop_drop, List.drop_left' h, numAt]
theorem numAt_take (l : List Byte) (o j k n : Nat) (h : k + n ≤ j) : numAt l (o + k) n = numAt ((l.drop o).take j) k n := by
  rw [numAt, numAt, ← List.drop_drop, List.drop_take, List.take_take, Nat.min_eq_left (by omega)]

theorem sliceB_of_drop (l s r : List Byte) (o n : Nat) (h : l.drop o = s ++ r) (hn : s.length = n) : sliceB l o n = s := by
  rw [sliceB, h]
  apply List.ext_getElem
  · simp [hn]
  · intro i h1 h2
    simp only [List.getElem_map, List.getElem_range, List.getD_eq_getElem?_getD, List.getElem?_append_left h2, List.getElem?_eq_getElem h2, Option.getD_some]

/-- A section: type, offset, length, mask, bytes. -/
structure Sec where
  t : Nat
  off : Nat
  len : Nat
  mask : Nat
  s : List Byte

def Sec.entry (x : Sec) : List Byte := imgT x.t x.off x.len x.mask x.s
def Sec.sect (x : Sec) (i : Nat) : ImgSect := ⟨i, x.t, 1, x.off, x.len, crc32c x.s, 0, x.mask⟩
theorem length_entry (x : Sec) : x.entry.length = 32 := by
  simp only [Sec.entry, imgT, List.length_append, length_bytesOf, length_zeros]

theorem ofBytes_take (n m w : Nat) (r : List Byte) : ofBytes ((bytesOf (n + m) w ++ r).take n) = w % 256 ^ n := by
  have e : bytesOf (n + m) w = bytesOf n w ++ bytesOf m (w / 256 ^ n) := by
    induction n generalizing w with
    | zero => simp [bytesOf]
    | succ n ih =>
      rw [show n + 1 + m = (n + m) + 1 by omega]
      simp only [bytesOf, ih, List.cons_append, Nat.pow_succ', Nat.div_div_eq_div_mul]
  rw [e, List.append_assoc, List.take_left' (length_bytesOf _ _), ofBytes_bytesOf]
theorem drop_bytesOf (n m w : Nat) : (bytesOf (n + m) w).drop n = bytesOf m (w / 256 ^ n) := by
  induction n generalizing w with
  | zero => simp [bytesOf]
  | succ n ih => rw [show n + 1 + m = (n + m) + 1 by omega, bytesOf, List.drop_succ_cons, ih, Nat.pow_succ', Nat.div_div_eq_div_mul]

theorem imgSect_of (b : List Byte) (i : Nat) (x : Sec) (h : (b.drop (256 + 32 * i)).take 32 = x.entry) (ht : x.t < 2 ^ 16) (ho : x.off < 2 ^ 32)
    (hl : x.len < 2 ^ 32) (hm : x.mask < 2 ^ 16) : imgSect b i = x.sect i := by
  have f (k n : Nat) (hk : k + n ≤ 32) : numAt b (256 + 32 * i + k) n = numAt x.entry k n := by rw [numAt_take b _ 32 k n hk, h]
  have f0 : numAt b (256 + 32 * i) 2 = numAt x.entry 0 2 := f 0 2 (by decide)
  have e0 : numAt x.entry 0 2 = x.t := by
    rw [numAt, List.drop_zero, Sec.entry, imgT, ofBytes_take 2 6]; omega
  have ed (r : List Byte) (k m w : Nat) (hk : k + m = 8) : (bytesOf 8 w ++ r).drop k = bytesOf m (w / 256 ^ k) ++ r := by
    rw [← hk, List.drop_append_of_le_length (by rw [length_bytesOf]; omega), drop_bytesOf]
  have e2 : numAt x.entry 2 2 = 1 := by
    rw [numAt, Sec.entry, imgT, ed _ 2 6 _ rfl, ofBytes_take 2 4]; omega
  have e4 : numAt x.entry 4 4 = x.off := by
    rw [numAt, Sec.entry, imgT, ed _ 4 4 _ rfl, ofBytes_take 4 0]; omega
  have e8 : numAt x.entry 8 4 = x.len := by
    rw [Sec.entry, imgT, numAt_append _ _ 0 4 8 (length_bytesOf _ _), numAt, List.drop_zero, ofBytes_take 4 0]; omega
  have e12 : numAt x.entry 12 4 = crc32c x.s := by
    rw [Sec.entry, imgT, numAt_append _ _ 4 4 8 (length_bytesOf _ _), numAt_append _ _ 0 4 4 (length_bytesOf _ _), numAt, List.drop_zero, ofBytes_take 4 0,
      Nat.mod_eq_of_lt (crc32c_lt _)]
  have e16 : numAt x.entry 16 2 = 0 := by
    rw [Sec.entry, imgT, numAt_append _ _ 8 2 8 (length_bytesOf _ _), numAt_append _ _ 4 2 4 (length_bytesOf _ _), numAt_append _ _ 0 2 4 (length_bytesOf _ _),
      numAt, List.drop_zero, ofBytes_take 2 2]; omega
  have e18 : numAt x.entry 18 2 = x.mask := by
    rw [Sec.entry, imgT, numAt_append _ _ 10 2 8 (length_bytesOf _ _), numAt_append _ _ 6 2 4 (length_bytesOf _ _), numAt_append _ _ 2 2 4 (length_bytesOf _ _),
      numAt, List.drop_append, drop_bytesOf 2 2, ofBytes_take 2 0]; omega
  simp only [imgSect, f0, f 2 2 (by decide), f 4 4 (by decide), f 8 4 (by decide), f 12 4 (by decide), f 16 2 (by decide), f 18 2 (by decide),
    e0, e2, e4, e8, e12, e16, e18, Sec.sect]

/-- The table of some sections. -/
def tableOf (l : List Sec) : List Byte := l.flatMap Sec.entry

theorem imgSects_img (l : List Sec) (off : Nat) (body : List Byte) (h6 : numAt (img l.length off (tableOf l) body) 6 2 = l.length)
    (hb : ∀ x ∈ l, x.t < 2 ^ 16 ∧ x.off < 2 ^ 32 ∧ x.len < 2 ^ 32 ∧ x.mask < 2 ^ 16) :
    imgSects (img l.length off (tableOf l) body) = l.mapIdx (fun i x => x.sect i) := by
  rw [imgSects, h6]
  apply List.ext_getElem
  · simp
  · intro i h1 h2
    simp at h1 h2
    simp only [List.getElem_map, List.getElem_range, List.getElem_mapIdx]
    obtain ⟨b1, b2, b3, b4⟩ := hb l[i] (List.getElem_mem h2)
    refine imgSect_of _ i l[i] ?_ b1 b2 b3 b4
    have e : img l.length off (tableOf l) body = (imgA l.length off ++ (bytesOf 4 (crc32c (imgA l.length off ++ zeros 4 ++ imgB (tableOf l))) ++
        (bytesOf 4 (2 ^ 16) ++ zeros 228))) ++ (tableOf l ++ (body ++
        (keyZ (sha256 (imgPre l.length off (tableOf l) body)) ++ ([0, 0, 0, 0] ++ sigZ ++ zeros 52)))) := by
      simp only [img, imgPre, imgB, List.append_assoc]
    have hl : (imgA l.length off ++ (bytesOf 4 (crc32c (imgA l.length off ++ zeros 4 ++ imgB (tableOf l))) ++ (bytesOf 4 (2 ^ 16) ++ zeros 228))).length = 256 := by
      simp only [List.length_append, length_imgA, length_bytesOf, length_zeros]
    rw [e, ← List.drop_drop, List.drop_left' hl]
    have ht : (tableOf l).length = 32 * l.length := length_flatMap_const _ 32 length_entry l
    rw [List.drop_append_of_le_length (by rw [ht]; omega), tableOf, drop_flatMap _ 32 length_entry, List.drop_eq_getElem_cons h2, List.flatMap_cons,
      List.append_assoc, List.take_left' (length_entry _)]

/-- What the header fields of an image and its sections' places must be. -/
structure ImgFits (l : List Sec) (off : Nat) (body : List Byte) : Prop where
  len : 256 + 32 * l.length + body.length = off
  h6 : numAt (img l.length off (tableOf l) body) 6 2 = l.length
  h12 : numAt (img l.length off (tableOf l) body) 12 4 = off
  h16 : numAt (img l.length off (tableOf l) body) 16 4 = 2624
  small : ∀ x ∈ l, x.t < 2 ^ 16 ∧ x.off < 2 ^ 32 ∧ x.len < 2 ^ 32 ∧ x.mask < 2 ^ 16
  plain : plainOk (img l.length off (tableOf l) body) (off + 2624) = true
  place : ∀ x ∈ l, sliceB (img l.length off (tableOf l) body) x.off x.len = x.s

theorem length_tableOf (l : List Sec) : (tableOf l).length = 32 * l.length := length_flatMap_const _ 32 length_entry l

theorem imgVerify_img (d : Dev) (a : Nat) (l : List Sec) (off : Nat) (body : List Byte) (f : ImgFits l off body)
    (h : Holds d a (img l.length off (tableOf l) body)) (hk : d.ownerKey = some (keyZ (sha256 (imgPre l.length off (tableOf l) body))))
    (hu : 0 < d.usable.length) : d.imgVerify = .ok (img l.length off (tableOf l) body) := by
  have hT := length_tableOf l
  have hl : 256 + (tableOf l).length + body.length = off := by rw [hT]; exact f.len
  refine imgVerify_of d a _ (off + 2624) h ((length_img _ _ _ _).trans (congrArg (· + 2624) hl)) (by omega) ?_
    (imgAuth_img d _ off _ body hl f.h12 f.h16 hk) f.plain ?_ hu
  · rw [f.h6]; exact hcrc_img _ off _ body hT f.h6
  · rw [imgSects_img l off body f.h6 f.small]
    intro s hs
    obtain ⟨i, hi, rfl⟩ := List.mem_mapIdx.mp hs
    exact congrArg crc32c (f.place _ (List.getElem_mem hi))

/-- A package with one core, its features locked, that holds image `b` under key `k`. -/
def holding (b k : List Byte) : Dev :=
  { ((({} : Dev).setFld .hlFeatCtl F.hlFeatCtl_LOCKED 1).wr (.hlFeatAccept 0) 1).wr (.glUnitEnable 0) 1 with mem := Mem.write 0 b [], ownerKey := some k }
def imgDev (l : List Sec) (off : Nat) (body : List Byte) : Dev :=
  holding (img l.length off (tableOf l) body) (keyZ (sha256 (imgPre l.length off (tableOf l) body)))

theorem holds_holding (b k : List Byte) (h : b.length ≤ stackSize) : Holds (holding b k) 0 b :=
  ⟨rfl, (by decide +kernel : (holding [] []).imgAddr = 0), rfl, by rw [Nat.zero_add]; exact h⟩
theorem usable_holding : ∀ b k, (holding b k).usable = [0] := by
  have h : (holding [] []).usable = [0] := by decide +kernel
  intro b k; exact h
theorem imgVerify_imgDev (l : List Sec) (off : Nat) (body : List Byte) (f : ImgFits l off body) (h : off + 2624 ≤ stackSize) :
    (imgDev l off body).imgVerify = .ok (img l.length off (tableOf l) body) := by
  have hl : 256 + (tableOf l).length + body.length = off := by rw [length_tableOf]; exact f.len
  exact imgVerify_img _ 0 l off body f (holds_holding _ _ (Nat.le_trans (Nat.le_of_eq ((length_img _ _ _ _).trans (congrArg (· + 2624) hl))) h)) rfl
    (by rw [imgDev, usable_holding]; decide)

/-- One section of type `t` that holds one record for an offset at which no register stands. -/
def badRec : List Byte := bytesOf 8 8 ++ zeros 8
def oneSec (t : Nat) : List Sec := [⟨t, 320, 16, 0, badRec⟩]
def oneBody : List Byte := zeros 32 ++ (badRec ++ zeros 48)

theorem fits_oneSec : ∀ t ∈ [0, 3], ImgFits (oneSec t) 384 oneBody := by
  intro t ht
  have hp (t : Nat) : (img 1 384 (tableOf (oneSec t)) oneBody).drop 320 = badRec ++ _ := rfl
  have hs : t = 0 ∨ t = 3 := by simpa using ht
  refine ⟨?_, ?_, ?_, ?_, ?_, ?_, ?_⟩
  · rfl
  · rcases hs with rfl | rfl <;> decide +kernel
  · rcases hs with rfl | rfl <;> decide +kernel
  · rcases hs with rfl | rfl <;> decide +kernel
  · intro x hx; simp [oneSec] at hx; subst hx; rcases hs with rfl | rfl <;> decide
  · rcases hs with rfl | rfl <;> decide +kernel
  · intro x hx; simp [oneSec] at hx; subst hx; exact sliceB_of_drop _ _ _ _ _ (hp t) rfl

/-- Records that set registers, and their bytes. -/
def recBytes (p : Reg × Word) : List Byte := bytesOf 8 p.1.off ++ bytesOf 8 p.2.toNat
def recs (l : List (Reg × Word)) : List Byte := l.flatMap recBytes
theorem length_recBytes (p : Reg × Word) : (recBytes p).length = 16 := by rw [recBytes, List.length_append, length_bytesOf, length_bytesOf]

/-- What makes a record good whatever the package holds. -/
structure GoodRec (t : Nat) (p : Reg × Word) : Prop where
  off : p.1.off < 2 ^ 64
  al : p.1.off % 8 = 0
  loc : Reg.locate p.1.off = some p.1
  ran : p.1.inRange = true
  sec : p.1.section = some t
  feat : p.1.info.feat = none
  core : p.1.isCore = false ∨ p.1.unit = 0
  res : p.1.reservedOk p.2.toNat = true
  use : p.1.info.fields.all (fun f => f.inUse p.2.toNat) = true
  rel : ∀ d : Dev, d.relOk p.1 p.2 = true
  grp : ∀ g, p.1 ≠ .fbGroup g
  pulse : p.2.toNat &&& p.1.pulseMask = 0

/-- The cores that a record binds, before the ones bound so far. -/
def addBind (bs : List Nat) (p : Reg × Word) : List Nat :=
  match p.1 with
  | .coreBind c => c :: bs
  | _ => bs
def bindsOf (l : List (Reg × Word)) (bs : List Nat) : List Nat := l.foldl addBind bs
theorem bindsOf_none (l : List (Reg × Word)) (h : ∀ p ∈ l, ∀ c, p.1 ≠ .coreBind c) (bs : List Nat) : bindsOf l bs = bs := by
  induction l generalizing bs with
  | nil => rfl
  | cons p t ih =>
    have hp := h p (List.mem_cons_self ..)
    have e : addBind bs p = bs := by
      unfold addBind; split
      · exact absurd (by assumption) (hp _)
      · rfl
    show bindsOf t (addBind bs p) = bs
    rw [e, ih (fun q hq => h q (List.mem_cons_of_mem _ hq))]

theorem and_all (a : Nat) (h : a < 2 ^ 64) : a &&& (2 ^ 64 - 1) = a := by rw [Nat.and_two_pow_sub_one_eq_mod, Nat.mod_eq_of_lt h]

theorem applyRecord_good (s : ImgSect) (b : List Byte) (o : Nat) (x : ImgAcc) (p : Reg × Word) (g : GoodRec s.type p) (h0 : numAt b o 8 = p.1.off)
    (h8 : numAt b (o + 8) 8 = p.2.toNat) (hc : 0 < x.dev.nCores)
    (hm : p.1.imgMask = 2 ^ 64 - 1 ∨ (x.dev.rd p.1 = 0 ∧ p.2.toNat &&& p.1.imgMask = p.2.toNat)) :
    applyRecord s b o x = ({ x with dev := x.dev.wr p.1 p.2, sets := tset p.1 (s.ix, o) x.sets, binds := addBind x.binds p }, none) := by
  have hcore : (p.1.isCore && decide (x.dev.nCores ≤ p.1.unit)) = false := by
    rcases g.core with h | h
    · rw [h]; rfl
    · rw [h, decide_eq_false (by omega), Bool.and_false]
  have hw : BitVec.ofNat 64 ((x.dev.rd p.1).toNat - ((x.dev.rd p.1).toNat &&& p.1.imgMask) + (p.2.toNat &&& p.1.imgMask)) = p.2 := by
    rcases hm with h | ⟨h, h'⟩
    · rw [h, and_all _ (BitVec.isLt _), and_all _ (BitVec.isLt _), Nat.sub_self, Nat.zero_add]; simp
    · rw [h, h']; simp
  have hv : x.dev.recordOk p.1 p.2 = true := by unfold Dev.recordOk; rw [g.use, Bool.true_and]; split <;> first | rfl | exact absurd (by assumption) (g.grp _) | exact g.rel _
  simp only [applyRecord, h0, h8, g.al, g.loc, if_true, g.ran, g.sec, g.feat, hcore, g.res, hw, hv, g.pulse]
  simp [addBind] <;> cases p.1 <;> rfl

theorem numAt_recs (l : List (Reg × Word)) (i : Nat) (p : Reg × Word) (t : List (Reg × Word)) (h : l.drop i = p :: t) (ho : p.1.off < 2 ^ 64) :
    numAt (recs l) (16 * i) 8 = p.1.off ∧ numAt (recs l) (16 * i + 8) 8 = p.2.toNat := by
  have e : (recs l).drop (16 * i) = bytesOf 8 p.1.off ++ (bytesOf 8 p.2.toNat ++ recs t) := by
    rw [recs, drop_flatMap _ 16 length_recBytes, h, List.flatMap_cons, recBytes, List.append_assoc]; rfl
  constructor
  · rw [numAt, e, List.take_left' (length_bytesOf _ _), ofBytes_bytesOf]; exact Nat.mod_eq_of_lt ho
  · rw [numAt, ← List.drop_drop, e, List.drop_left' (length_bytesOf _ _), List.take_left' (length_bytesOf _ _), ofBytes_bytesOf]; exact Nat.mod_eq_of_lt p.2.isLt

theorem thas_tset {κ α : Type} [DecidableEq κ] (j k : κ) (v : α) (t : List (κ × α)) (h : j = k ∨ thas j t = true) : thas j (tset k v t) = true := by
  induction t with
  | nil => rcases h with h | h <;> simp [tset, thas, h] at *
  | cons q t ih =>
    obtain ⟨k', v'⟩ := q
    by_cases hk : k = k'
    · subst hk
      by_cases hj : j = k <;> simp [tset, thas, hj] at *
      exact h
    · by_cases hj : j = k'
      · subst hj; simp [tset, thas, hk]
      · simp only [thas, hj, if_false] at h
        simp [tset, thas, hk, hj]
        exact ih h

/-- The registers written, in order. -/
def wrs (l : List (Reg × Word)) (d : Dev) : Dev := l.foldl (fun d p => d.wr p.1 p.2) d

theorem imgEach_records (s : ImgSect) (l : List (Reg × Word)) (hg : ∀ p ∈ l, GoodRec s.type p) (hcc : ∀ p ∈ l, p.1 ≠ .glCoreCount)
    (m : List (Reg × Word)) : ∀ (i : Nat) (x : ImgAcc), l.drop i = m → 0 < x.dev.nCores →
      (∀ p ∈ m, p.1.imgMask = 2 ^ 64 - 1 ∨ (m.length = 1 ∧ x.dev.rd p.1 = 0 ∧ p.2.toNat &&& p.1.imgMask = p.2.toNat)) →
    ∃ S, imgEach (applyRecord s (recs l)) ((List.range' i m.length).map (16 * ·)) x = (⟨wrs m x.dev, S, bindsOf m x.binds, x.pre, x.frames⟩, none) ∧
      ∀ r, (thas r x.sets = true ∨ r ∈ m.map Prod.fst) → thas r S = true := by
  induction m with
  | nil => intro i x _ _ _; exact ⟨x.sets, rfl, fun r h => by simpa using h⟩
  | cons p t ih =>
    intro i x hd hn hm
    have hp : p ∈ l := List.mem_of_mem_drop (hd ▸ List.mem_cons_self ..)
    obtain ⟨n0, n8⟩ := numAt_recs l i p t hd (hg p hp).off
    have hstep := applyRecord_good s (recs l) (16 * i) x p (hg p hp) n0 n8 hn ((hm p (List.mem_cons_self ..)).imp_right And.right)
    have hd' : l.drop (i + 1) = t := by rw [← List.tail_drop, hd]; rfl
    obtain ⟨S, e, hS⟩ := ih (i + 1) { x with dev := x.dev.wr p.1 p.2, sets := tset p.1 (s.ix, 16 * i) x.sets, binds := addBind x.binds p } hd'
      (by rw [Dev.nCores, Dev.fld, Dev.rd_wr_ne _ _ (Ne.symm (hcc p hp))]; exact hn)
      (fun q hq => by
        rcases hm q (List.mem_cons_of_mem _ hq) with h | ⟨h, _⟩
        · exact Or.inl h
        · rw [List.length_cons] at h; have : t.length = 0 := by omega
          rw [List.length_eq_zero_iff.mp this] at hq; exact absurd hq (List.not_mem_nil))
    refine ⟨S, ?_, fun r hr => hS r ?_⟩
    · rw [List.length_cons, List.range'_succ, List.map_cons, imgEach, hstep]
      exact e
    · rcases hr with h | h
      · exact Or.inl (thas_tset _ _ _ _ (Or.inr h))
      · rw [List.map_cons, List.mem_cons] at h
        rcases h with rfl | h
        · exact Or.inl (thas_tset _ _ _ _ (Or.inl rfl))
        · exact Or.inr h

theorem applySect_records (banks : List (Nat × List (Nat × Nat × Nat))) (b : List Byte) (s : ImgSect) (l : List (Reg × Word)) (x : ImgAcc)
    (ht : s.type ∈ [1, 3, 4, 6, 14]) (hs : sliceB b s.off s.len = recs l) (hlen : s.len = 16 * l.length) (hg : ∀ p ∈ l, GoodRec s.type p)
    (hcc : ∀ p ∈ l, p.1 ≠ .glCoreCount) (hn : 0 < x.dev.nCores)
    (hm : ∀ p ∈ l, p.1.imgMask = 2 ^ 64 - 1 ∨ (l.length = 1 ∧ x.dev.rd p.1 = 0 ∧ p.2.toNat &&& p.1.imgMask = p.2.toNat)) :
    ∃ S, applySect banks b s x = (⟨wrs l x.dev, S, bindsOf l x.binds, x.pre, x.frames⟩, none) ∧ ∀ r, (thas r x.sets = true ∨ r ∈ l.map Prod.fst) → thas r S = true := by
  obtain ⟨S, e, h⟩ := imgEach_records s l hg hcc l 0 x rfl hn hm
  refine ⟨S, ?_, h⟩
  have ha : applySect banks b s x = applyRecords s (recs l) x := by
    simp only [List.mem_cons, List.not_mem_nil, or_false] at ht
    rw [applySect, hs]
    rcases ht with h | h | h | h | h <;> (rw [h]; rfl)
  rw [ha, applyRecords, if_neg (by omega), hlen, Nat.mul_div_cancel_left _ (by decide), List.range_eq_range']
  exact e

/-- The records of a whole image: every register for which zero is unused, the one core, and every ring. -/
def R1 : List (Reg × Word) := (List.range 32).map (fun k => (Reg.cvPrio k, 1))
def R3 : List (Reg × Word) := [(.coreBind 0, 0)]
def R4 : List (Reg × Word) := (List.range 4096).flatMap (fun q => [(Reg.cqRing q, 4), (Reg.cqCring q, 4)])
def R6 : List (Reg × Word) := [(.fbVcWeight 0, 0x40404040), (.fbVcWeight 1, 0x40404040)]
def R7 : List (Reg × Word) := [(.fbTorusId, 0x1041000000)]
def R14 : List (Reg × Word) := [(.tgCtl, 0x10001), (.tgSrcCfg, 3), (.tgLoss, 0x320A000F10000000)]

theorem mem_R1 (p : Reg × Word) (h : p ∈ R1) : ∃ k, k < 32 ∧ p = (.cvPrio k, 1) := by
  simp only [R1, List.mem_map, List.mem_range] at h
  obtain ⟨k, hk, rfl⟩ := h; exact ⟨k, hk, rfl⟩
theorem mem_R4 (p : Reg × Word) (h : p ∈ R4) : ∃ q, q < 4096 ∧ (p = (.cqRing q, 4) ∨ p = (.cqCring q, 4)) := by
  simp only [R4, List.mem_flatMap, List.mem_range, List.mem_cons, List.not_mem_nil, or_false] at h
  exact h

theorem locate_ring (q : Nat) (h : q < 4096) : Reg.locate (Reg.cqRing q).off = some (.cqRing q) ∧ Reg.locate (Reg.cqCring q).off = some (.cqCring q) := by
  simp only [Reg.off, Reg.locate, Reg.locateCQ]
  constructor
  all_goals
    repeat (first | refine (if_neg (by omega)).trans ?_ | refine (if_pos (by omega)).trans ?_)
    congr 2
    omega

theorem good_R1 : ∀ p ∈ R1, GoodRec 1 p := by
  have h : (R1.all (fun p => decide (p.1.off < 2 ^ 64) && decide (p.1.off % 8 = 0) && decide (Reg.locate p.1.off = some p.1) && p.1.inRange && decide (p.1.section = some 1) &&
    decide (p.1.info.feat = none) && !p.1.isCore && p.1.reservedOk p.2.toNat && p.1.info.fields.all (fun f => f.inUse p.2.toNat))) = true := by decide +kernel
  rw [List.all_eq_true] at h
  intro p hp
  have := h p hp
  simp only [Bool.and_eq_true, decide_eq_true_eq, Bool.not_eq_true'] at this
  obtain ⟨⟨⟨⟨⟨⟨⟨⟨a1, a2⟩, a3⟩, a4⟩, a5⟩, a6⟩, a7⟩, a8⟩, a9⟩ := this
  obtain ⟨k, _, rfl⟩ := mem_R1 p hp
  exact ⟨a1, a2, a3, a4, a5, a6, Or.inl a7, a8, a9, fun d => rfl, fun _ => Reg.noConfusion, (by decide : (1 : Word).toNat &&& (Reg.cvPrio 0).pulseMask = 0)⟩

theorem good_R4 : ∀ p ∈ R4, GoodRec 4 p := by
  intro p hp
  obtain ⟨q, hq, rfl | rfl⟩ := mem_R4 p hp
  · exact ⟨by simp only [Reg.off]; omega, by simp only [Reg.off]; omega, (locate_ring q hq).1, decide_eq_true hq, rfl, rfl, Or.inl rfl,
      (by decide : (Reg.cqRing 0).reservedOk (4 : Word).toNat = true), (by decide : ((Reg.cqRing 0).info.fields.all fun f => f.inUse (4 : Word).toNat) = true), fun d => (by decide : ringOk (expandPa (F.cqRing_BASE.get 4 * 64)) (F.cqRing_LOG2SIZE.get 4) 64 = true), fun _ => Reg.noConfusion, (by decide : (4 : Word).toNat &&& (Reg.cqRing 0).pulseMask = 0)⟩
  · exact ⟨by simp only [Reg.off]; omega, by simp only [Reg.off]; omega, (locate_ring q hq).2, decide_eq_true hq, rfl, rfl, Or.inl rfl,
      (by decide : (Reg.cqCring 0).reservedOk (4 : Word).toNat = true), (by decide : ((Reg.cqCring 0).info.fields.all fun f => f.inUse (4 : Word).toNat) = true), fun d => (by decide : ringOk (expandPa (F.cqCring_BASE.get 4 * 64)) (F.cqCring_LOG2SIZE.get 4) 16 = true), fun _ => Reg.noConfusion, (by decide : (4 : Word).toNat &&& (Reg.cqCring 0).pulseMask = 0)⟩
theorem good_R3 : ∀ p ∈ R3, GoodRec 3 p := by
  intro p hp; simp only [R3, List.mem_singleton] at hp; subst hp
  exact ⟨by decide, by decide, by decide +kernel, rfl, rfl, rfl, Or.inr rfl, by decide, by decide, fun d => rfl, fun _ => Reg.noConfusion, by decide⟩
theorem good_R6 : ∀ p ∈ R6, GoodRec 6 p := by
  intro p hp; simp only [R6, List.mem_cons, List.not_mem_nil, or_false] at hp
  rcases hp with rfl | rfl
  · exact ⟨by decide, by decide, by decide +kernel, rfl, rfl, rfl, Or.inl rfl, by decide, by decide,
      fun d => (by decide : ((({} : Dev).relOk (.fbVcWeight 0) 0x40404040)) = true), fun _ => Reg.noConfusion, by decide⟩
  · exact ⟨by decide, by decide, by decide +kernel, rfl, rfl, rfl, Or.inl rfl, by decide, by decide,
      fun d => (by decide : ((({} : Dev).relOk (.fbVcWeight 0) 0x40404040)) = true), fun _ => Reg.noConfusion, by decide⟩
theorem good_R7 : ∀ p ∈ R7, GoodRec 6 p := by
  intro p hp; simp only [R7, List.mem_singleton] at hp; subst hp
  refine ⟨by decide, by decide, by decide +kernel, rfl, rfl, rfl, Or.inl rfl, by decide, by decide, fun d => ?_, fun _ => Reg.noConfusion, by decide⟩
  have h1 : ([F.fbTorusId_DX.get 0x1041000000, F.fbTorusId_DY.get 0x1041000000, F.fbTorusId_DZ.get 0x1041000000].all dimOk) = true := by decide
  have h2 : ([F.fbTorusId_DX.get 0x1041000000, F.fbTorusId_DY.get 0x1041000000, F.fbTorusId_DZ.get 0x1041000000].all (· == 1)) = true := by decide
  simp only [Dev.relOk, h1, h2, Bool.or_true, Bool.and_true]
theorem good_R14 : ∀ p ∈ R14, GoodRec 14 p := by
  intro p hp; simp only [R14, List.mem_cons, List.not_mem_nil, or_false] at hp
  rcases hp with rfl | rfl | rfl
  · exact ⟨by decide, by decide, by decide +kernel, rfl, rfl, rfl, Or.inl rfl, by decide, by decide, fun d => rfl, fun _ => Reg.noConfusion, by decide⟩
  · exact ⟨by decide, by decide, by decide +kernel, rfl, rfl, rfl, Or.inl rfl, by decide, by decide, fun d => rfl, fun _ => Reg.noConfusion, by decide⟩
  · exact ⟨by decide, by decide, by decide +kernel, rfl, rfl, rfl, Or.inl rfl, by decide, by decide, fun d => rfl, fun _ => Reg.noConfusion, by decide⟩

/-- Every record. -/
def RA : List (Reg × Word) := R1 ++ (R3 ++ (R4 ++ (R6 ++ (R7 ++ R14))))
/-- The value each register is set to. -/
def val : Reg → Word
  | .cvPrio _ => 1
  | .coreBind _ => 0
  | .fbVcWeight _ => 0x40404040
  | .fbTorusId => 0x1041000000
  | .tgCtl => 0x10001
  | .tgSrcCfg => 3
  | .tgLoss => 0x320A000F10000000
  | _ => 4

theorem wrs_append (a b : List (Reg × Word)) (d : Dev) : wrs (a ++ b) d = wrs b (wrs a d) := List.foldl_append
theorem rd_wrs (l : List (Reg × Word)) (r : Reg) : ∀ d : Dev, (∀ p ∈ l, p.2 = val p.1) →
    (wrs l d).rd r = if r ∈ l.map Prod.fst then val r else d.rd r := by
  induction l with
  | nil => intro d _; rfl
  | cons p t ih =>
    intro d h
    have hp := h p (List.mem_cons_self ..)
    show (wrs t (d.wr p.1 p.2)).rd r = _
    rw [ih _ (fun q hq => h q (List.mem_cons_of_mem _ hq)), Dev.rd_wr, List.map_cons, hp]
    by_cases h1 : r ∈ t.map Prod.fst
    · simp [h1]
    · by_cases h2 : r = p.1
      · subst h2; simp
      · simp [h1, h2]

/-- The registers that the records set. -/
def isSet : Reg → Bool
  | .cvPrio k => decide (k < 32)
  | .coreBind c => c == 0
  | .cqRing q | .cqCring q => decide (q < 4096)
  | .fbVcWeight n => decide (n < 2)
  | .fbTorusId | .tgCtl | .tgSrcCfg | .tgLoss => true
  | _ => false
theorem val_RA : ∀ p ∈ RA, p.2 = val p.1 := by
  intro p hp
  simp only [RA, List.mem_append] at hp
  rcases hp with hp | hp | hp | hp | hp | hp
  · obtain ⟨k, _, rfl⟩ := mem_R1 p hp; rfl
  · simp only [R3, List.mem_singleton] at hp; subst hp; rfl
  · obtain ⟨k, _, rfl | rfl⟩ := mem_R4 p hp <;> rfl
  · simp only [R6, List.mem_cons, List.not_mem_nil, or_false] at hp; rcases hp with rfl | rfl <;> rfl
  · simp only [R7, List.mem_singleton] at hp; subst hp; rfl
  · simp only [R14, List.mem_cons, List.not_mem_nil, or_false] at hp; rcases hp with rfl | rfl | rfl <;> rfl
theorem keys_RA (r : Reg) : r ∈ RA.map Prod.fst ↔ isSet r = true := by
  have e : RA.map Prod.fst = (List.range 32).map Reg.cvPrio ++ (Reg.coreBind 0 :: ((List.range 4096).flatMap (fun q => [Reg.cqRing q, Reg.cqCring q]) ++
      [.fbVcWeight 0, .fbVcWeight 1, .fbTorusId, .tgCtl, .tgSrcCfg, .tgLoss])) := by
    simp only [RA, R1, R3, R4, R6, R7, R14, List.map_append, List.map_map, List.map_cons, List.map_nil, List.map_flatMap, List.cons_append, List.nil_append]
    rfl
  rw [e]
  simp only [List.mem_append, List.mem_cons, List.mem_map, List.mem_range, List.mem_flatMap, List.not_mem_nil, or_false]
  cases r <;> simp [isSet]
  omega

def secsW : List Sec :=
  [⟨1, 448, 512, 0, recs R1⟩, ⟨3, 960, 16, 0, recs R3⟩, ⟨4, 1024, 131072, 0, recs R4⟩, ⟨6, 132096, 32, 0, recs R6⟩, ⟨6, 132160, 16, 0, recs R7⟩,
    ⟨14, 132224, 48, 0, recs R14⟩]
def bodyW : List Byte := recs R1 ++ (recs R3 ++ (zeros 48 ++ (recs R4 ++ (recs R6 ++ (zeros 32 ++ (recs R7 ++ (zeros 48 ++ (recs R14 ++ zeros 16))))))))
def imgW : List Byte := img 6 132288 (tableOf secsW) bodyW

theorem length_recs (l : List (Reg × Word)) : (recs l).length = 16 * l.length := length_flatMap_const _ 16 length_recBytes l
theorem length_R4 : R4.length = 8192 := by
  have (l : List Nat) : (l.flatMap (fun q => [(Reg.cqRing q, (4 : Word)), (Reg.cqCring q, 4)])).length = 2 * l.length := by
    induction l with
    | nil => rfl
    | cons x t ih => rw [List.flatMap_cons, List.length_append, ih, List.length_cons]; simp; omega
  rw [R4, this, List.length_range]

theorem fits_imgW : ImgFits secsW 132288 bodyW := by
  have l1 : (recs R1).length = 512 := by rw [length_recs]; rfl
  have l3 : (recs R3).length = 16 := by rw [length_recs]; rfl
  have l4 : (recs R4).length = 131072 := by rw [length_recs, length_R4]
  have l6 : (recs R6).length = 32 := by rw [length_recs]; rfl
  have l7 : (recs R7).length = 16 := by rw [length_recs]; rfl
  have l14 : (recs R14).length = 48 := by rw [length_recs]; rfl
  have hb : (img secsW.length 132288 (tableOf secsW) bodyW).drop 448 = bodyW ++ (keyZ (sha256 (imgPre 6 132288 (tableOf secsW) bodyW)) ++ ([0, 0, 0, 0] ++ sigZ ++ zeros 52)) := by
    have hl : (imgA 6 132288 ++ (bytesOf 4 (crc32c (imgA 6 132288 ++ zeros 4 ++ imgB (tableOf secsW))) ++ imgB (tableOf secsW))).length = 448 := by
      simp only [List.length_append, length_imgA, length_bytesOf, imgB, length_zeros, length_tableOf]; rfl
    have e : img secsW.length 132288 (tableOf secsW) bodyW = (imgA 6 132288 ++ (bytesOf 4 (crc32c (imgA 6 132288 ++ zeros 4 ++ imgB (tableOf secsW))) ++ imgB (tableOf secsW))) ++
        (bodyW ++ (keyZ (sha256 (imgPre 6 132288 (tableOf secsW) bodyW)) ++ ([0, 0, 0, 0] ++ sigZ ++ zeros 52))) := by
      rw [img, imgPre]; simp only [List.append_assoc]; rfl
    rw [e, List.drop_left' hl]
  generalize keyZ (sha256 (imgPre 6 132288 (tableOf secsW) bodyW)) ++ ([0, 0, 0, 0] ++ sigZ ++ zeros 52) = tl at hb
  have at' (s pre post : List Byte) (o n : Nat) (h : bodyW = pre ++ (s ++ post)) (ho : 448 + pre.length = o) (hn : s.length = n) :
      sliceB (img secsW.length 132288 (tableOf secsW) bodyW) o n = s := by
    refine sliceB_of_drop _ s (post ++ tl) o n ?_ hn
    rw [← ho, ← List.drop_drop, hb, h, List.append_assoc, List.drop_left' rfl, List.append_assoc]
  refine ⟨?_, ?_, ?_, ?_, ?_, ?_, ?_⟩
  · simp only [bodyW, List.length_append, l1, l3, l4, l6, l7, l14, length_zeros]; rfl
  · decide +kernel
  · decide +kernel
  · decide +kernel
  · intro x hx; simp only [secsW, List.mem_cons, List.not_mem_nil, or_false] at hx
    rcases hx with rfl | rfl | rfl | rfl | rfl | rfl <;> decide
  · decide +kernel
  · intro x hx; simp only [secsW, List.mem_cons, List.not_mem_nil, or_false] at hx
    rcases hx with rfl | rfl | rfl | rfl | rfl | rfl
    · exact at' (recs R1) []
        (recs R3 ++ (zeros 48 ++ (recs R4 ++ (recs R6 ++ (zeros 32 ++ (recs R7 ++ (zeros 48 ++ (recs R14 ++ zeros 16)))))))) 448 512
        (by simp only [bodyW, List.append_assoc, List.nil_append]) (by simp only [List.length_append, List.length_nil, l1, l3, l4, l6, l7, l14, length_zeros]) l1
    · exact at' (recs R3) (recs R1)
        (zeros 48 ++ (recs R4 ++ (recs R6 ++ (zeros 32 ++ (recs R7 ++ (zeros 48 ++ (recs R14 ++ zeros 16))))))) 960 16
        (by simp only [bodyW, List.append_assoc, List.nil_append]) (by simp only [List.length_append, List.length_nil, l1, l3, l4, l6, l7, l14, length_zeros]) l3
    · dsimp only
      exact at' (recs R4) (recs R1 ++ (recs R3 ++ zeros 48))
        (recs R6 ++ (zeros 32 ++ (recs R7 ++ (zeros 48 ++ (recs R14 ++ zeros 16))))) 1024 131072
        (by simp only [bodyW, List.append_assoc, List.nil_append]) (by simp only [List.length_append, List.length_nil, l1, l3, l4, l6, l7, l14, length_zeros]) l4
    · exact at' (recs R6) (recs R1 ++ (recs R3 ++ (zeros 48 ++ recs R4)))
        (zeros 32 ++ (recs R7 ++ (zeros 48 ++ (recs R14 ++ zeros 16)))) 132096 32
        (by simp only [bodyW, List.append_assoc, List.nil_append]) (by simp only [List.length_append, List.length_nil, l1, l3, l4, l6, l7, l14, length_zeros]) l6
    · exact at' (recs R7) (recs R1 ++ (recs R3 ++ (zeros 48 ++ (recs R4 ++ (recs R6 ++ zeros 32)))))
        (zeros 48 ++ (recs R14 ++ zeros 16)) 132160 16
        (by simp only [bodyW, List.append_assoc, List.nil_append]) (by simp only [List.length_append, List.length_nil, l1, l3, l4, l6, l7, l14, length_zeros]) l7
    · exact at' (recs R14) (recs R1 ++ (recs R3 ++ (zeros 48 ++ (recs R4 ++ (recs R6 ++ (zeros 32 ++ (recs R7 ++ zeros 48)))))))
        (zeros 16) 132224 48
        (by simp only [bodyW, List.append_assoc, List.nil_append]) (by simp only [List.length_append, List.length_nil, l1, l3, l4, l6, l7, l14, length_zeros]) l14
theorem slice_R1 : sliceB imgW 448 512 = recs R1 := by
  have h := fits_imgW.place ⟨1, 448, 512, 0, recs R1⟩ (by simp only [secsW, List.mem_cons, true_or, or_true])
  dsimp only at h
  exact h
theorem slice_R3 : sliceB imgW 960 16 = recs R3 := by
  have h := fits_imgW.place ⟨3, 960, 16, 0, recs R3⟩ (by simp only [secsW, List.mem_cons, true_or, or_true])
  dsimp only at h
  exact h
theorem slice_R4 : sliceB imgW 1024 131072 = recs R4 := by
  have h := fits_imgW.place ⟨4, 1024, 131072, 0, recs R4⟩ (by simp only [secsW, List.mem_cons, true_or, or_true])
  dsimp only at h
  exact h
theorem slice_R6 : sliceB imgW 132096 32 = recs R6 := by
  have h := fits_imgW.place ⟨6, 132096, 32, 0, recs R6⟩ (by simp only [secsW, List.mem_cons, true_or, or_true])
  dsimp only at h
  exact h
theorem slice_R7 : sliceB imgW 132160 16 = recs R7 := by
  have h := fits_imgW.place ⟨6, 132160, 16, 0, recs R7⟩ (by simp only [secsW, List.mem_cons, true_or, or_true])
  dsimp only at h
  exact h
theorem slice_R14 : sliceB imgW 132224 48 = recs R14 := by
  have h := fits_imgW.place ⟨14, 132224, 48, 0, recs R14⟩ (by simp only [secsW, List.mem_cons, true_or, or_true])
  dsimp only at h
  exact h

/-- The package that holds the whole image, and what it is with its logical number given. -/
def dW : Dev := holding imgW (keyZ (sha256 (imgPre 6 132288 (tableOf secsW) bodyW)))
def blankW : Dev := (dW.noImage.setFld .fbTorusId ⟨40, 24⟩ 0).numberCores imgW
/-- The package with every record applied. -/
def dA : Dev := wrs RA blankW

theorem imgVerify_dW : dW.imgVerify = .ok imgW := imgVerify_imgDev secsW 132288 bodyW fits_imgW (by decide)

theorem sects_imgW : imgSects imgW = [⟨0, 1, 1, 448, 512, crc32c (recs R1), 0, 0⟩, ⟨1, 3, 1, 960, 16, crc32c (recs R3), 0, 0⟩, ⟨2, 4, 1, 1024, 131072, crc32c (recs R4), 0, 0⟩,
    ⟨3, 6, 1, 132096, 32, crc32c (recs R6), 0, 0⟩, ⟨4, 6, 1, 132160, 16, crc32c (recs R7), 0, 0⟩, ⟨5, 14, 1, 132224, 48, crc32c (recs R14), 0, 0⟩] := by
  have h : imgSects imgW = _ := imgSects_img secsW 132288 bodyW fits_imgW.h6 fits_imgW.small
  rw [h]
  simp only [secsW, List.mapIdx_cons, List.mapIdx_nil, Sec.sect, Nat.zero_add, Nat.reduceAdd]

theorem unused_imgW : (imgSects imgW).findSome? sectUnused = none := by rw [sects_imgW]; simp [sectUnused]
theorem order_imgW (d : Dev) : d.sectOrder imgW = imgSects imgW := by
  rw [Dev.sectOrder, sects_imgW]; simp [sortBy, insertBy]

theorem isSet_ne (r : Reg) (h : isSet r = false) : dA.rd r = blankW.rd r := by
  rw [dA, rd_wrs _ _ _ val_RA, if_neg (by rw [keys_RA, h]; decide)]
theorem isSet_eq (r : Reg) (h : isSet r = true) : dA.rd r = val r := by
  rw [dA, rd_wrs _ _ _ val_RA, if_pos (by rw [keys_RA, h])]

theorem blank_facts : blankW.nCores = 1 ∧ blankW.fld .glImgInfo F.glImgInfo_CLASS = 0 ∧ blankW.rd .fbTorusId = 0 ∧
    (∀ j < 8, blankW.feat j = (j == 0)) ∧ (blankW.regs.all (fun p => match p.1 with | .fbImpCtl _ => false | _ => true)) = true := by decide +kernel


theorem tget_absent {κ α : Type} [DecidableEq κ] (d : α) (k : κ) (t : List (κ × α)) (h : ∀ p ∈ t, p.1 ≠ k) : tget d k t = d := by
  induction t with
  | nil => rfl
  | cons q t ih =>
    obtain ⟨k', v'⟩ := q
    have hk : ¬ k = k' := fun e => h (k', v') (List.mem_cons_self ..) e.symm
    simp only [tget, hk, if_false]
    exact ih (fun p hp => h p (List.mem_cons_of_mem _ hp))

theorem imp_blank (n : Nat) : blankW.rd (.fbImpCtl n) = 0 := by
  have h := blank_facts.2.2.2.2
  rw [List.all_eq_true] at h
  rw [Dev.rd, tget_absent]
  · rfl
  · intro p hp e
    have := h p hp
    rw [e] at this
    exact Bool.noConfusion this

theorem rate_blank : blankW.rd .tgSrcRate = 0 := by decide +kernel

theorem feat_dA (j : Nat) (hj : j < 8) : dA.feat j = (j == 0) := by
  rw [← blank_facts.2.2.2.1 j hj, Dev.feat, Dev.feat, Dev.flag, Dev.flag, Dev.fld, Dev.fld, isSet_ne .hlFeatCtl rfl, isSet_ne (.hlFeatAccept _) rfl]

theorem nCores_dA : dA.nCores = 1 := by rw [Dev.nCores, Dev.fld, isSet_ne .glCoreCount rfl]; exact blank_facts.1

theorem zeroUnused_dA (r : Reg) (h : r ∈ zeroUnused) : dA.exists r = false ∨ dA.imgValueOk r (dA.rd r) = true := by
  have rel (r : Reg) (hs : isSet r = true) (hu : r.info.fields.all (fun f => f.inUse (val r).toNat) = true) (hr : dA.relOk r (val r) = true) :
      dA.imgValueOk r (dA.rd r) = true := by rw [isSet_eq r hs, Dev.imgValueOk, hu, hr]; rfl
  simp only [zeroUnused, List.mem_append, List.mem_cons, List.mem_map, List.mem_range, List.mem_flatMap, List.not_mem_nil, or_false] at h
  rcases h with ((((h | h) | h) | h) | h)
  · rcases h with rfl | rfl | rfl | rfl | rfl | rfl | rfl
    · exact Or.inr (rel .tgCtl rfl (by decide) rfl)
    · exact Or.inr (rel .tgSrcCfg rfl (by decide) rfl)
    · exact Or.inr (rel .tgLoss rfl (by decide) rfl)
    · have ts : dA.tideSrc = 3 := by rw [Dev.tideSrc, Dev.fld, isSet_eq .tgSrcCfg rfl]; rfl
      have hr : dA.relOk .tgSrcRate (dA.rd .tgSrcRate) = true := by
        simp only [Dev.relOk, Dev.rateOk, ts, isSet_ne .tgSrcRate rfl, rate_blank]; rfl
      exact Or.inr (by rw [Dev.imgValueOk, hr]; rfl)
    · exact Or.inr (rel .fbTorusId rfl (by decide) ((good_R7 (.fbTorusId, 0x1041000000) (by decide)).rel dA))
    · exact Or.inr (rel (.fbVcWeight 0) rfl (by decide) ((good_R6 (.fbVcWeight 0, 0x40404040) (by decide)).rel dA))
    · exact Or.inr (rel (.fbVcWeight 1) rfl (by decide) ((good_R6 (.fbVcWeight 1, 0x40404040) (by decide)).rel dA))
  · obtain ⟨k, hk, rfl⟩ := h
    exact Or.inr (rel _ (decide_eq_true hk) (by decide : ((Reg.cvPrio 0).info.fields.all fun f => f.inUse (1 : Word).toNat) = true) rfl)
  · left; obtain ⟨p, _, k, _, rfl⟩ := h
    rw [Dev.exists, show (Reg.ppRxRing p k).info.feat = some 2 from rfl]; simp only [feat_dA 2 (by decide)]; simp
  · left; obtain ⟨p, _, k, _, rfl⟩ := h
    rw [Dev.exists, show (Reg.ppSlotBuf p k).info.feat = some 2 from rfl]; simp only [feat_dA 2 (by decide)]; simp
  · obtain ⟨q, hq, rfl | rfl⟩ := h
    · have g := good_R4 (.cqRing q, 4) (by simp only [R4, List.mem_flatMap, List.mem_range]; exact ⟨q, hq, List.mem_cons_self ..⟩)
      exact Or.inr (rel _ (decide_eq_true hq) g.use (g.rel dA))
    · have g := good_R4 (.cqCring q, 4) (by simp only [R4, List.mem_flatMap, List.mem_range]; exact ⟨q, hq, by simp⟩)
      exact Or.inr (rel _ (decide_eq_true hq) g.use (g.rel dA))

theorem crossFault_dA (x : ImgAcc) (hx : x.binds = [0]) : dA.crossFault x = none := by
  have f2 := feat_dA 2 (by decide)
  have f3 := feat_dA 3 (by decide)
  have f4 := feat_dA 4 (by decide)
  have f6 := feat_dA 6 (by decide)
  have f7 := feat_dA 7 (by decide)
  have tc : dA.timeClass = false := by
    rw [Dev.timeClass, Dev.fld, isSet_ne .glImgInfo rfl]
    have := blank_facts.2.1; rw [Dev.fld] at this; rw [this]; rfl
  have zu : (zeroUnused.filter dA.exists).find? (fun r => !dA.imgValueOk r (dA.rd r)) = none := by
    rw [List.find?_eq_none]; intro r hr
    rw [List.mem_filter] at hr
    rcases zeroUnused_dA r hr.1 with h | h
    · rw [h] at hr; exact absurd hr.2 (by decide)
    · rw [h]; decide
  have im : dA.imports = [] := by
    rw [Dev.imports, List.filter_eq_nil_iff]
    intro e he
    obtain ⟨n, _, rfl⟩ := List.mem_map.mp he
    simp only [isSet_ne (.fbImpCtl n) rfl, imp_blank]; decide
  have cb : ((List.range 1).map Reg.coreBind).find? (fun r => x.binds.count r.unit != 1 || ((List.range 1).map Reg.coreBind).any (fun s => s != r &&
      (dA.fld (.coreBind s.unit) F.coreBind_CCORE, dA.fld (.coreBind s.unit) F.coreBind_LOCAL) ==
      (dA.fld (.coreBind r.unit) F.coreBind_CCORE, dA.fld (.coreBind r.unit) F.coreBind_LOCAL))) = none := by
    rw [List.find?_eq_none]; intro r hr
    have : r = .coreBind 0 := by simpa using hr
    subst this
    rw [hx]; simp; rfl
  rw [Dev.crossFault]
  simp only [f2, f3, f4, f6, f7, tc, zu, im, nCores_dA, cb]
  simp

theorem crossFault_of (S : List (Reg × (Nat × Nat))) (pre : List (Nat × Nat)) (d : Dev) (h : d = dA) :
    (⟨d, S, [0], pre, []⟩ : ImgAcc).dev.crossFault ⟨d, S, [0], pre, []⟩ = none := by
  have e := crossFault_dA ⟨d, S, [0], pre, []⟩ rfl
  rw [← h] at e
  exact e

theorem wrs_nCores (l : List (Reg × Word)) (d : Dev) (h : ∀ p ∈ l, p.1 ≠ .glCoreCount) : (wrs l d).nCores = d.nCores := by
  induction l generalizing d with
  | nil => rfl
  | cons p t ih =>
    show (wrs t (d.wr p.1 p.2)).nCores = _
    rw [ih _ (fun q hq => h q (List.mem_cons_of_mem _ hq)), Dev.nCores, Dev.fld, Dev.rd_wr_ne _ _ (Ne.symm (h p (List.mem_cons_self ..)))]; rfl

theorem ne_count (p : Reg × Word) (h : p ∈ RA) : p.1 ≠ .glCoreCount := by
  intro e
  have := (keys_RA p.1).mp (List.mem_map_of_mem h)
  rw [e] at this; exact Bool.noConfusion this

theorem full_mask (l : List (Reg × Word)) (h : ∀ p ∈ l, p.1 ≠ .fbTorusId ∧ p.1 ≠ .tgRelay) (P : Reg × Word → Prop) :
    ∀ p ∈ l, p.1.imgMask = 2 ^ 64 - 1 ∨ P p := by
  intro p hp
  obtain ⟨h1, h2⟩ := h p hp
  left
  cases hr : p.1 <;> first | rfl | exact absurd hr h1 | exact absurd hr h2

theorem applySect_recs (banks : List (Nat × List (Nat × Nat × Nat))) (b : List Byte) (ix t off len crc : Nat) (l : List (Reg × Word)) (d : Dev)
    (S0 : List (Reg × (Nat × Nat))) (bs : List Nat) (pre : List (Nat × Nat)) (ht : t ∈ [1, 3, 4, 6, 14]) (hs : sliceB b off len = recs l) (hlen : len = 16 * l.length)
    (hg : ∀ p ∈ l, GoodRec t p) (hcc : ∀ p ∈ l, p.1 ≠ .glCoreCount) (hn : 0 < d.nCores)
    (hm : ∀ p ∈ l, p.1.imgMask = 2 ^ 64 - 1 ∨ (l.length = 1 ∧ d.rd p.1 = 0 ∧ p.2.toNat &&& p.1.imgMask = p.2.toNat)) :
    ∃ S, applySect banks b ⟨ix, t, 1, off, len, crc, 0, 0⟩ ⟨d, S0, bs, pre, []⟩ = (⟨wrs l d, S, bindsOf l bs, pre, []⟩, none) ∧
      ∀ r, (thas r S0 = true ∨ r ∈ l.map Prod.fst) → thas r S = true :=
  applySect_records banks b ⟨ix, t, 1, off, len, crc, 0, 0⟩ l ⟨d, S0, bs, pre, []⟩ ht hs hlen hg hcc hn hm

theorem imgEach_cons {α : Type} (f : α → ImgAcc → ImgRes) (a : α) (t : List α) (x y : ImgAcc) (h : f a x = (y, none)) : imgEach f (a :: t) x = imgEach f t y := by
  rw [imgEach, h]

theorem mask_R7 (d : Dev) (h : d.rd .fbTorusId = 0) :
    ∀ p ∈ R7, p.1.imgMask = 2 ^ 64 - 1 ∨ (R7.length = 1 ∧ d.rd p.1 = 0 ∧ p.2.toNat &&& p.1.imgMask = p.2.toNat) := by
  intro p hp; simp only [R7, List.mem_singleton] at hp; subst hp
  exact Or.inr ⟨rfl, h, by decide +kernel⟩

/-- The whole load of the image succeeds up to its start. -/
theorem apply_imgW (banks : List (Nat × List (Nat × Nat × Nat))) : ∃ x, imgEach (applySect banks imgW) (blankW.sectOrder imgW)
    ⟨blankW, [], [], [(dW.imgAddr, imgW.length)], []⟩ = (x, none) ∧ x.dev.crossFault x = none := by
  have i1 : ∀ p ∈ R1, p ∈ RA := fun p h => by simp only [RA, List.mem_append]; exact Or.inl h
  have i3 : ∀ p ∈ R3, p ∈ RA := fun p h => by simp only [RA, List.mem_append]; exact Or.inr (Or.inl h)
  have i4 : ∀ p ∈ R4, p ∈ RA := fun p h => by simp only [RA, List.mem_append]; exact Or.inr (Or.inr (Or.inl h))
  have i6 : ∀ p ∈ R6, p ∈ RA := fun p h => by simp only [RA, List.mem_append]; exact Or.inr (Or.inr (Or.inr (Or.inl h)))
  have i7 : ∀ p ∈ R7, p ∈ RA := fun p h => by simp only [RA, List.mem_append]; exact Or.inr (Or.inr (Or.inr (Or.inr (Or.inl h))))
  have i14 : ∀ p ∈ R14, p ∈ RA := fun p h => by simp only [RA, List.mem_append]; exact Or.inr (Or.inr (Or.inr (Or.inr (Or.inr h))))
  have c (l : List (Reg × Word)) (i : ∀ p ∈ l, p ∈ RA) : ∀ p ∈ l, p.1 ≠ .glCoreCount := fun p h => ne_count p (i p h)
  have nc (l : List (Reg × Word)) (i : ∀ p ∈ l, p ∈ RA) (d : Dev) (h : 0 < d.nCores) : 0 < (wrs l d).nCores := by rw [wrs_nCores l d (c l i)]; exact h
  have b0 : 0 < blankW.nCores := by rw [blank_facts.1]; decide
  have rt : (wrs R6 (wrs R4 (wrs R3 (wrs R1 blankW)))).rd .fbTorusId = 0 := by
    have v (l : List (Reg × Word)) (i : ∀ p ∈ l, p ∈ RA) : ∀ p ∈ l, p.2 = val p.1 := fun p h => val_RA p (i p h)
    rw [rd_wrs R6 _ _ (v R6 i6), if_neg (by decide), rd_wrs R4 _ _ (v R4 i4), if_neg, rd_wrs R3 _ _ (v R3 i3), if_neg (by decide), rd_wrs R1 _ _ (v R1 i1), if_neg]
    · exact blank_facts.2.2.1
    · intro h; obtain ⟨p, hp, e⟩ := List.mem_map.mp h; obtain ⟨k, _, rfl⟩ := mem_R1 p hp; exact Reg.noConfusion e
    · intro h; obtain ⟨p, hp, e⟩ := List.mem_map.mp h; obtain ⟨k, _, rfl | rfl⟩ := mem_R4 p hp <;> exact Reg.noConfusion e
  rw [order_imgW, sects_imgW]
  obtain ⟨S1, e1, _⟩ := applySect_recs banks imgW 0 1 448 512 (crc32c (recs R1)) R1 blankW [] [] [(dW.imgAddr, imgW.length)] (by decide)
    slice_R1 rfl good_R1 (c R1 i1) b0
    (full_mask R1 (fun p h => by obtain ⟨k, _, rfl⟩ := mem_R1 p h; exact ⟨Reg.noConfusion, Reg.noConfusion⟩) _)
  have b1 := nc R1 i1 _ b0
  obtain ⟨S2, e2, s2⟩ := applySect_recs banks imgW 1 3 960 16 (crc32c (recs R3)) R3 (wrs R1 blankW) S1 [] [(dW.imgAddr, imgW.length)] (by decide)
    slice_R3 rfl good_R3 (c R3 i3) b1
    (full_mask R3 (fun p h => by simp only [R3, List.mem_singleton] at h; subst h; exact ⟨Reg.noConfusion, Reg.noConfusion⟩) _)
  have b2 := nc R3 i3 _ b1
  obtain ⟨S3, e3, s3⟩ := applySect_recs banks imgW 2 4 1024 131072 (crc32c (recs R4)) R4 (wrs R3 (wrs R1 blankW)) S2 [0] [(dW.imgAddr, imgW.length)] (by decide)
    slice_R4 (by rw [length_R4]) good_R4 (c R4 i4) b2
    (full_mask R4 (fun p h => by obtain ⟨k, _, rfl | rfl⟩ := mem_R4 p h <;> exact ⟨Reg.noConfusion, Reg.noConfusion⟩) _)
  have b3 := nc R4 i4 _ b2
  obtain ⟨S4, e4, s4⟩ := applySect_recs banks imgW 3 6 132096 32 (crc32c (recs R6)) R6 (wrs R4 (wrs R3 (wrs R1 blankW))) S3 [0] [(dW.imgAddr, imgW.length)] (by decide)
    slice_R6 rfl good_R6 (c R6 i6) b3
    (full_mask R6 (fun p h => by simp only [R6, List.mem_cons, List.not_mem_nil, or_false] at h; rcases h with rfl | rfl <;> exact ⟨Reg.noConfusion, Reg.noConfusion⟩) _)
  have b4 := nc R6 i6 _ b3
  obtain ⟨S5, e5, s5⟩ := applySect_recs banks imgW 4 6 132160 16 (crc32c (recs R7)) R7 (wrs R6 (wrs R4 (wrs R3 (wrs R1 blankW)))) S4 [0] [(dW.imgAddr, imgW.length)] (by decide)
    slice_R7 rfl good_R7 (c R7 i7) b4
    (mask_R7 _ rt)
  have b5 := nc R7 i7 _ b4
  obtain ⟨S6, e6, s6⟩ := applySect_recs banks imgW 5 14 132224 48 (crc32c (recs R14)) R14 (wrs R7 (wrs R6 (wrs R4 (wrs R3 (wrs R1 blankW))))) S5 [0] [(dW.imgAddr, imgW.length)] (by decide)
    slice_R14 rfl good_R14 (c R14 i14) b5
    (full_mask R14 (fun p h => by simp only [R14, List.mem_cons, List.not_mem_nil, or_false] at h; rcases h with rfl | rfl | rfl <;> exact ⟨Reg.noConfusion, Reg.noConfusion⟩) _)
  have ed : wrs R14 (wrs R7 (wrs R6 (wrs R4 (wrs R3 (wrs R1 blankW))))) = dA := by simp only [dA, RA, wrs_append]
  refine ⟨_, ?_, crossFault_of S6 [(dW.imgAddr, imgW.length)] _ ed⟩
  have nb (l : List (Reg × Word)) (h : ∀ p ∈ l, ∀ c, p.1 ≠ .coreBind c) (bs : List Nat) := bindsOf_none l h bs
  rw [nb R1 (fun p h => by obtain ⟨k, _, rfl⟩ := mem_R1 p h; exact fun _ => Reg.noConfusion)] at e1
  rw [nb R4 (fun p h => by obtain ⟨k, _, rfl | rfl⟩ := mem_R4 p h <;> exact fun _ => Reg.noConfusion)] at e3
  rw [show bindsOf R3 [] = [0] from rfl] at e2
  rw [show bindsOf R6 [0] = [0] from rfl] at e4
  rw [show bindsOf R7 [0] = [0] from rfl] at e5
  rw [show bindsOf R14 [0] = [0] from rfl] at e6
  rw [imgEach_cons _ _ _ _ _ e1, imgEach_cons _ _ _ _ _ e2, imgEach_cons _ _ _ _ _ e3, imgEach_cons _ _ _ _ _ e4, imgEach_cons _ _ _ _ _ e5,
    imgEach_cons _ _ _ _ _ e6, imgEach]

end Sys2Proof.Laws.Image
end

