-- ==== Sys2Proof/WellFormed.lean ====
section
/-! DEFINITION. Which commands are well formed: every operand lies in the range that the spec gives it (queue numbers 09 R235, logical
cores 01 R15, control cores 08, coves 10, ports 12 and 14, register numbers 07 and 08, lengths 12 and 16). -/

namespace Sys2Proof

/-- A queue number (09 R235). -/
def qOk (q : Nat) : Bool := decide (q < 4096)

/-- A logical core number (01 R15). -/
def cOk (c : Nat) : Bool := decide (c < 192)

/-- A control core number (08). -/
def kOk (k : Nat) : Bool := decide (k < 48)

/-- A cove number (01). -/
def vOk (v : Nat) : Bool := decide (v < 32)

/-- A requester: its control core exists. -/
def Req.wf : Req → Bool
  | .host | .custodian => true
  | .sup k | .job k => kOk k

/-- A register number of the control cores (08 R202, R213). -/
def gOk (n : Nat) : Bool := decide (n < 32)

/-- A governing predicate (08 R213). -/
def pgOk (n : Nat) : Bool := decide (n < 8)

/-- The second operand of a long-vector instruction. -/
def CvSrc.wf : CvSrc → Bool
  | .v n | .g n => gOk n

/-- The fields of a vector instruction word fit their bits (07, instruction word). -/
def VxIns.wf (x : VxIns) : Bool :=
  gOk x.vd && gOk x.va && gOk x.vb && gOk x.vc && pgOk x.pg && decide (x.w < 4) && decide (x.rm < 8) && decide (x.fmt < 16) &&
    decide (x.rsv < 8)

/-- The operands of a control-core integer instruction fit their fields. -/
def CcInt.wf : CcInt → Bool
  | .reg _ rd ra rb | .mul _ rd ra rb => gOk rd && gOk ra && gOk rb
  | .imm _ rd ra _ => gOk rd && gOk ra
  | .lui rd _ sh => gOk rd && decide (1 ≤ sh) && decide (sh ≤ 3)
  | .illegal => true

/-- The operands of a branch or jump fit their fields. -/
def CcJump.wf : CcJump → Bool
  | .br _ ra rb _ => gOk ra && gOk rb
  | .jal rd _ => gOk rd
  | .jr ra => gOk ra
  | .jalr rd ra => gOk rd && gOk ra

/-- A valid unit map disables exactly 8 physical cores, or 16 of a CW9-176 part (01 R19). -/
def Board.wf (b : Board) : Bool :=
  !b.unitMapOk || (decide b.disabled.Nodup && b.disabled.all (fun c => decide (c < 192)) &&
    b.disabled.length == (if b.code176 then 16 else 8))

/-- What a start-up finds: link widths, speeds and capacities in range (10 R305), lanes of fabric ports (12, FB_PORT_n). -/
def Boot.wf (b : Boot) : Bool :=
  b.far.all (fun x => decide (x.1 < 4) && decide (x.2.1 ≤ 1024) && decide (x.2.2.1 < 4) && decide (x.2.2.2 < 3)) &&
    b.ports.all (fun x => decide (x.1 < 2) && decide (x.2.1 < 10) && decide (1 ≤ x.2.2) && decide (x.2.2 ≤ 8)) &&
    decide (b.hdm ≤ 4096)

/-- A word in error names a storage (10 R285). -/
def Silicon.wf (x : Silicon) : Bool := x.words.all (fun w => decide (w.kind < 7))

/-- An access size in bytes (08 R206). -/
def sizeOf8 (n : Nat) : Bool := n == 1 || n == 2 || n == 4 || n == 8

/-- An integer width of a conversion (08). -/
def CcCvt.wf : CcCvt → Bool
  | .f64to32 | .f32to64 => true
  | .toInt _ b _ | .ofInt _ b _ => b == 8 || b == 16 || b == 32 || b == 64

/-- The source of a cove access names a control core that exists, a hint and a priority in use (10 R275, R279). -/
def CoveSrc.wf : CoveSrc → Bool
  | .controlCore k _ h => kOk k && decide (h < 4)
  | .mover h p => decide (h < 4) && decide (p < 3)
  | _ => true

/-- 12 R337: a packet covers from 8 to 256 bytes of whole words within one 256-byte unit; an atomic covers its word. -/
def MpPacket.wf (m : MpPacket) : Bool :=
  let n := match m.kind with
    | .read n => n
    | .write bs => bs.length
    | .atomic _ _ _ => 8
  decide (m.src < 64) && decide (m.off < 2 ^ 42) && decide (m.seq < 2 ^ 32) && decide (1 ≤ n) && n % 8 == 0 &&
    decide (m.off % 256 + n ≤ 256)

/-- 12 R356: torus identifiers have 14 bits; a collective's stream is one of four (13 R376). -/
def TorusPacket.wf (m : TorusPacket) : Bool :=
  decide (m.src < 2 ^ 14) && decide (m.dst < 2 ^ 14) && decide (m.vc < 4) && (match m.stream with
    | some s => decide (s < 4)
    | none => true)

/-- 13 R371, R389: a packet of a collective names a group, a stream, an axis and a phase. -/
def CollPacket.wf (m : CollPacket) : Bool :=
  decide (m.group < 64) && decide (m.stream < 4) && decide (m.axis < 3) && decide (m.phase < 2)

/-- The unit of an invalidation. -/
def XlatUnit.wf : XlatUnit → Bool
  | .core c => cOk c
  | .cc k => kOk k

/-- A compared unit: the gate, or a slot of a plant port's scheduler. -/
def CmpUnit.wf : CmpUnit → Bool
  | .gate => true
  | .sched p n => decide (p < 2) && decide (n < 64)

/-- A command is well formed. -/
def Instr.wf : Instr → Bool
  -- the tide and power
  | .encoderEdge t _ _ => decide (1 ≤ t.keep)
  | .markFire _ m => decide (m < 256)
  | .phaseCompletionReport who e => decide (who < 2 ^ 14) && decide (e < 8)
  | .zEdge t => decide (1 ≤ t.keep)
  | .encoderLevelLoss _ | .mainsPulse _ _ | .pllLockLoss | .ppsEdge _ | .ppsMissingLoss _ => true
  | .stoppedCountsLoss _ | .coastEnd _ | .tideCycleStart _ | .shortCycleHoldEnd _ | .freePhaseComplete => true
  | .tideLock _ _ | .lockTimeout _ | .relaySend _ | .relayMessage _ _ | .relayLoss _ => true
  | .powerThrottle _ _ | .openClockStep _ _ => true
  | .resume req | .tideStep req | .remeasure req _ | .forceStop req | .ptpLoss req => req.wf
  | .tgPtimeStepWrite req _ | .tgPtimeAdjWrite req _ => req.wf
  -- queue commands
  | .tgStep q | .tgStop q | .svBind q | .svSigload q | .ccCall q | .routineInvalid q | .commandCompletion q => qOk q
  | .cqNop q | .cqPatchfence q | .cqLoop q | .cqEndloop q | .cqRecord q | .segmentCopy q | .cqEndrec q | .cqReplay q => qOk q
  | .cqSwapbank q | .fbAmo q | .fbSend q _ | .fbRecv q | .headerResend q _ | .fbNop q | .fbAllreduce q => qOk q
  | .fbRscat q | .fbAgather q | .fbBcast q | .fbBarrier q | .ppFbload q | .ppSend q _ | .coreSoundCommand q => qOk q
  | .checkReexecution q _ => qOk q
  | .sgMm q x | .sgMmb q x | .svFactor q x | .svSolve q x | .svFsolve q x | .dmDelta q x | .dmDense q x => qOk q && x.wf
  | .vectorCommand q x | .dmCopy q x | .dmStride q x | .dmGather q x | .dmScatter q x => qOk q && x.wf
  | .bmeSgd q x | .bmeAdamw q x | .bmeRowada q x => qOk q && x.wf
  | .doorbellWrite req q _ | .cqResume req q | .cqStop req q => req.wf && qOk q
  | .signalCounterWrite req n _ => req.wf && decide (n < 65536)
  -- vector engine
  | .vxLd c x | .vxSt c x | .vxFloatArithmetic c _ x | .vxFloatCompare c _ x | .vxInteger c _ x => cOk c && x.wf
  | .vxShiftLogic c _ x | .vxMove c _ x | .vxReduction c _ x | .vxCvt c _ x | .vxScale c x | .vxSmry c x => cOk c && x.wf
  | .vxLoop c x | .vxEndloop c x | .vxEnd c x | .vxScalarControl c _ x => cOk c && x.wf
  | .mailboxPost c | .bankVerifyEnd c _ _ | .fenceReport c | .soundResult c _ => cOk c
  | .rngRegisterWrite req c j _ => req.wf && cOk c && decide (j < 4)
  | .routineBankWrite req c bank off _ => req.wf && cOk c && decide (bank < 2) && decide (off < 262144)
  | .verify req c | .soundingTestGo req c _ => req.wf && cOk c
  | .fenceGo req c _ => req.wf && decide (c < 256)
  | .inj req c u n => req.wf && decide (c < 256) && decide (u < 6) && decide (1 ≤ n) && decide (n ≤ 2)
  -- control cores
  | .ccIntegerOp k x => kOk k && x.wf
  | .ccLoad k _ size _ _ rd ra _ => kOk k && sizeOf8 size && gOk rd && gOk ra
  | .ccStore k size _ rb ra _ => kOk k && sizeOf8 size && gOk rb && gOk ra
  | .ccAtomic k _ rd ra rb rc => kOk k && gOk rd && gOk ra && gOk rb && gOk rc
  | .ccBranch k x => kOk k && x.wf
  | .ccFloatOp k _ _ rm rd ra rb rc => kOk k && decide (rm < 8) && gOk rd && gOk ra && gOk rb && gOk rc
  | .ccFloatConvert k op rm rd ra => kOk k && op.wf && decide (rm < 8) && gOk rd && gOk ra
  | .ccSys k | .ccBrk k | .ccTret k | .ccFence k | .ccWfi k | .interrupt k => kOk k
  | .mbwaitDeadline k _ | .cctakeDeadline k _ => kOk k
  | .srRd k r _ => kOk k && gOk r
  | .srWr k _ r => kOk k && gOk r
  | .mbwait k rd ra rb => kOk k && gOk rd && gOk ra && gOk rb
  | .mbtake k rd re n => kOk k && gOk rd && gOk re && decide (n < 64)
  | .cctake k rd rb => kOk k && gOk rd && gOk rb
  | .ccarg k rd rs n => kOk k && gOk rd && gOk rs && decide (n < 8)
  | .ccdone k rs re => kOk k && gOk rs && gOk re
  | .setvl k rd ra _ => kOk k && gOk rd && gOk ra
  | .vld k vd ra pg | .vst k vd ra pg => kOk k && gOk vd && gOk ra && pgOk pg
  | .vectorAlu k _ vd va b pg => kOk k && gOk vd && gOk va && b.wf && pgOk pg
  | .vectorMultiply k _ vd va b pg => kOk k && gOk vd && gOk va && b.wf && pgOk pg
  | .fixedPointOp k _ vd va b pg => kOk k && gOk vd && gOk va && b.wf && pgOk pg
  | .vectorReduction k _ vd va vb pg => kOk k && gOk vd && gOk va && gOk vb && pgOk pg
  | .restart req k | .dbSet req k => req.wf && kOk k
  -- coves and far tier
  | .coveAccess src addr wr len _ => src.wf && decide (addr < 2 ^ 56) && decide (1 ≤ (wr.map List.length).getD len)
  | .bulkPromotion w => vOk w.cove
  | .stackThrottleEval v | .dramRefresh v => vOk v
  | .patrolScrub v a _ _ => vOk v && decide (a < 2 ^ 56)
  | .stackTempSample v a b c d => vOk v && decide (a < 256) && decide (b < 256) && decide (c < 256) && decide (d < 256)
  | .junctionThrottle v a b => vOk v && decide (a < 256) && decide (b < 256)
  | .unkeep req v => req.wf && vOk v
  | .xlatInv req u => req.wf && u.wf
  | .farPortDown p | .farTierAerEvent p _ _ => decide (p < 4)
  -- fabric and collectives
  | .memoryPlaneAccessReceive m => m.wf
  | .remoteAtomic | .sendPayloadDone _ | .segmentAdmission | .remoteReadResponse _ _ => true
  | .acknowledgementSend slot => decide (slot < 64)
  | .acknowledgementReceive slot n => decide (slot < 64) && decide (n < 2 ^ 32)
  | .rackPathDown p => decide (p < 8)
  | .torusPortDown die port => decide (die < 2) && decide (port < 6)
  | .linkLevelRetransmission die port => decide (die < 2) && decide (port < 10)
  | .torusPacketHop m => m.wf
  | .fbPeerDeadWrite req _ => req.wf
  | .messageHeaderArrival die src _ len _ => decide (die < 2) && decide (src < 2 ^ 14) && decide (len < 2 ^ 32)
  | .messageReceiveDone die _ => decide (die < 2)
  | .triggeredOperation g _ x => decide (g < 64) && decide (x.stream < 4)
  | .collectivePacketArrival m => m.wf
  | .abortToken g => decide (g < 64)
  | .fbGstatAbort req g | .fbGstatReset req g => req.wf && decide (g < 64)
  -- plant ports
  | .slotCommit _ p n _ | .keepAliveSend _ p n => decide (p < 2) && decide (n < 64)
  | .frameReceive _ p _ _ | .plantLinkDown p | .plantLinkUp p => decide (p < 2)
  -- the image, host link and start-up
  | .imgLoad req _ | .unload req | .bcastSend req _ | .featLock req | .hlHostDbWrite req _ | .biasFlip req _ _ => req.wf
  | .registerWrite req off size _ => req.wf && decide (off < 0x40000000) && sizeOf8 size
  | .identity req len | .attest req len | .ownerSet req len _ | .mgmt req len _ => req.wf && decide (len < 65536)
  | .mailboxBadRequest req cmd len => req.wf && (cmd == 0 || decide (4 < cmd)) && decide (cmd < 256) && decide (len < 65536)
  | .powerGood b x => b.wf && x.wf
  | .hostless | .hostLinkDown | .hostLinkUp | .identityTreesBuilt _ => true
  | .chunkReceive root _ n _ => decide (root < 2 ^ 14) && decide (n < 16384)
  | .chunkTimeout | .broadcastDiscardNotice | .bcastStart _ => true
  | .broadcastAcknowledgement child _ | .broadcastResendRequest child => decide (child < 2 ^ 14)
  -- dependability
  | .custodianEvent | .custodianError _ | .resetN | .perstN _ => true
  | .tideCmp u _ => u.wf
  | .supplyWarn v | .supplyWarnClear v | .supplyReset v | .powerDown v => decide (v < 65536)
  -- counters and folios
  | .recordResume | .replayDeliver _ | .snapshotWrite | .folioTrigger | .leafCopy | .folioCommit | .folioValid | .restoreEnd => true
  | .replayGo req kinds => req.wf && decide (kinds < 64)
  | .armOff req | .snap req | .folioGo req | .folioAbort req | .restore req _ _ | .minClr req => req.wf
  | .folioRequest x => decide (x < 2 ^ 64)
  | .abandonNotice _ cause => decide (cause < 16)
  | .restoreChoice rank _ => decide (rank < 64)
  | .restoreAnnouncement _ lost _ => lost.all (fun r => decide (r < 64))
  -- management port
  | .healthSummary => true
  | .healthGet tag | .mgmtReset tag | .managementAttest tag _ | .managementOwnerSet tag _ _ => decide (tag < 256)
  | .fenceCore tag c _ | .sound tag c _ => decide (tag < 256) && decide (c < 256)
  | .setCap tag cap floor => decide (tag < 256) && decide (cap < 65536) && decide (floor < 65536)
  | .setThresh tag warn rst => decide (tag < 256) && decide (warn < 256) && decide (rst < 256)
  | .logFetch tag first count => decide (tag < 256) && decide (first < 65536) && decide (count < 256)
  | .reparent tag id | .addChild tag id | .dropChild tag id => decide (tag < 256) && decide (id < 65536)
  | .mctpControl m => (match m with
    | .setEid e => decide (e < 256)
    | _ => true)
  | .pldmMonitoring _ | .pldmFirmwareUpdate _ => true
  | .i3cDynamicAddressAssignment a => decide (a < 128)

end Sys2Proof
end

