-- ==== Sys2Proof/Tests/Slice0.lean ====
section
/-! SUPPORT. The model's own tests: ill-formed commands, states that meet the hypotheses of the statements, and single steps on small
states whose expected results come from the spec's tables and rules. -/

namespace Sys2Proof.Tests

set_option Elab.async false

open Sys2Proof.Machine

/-! ### Helpers -/

/-- The package at reset. -/
def D : Dev := {}

/-- A state with nothing waiting. -/
def W (d : Dev) : State := ⟨d, []⟩

/-- The package after a command. -/
def after (c : Instr) (d : Dev) : Dev :=
  match exec c (W d) with
  | .next t => t.dev
  | _ => D

/-- The tide gate in state `st` with source `src`. -/
def tided (st src : Nat) : Dev := (D.setFld .tgStatus F.tgStatus_STATE st).setFld .tgSrcCfg F.tgSrcCfg_SRC src

/-- A vector instruction word with every field zero. -/
def vx0 : VxIns := ⟨0, 0, 0, 0, 0, false, 0, 0, 0, false, false, false, false, 0, 0⟩

/-- Descriptor words: routine, parameter block, signal counter and increment, ARG0 and ARG1. -/
def desc (rtn pblk ctr inc a0 a1 : Nat) : List Word :=
  [BitVec.ofNat 64 (rtn + pblk * 2 ^ 16 + ctr * 2 ^ 32 + inc * 2 ^ 48), 0, 0, 0, BitVec.ofNat 64 a0, BitVec.ofNat 64 a1, 0, 0]

/-- Queue 0 bound to agent kind `k`, target 0, with one ready descriptor in a ring at stacked address 0, in a phase that runs every engine. -/
def queued (k : Nat) (ws : List Word) (d : Dev) : Dev :=
  let d := ((d.setFld .tgStatus F.tgStatus_KIND 3).setFld (.cqBind 0) F.cqBind_KIND k).setFld (.cqRing 0) F.cqRing_LOG2SIZE 6
  let d := (d.setFld (.cqDoorbell 0) F.cqDoorbell_TAIL 1).setQueue 0 { mode := .on }
  { d with mem := Mem.write 0 (ws.flatMap (fun w => bytesOf 8 w.toNat)) d.mem }

/-- Parameter words of block 0 of core 0. -/
def params (ws : List (Nat × Nat)) (d : Dev) : Dev := ws.foldl (fun d p => d.wr (.coreParam 0 0 p.1) (BitVec.ofNat 64 p.2)) d

/-- Queue 0 with a running command of serial 1 and the given descriptor and run. -/
def running (k : Nat) (r : Run) (d : Dev) : Dev :=
  (d.setFld (.cqBind 0) F.cqBind_KIND k).setQueue 0 { mode := .on, runs := [r] }

/-- A run of serial 1. -/
def run1 (ws : List Word) : Run := { serial := 1, slot := 0, desc := ws, params := [] }

/-! ### Ill-formed commands: one for each check -/

theorem test_wf_queue : (Instr.cqNop 4096).wf = false := rfl
theorem test_wf_core : (Instr.mailboxPost 192).wf = false := rfl
theorem test_wf_control_core : (Instr.ccSys 48).wf = false := rfl
theorem test_wf_requester : (Instr.forceStop (.job 48)).wf = false := rfl
theorem test_wf_register : (Instr.mbtake 0 32 0 0).wf = false := rfl
theorem test_wf_predicate : (Instr.vld 0 1 1 8).wf = false := rfl
theorem test_wf_source : (Instr.vectorAlu 0 .vadd 1 1 (.g 32) 0).wf = false := rfl
theorem test_wf_vector_word : (Instr.vxLd 0 { vx0 with w := 4 }).wf = false := rfl
theorem test_wf_lui : (Instr.ccIntegerOp 0 (.lui 1 0 4)).wf = false ∧ (Instr.ccIntegerOp 0 (.lui 1 0 3)).wf = true := by decide
theorem test_wf_jump : (Instr.ccBranch 0 (.jr 32)).wf = false := rfl
theorem test_wf_size : (Instr.ccLoad 0 0 3 false false 1 1 0).wf = false := rfl
theorem test_wf_convert : (Instr.ccFloatConvert 0 (.toInt true 24 true) 0 1 1).wf = false := rfl
theorem test_wf_encoder : (Instr.encoderEdge ⟨0, 0⟩ true true).wf = false ∧ (Instr.zEdge ⟨0, 0⟩).wf = false := ⟨rfl, rfl⟩
theorem test_wf_silicon : (Instr.sgMm 0 ⟨none, [⟨7, 0, true, 0⟩]⟩).wf = false := rfl
theorem test_wf_mark : (Instr.markFire 0 256).wf = false := rfl
theorem test_wf_cove_source : (Instr.coveAccess (.mover 4 0) 0 none 8 {}).wf = false := rfl
theorem test_wf_cove_length : (Instr.coveAccess .host 0 none 0 {}).wf = false := rfl
theorem test_wf_cove : (Instr.dramRefresh 32).wf = false := rfl
theorem test_wf_bank : (Instr.routineBankWrite .host 0 2 0 0).wf = false := rfl
theorem test_wf_injection : (Instr.inj .host 0 6 1).wf = false := rfl
theorem test_wf_invalidation : (Instr.xlatInv .host (.cc 48)).wf = false := rfl
theorem test_wf_slot : (Instr.acknowledgementSend 64).wf = false := rfl
theorem test_wf_path : (Instr.rackPathDown 8).wf = false := rfl
theorem test_wf_port : (Instr.torusPortDown 0 6).wf = false := rfl
theorem test_wf_group : (Instr.abortToken 64).wf = false := rfl
theorem test_wf_packet : (MpPacket.mk 0 0 0 0 8 (.read 249) false).wf = false ∧ (MpPacket.mk 0 0 0 0 8 (.read 248) false).wf = true := by decide
theorem test_wf_torus : (TorusPacket.mk 0 0 4 none 0).wf = false := rfl
theorem test_wf_collective : (CollPacket.mk 0 0 0 0 0 0 0 0 3 0 0 [] false).wf = false := rfl
theorem test_wf_plant : (Instr.plantLinkUp 2).wf = false := rfl
theorem test_wf_register_write : (Instr.registerWrite .host 0x40000000 8 0).wf = false := rfl
theorem test_wf_mailbox : (Instr.mailboxBadRequest .host 4 0).wf = false := rfl
theorem test_wf_chunk : (Instr.chunkReceive 0 0 16384 []).wf = false := rfl
theorem test_wf_compare : (Instr.tideCmp (.sched 2 0) false).wf = false := rfl
theorem test_wf_supply : (Instr.supplyWarn 65536).wf = false := rfl
theorem test_wf_replay : (Instr.replayGo .host 64).wf = false := rfl
theorem test_wf_rank : (Instr.restoreChoice 64 0).wf = false := rfl
theorem test_wf_tag : (Instr.healthGet 256).wf = false := rfl
theorem test_wf_eid : (Instr.mctpControl (.setEid 256)).wf = false := rfl
theorem test_wf_address : (Instr.i3cDynamicAddressAssignment 128).wf = false := rfl

/-! ### Steps, reset -/

theorem test_step_front : step ⟨D, [.plantLinkUp 0, .resetN]⟩ = exec (.plantLinkUp 0) ⟨D, [.resetN]⟩ := rfl
theorem test_step_idle : step (W D) = .next (W (D.elapse 1)) := rfl
theorem test_core : Sys2Proof.core.reset = State.reset := rfl
theorem test_no_bits : Sys2Proof.decodeTableWord 32 0xFFFFFFFF = none ∧ State.reset.withFetchWord 32 1 = State.reset := ⟨rfl, rfl⟩
/-- 01 table of GL_PWR_CAP, 08 table of CC_STATUS: reset values. -/
theorem test_reset_values : (D.rd .glPwrCap).toNat = 3400 + 2400 * 2 ^ 32 ∧ (D.rd (.ccStatus 5)).toNat = 33 := by decide +kernel
theorem test_reset_inv : State.reset.dev.Inv := by unfold Dev.Inv Dev.memWf Dev.custWf; decide +kernel

/-- The first GiB mapped onto itself for core 0 and control core 0. -/
def mapped (d : Dev) : Dev :=
  let d := { d with mem := Mem.write 0x10000 (bytesOf 8 0x11003) (Mem.write 0x11000 (bytesOf 8 0x1D) d.mem) }
  (d.wr (.coreXlatRoot 0) 0x10000).wr (.ccXlatRoot 0) 0x10000

/-- A valid signature of operation 0 with n = m = 1 (06, its SHA-256 identifier and CRC-32C checked by hand). -/
def sigB : List Byte :=
  ([0x131575343, 0x787166c6e258da5d, 0x10100000000b8, 0x1000000010001, 0x0, 0x0, 0x1009000090080, 0x100a000010098, 0xb8000000b8, 0xb8,
    0, 0, 0, 0, 0, 0, 0x101000001, 0x1, 0x0, 0x0, 0x8004, 0x800000000000, 0x0] : List Nat).flatMap (bytesOf 8)

/-- Core store bytes of core 0. -/
def stored (a : Nat) (bs : List Byte) (d : Dev) : Dev :=
  d.setCore 0 { d.core 0 with store := Mem.write a bs (d.core 0).store }

/-! ### Hashes evaluated step by step -/

/-- `k x`, with `x` evaluated first. -/
def force {α : Type} (x : BitVec 32) (k : BitVec 32 → α) : α :=
  Nat.rec (k 0) (fun n _ => k (BitVec.ofNat 32 (n + 1))) x.toNat

theorem force_eq {α : Type} (x : BitVec 32) (k : BitVec 32 → α) : force x k = k x := by
  unfold force
  rcases h : x.toNat with _ | n
  · exact congrArg k (BitVec.eq_of_toNat_eq (by simp [h]))
  · exact congrArg k (BitVec.eq_of_toNat_eq (by simp [← h]))

/-- The same for a list. -/
def forceL {α : Type} : List (BitVec 32) → (List (BitVec 32) → α) → α
  | [], k => k []
  | x :: t, k => force x (fun y => forceL t (fun u => k (y :: u)))

theorem forceL_eq {α : Type} (l : List (BitVec 32)) (k : List (BitVec 32) → α) : forceL l k = k l := by
  induction l generalizing k with
  | nil => rfl
  | cons x t ih => simp only [forceL, force_eq, ih]

/-- The CRC-32C register after some bytes. -/
def crcF : List Byte → BitVec 32 → BitVec 32
  | [], c => c
  | b :: t, c => force (crcByte c b) (crcF t)
theorem foldl_crcByte_eq_crcF (l : List Byte) (c : BitVec 32) : l.foldl crcByte c = crcF l c := by
  induction l generalizing c with
  | nil => rfl
  | cons b t ih => simp only [List.foldl_cons, crcF, force_eq, ih]

/-- The rounds of one block. -/
def roundsF : List (BitVec 32) → ShaWork → ShaWork
  | [], s => s
  | k :: t, s => forceL (s.round k).win (fun w => forceL (s.round k).top (fun a => forceL (s.round k).low (fun e => roundsF t ⟨w, a, e⟩)))
theorem foldl_round_eq_roundsF (l : List (BitVec 32)) (s : ShaWork) : l.foldl ShaWork.round s = roundsF l s := by
  induction l generalizing s with
  | nil => rfl
  | cons k t ih => simp only [List.foldl_cons, roundsF, forceL_eq, ih]

/-- FIPS 180-4: the digest of "abc"; the check value of CRC-32C. -/
theorem test_sha256 : sha256 [0x61, 0x62, 0x63] = beBytes 32 0xBA7816BF8F01CFEA414140DE5DAE2223B00361A396177A9CB410FF61F20015AD := by
  have h (m : List Byte) : shaBlocks 1 shaH m = List.zipWith (· + ·) shaH
      ((roundsF shaK ⟨blockWords (m.take 64), shaH.take 4, shaH.drop 4⟩).top ++
        (roundsF shaK ⟨blockWords (m.take 64), shaH.take 4, shaH.drop 4⟩).low) := by
    rw [← foldl_round_eq_roundsF]; rfl
  have n (m : List Byte) (e : (m ++ [0x80] ++ zeros ((119 - m.length % 64) % 64) ++ beBytes 8 (8 * m.length)).length / 64 = 1) :
      sha256 m = (shaBlocks 1 shaH (m ++ [0x80] ++ zeros ((119 - m.length % 64) % 64) ++ beBytes 8 (8 * m.length))).flatMap
        (fun w => beBytes 4 w.toNat) := by rw [sha256, e]
  rw [n _ (by decide +kernel), h]; decide +kernel
theorem test_crc32c : crc32c ((List.range 9).map (fun j => BitVec.ofNat 8 (0x31 + j))) = 0xE3069283 := by
  simp only [crc32c, foldl_crcByte_eq_crcF]; decide +kernel

/-- No slot is dead where FB_PEER_DEAD reads 0. -/
theorem slotDead_of_zero (d : Dev) (h : d.rd .fbPeerDead = 0) (k : Nat) : d.slotDead k = false := by simp [Dev.slotDead, bit, h]

/-- A package of 192 logical cores. -/
def C192 : Dev := D.setFld .glCoreCount F.glCoreCount_LOGICAL 192

/-- Control core 0 running at 0x1000 with g registers, in supervisor mode if `sup`. -/
def ccD (sup : Nat) (gs : List (Nat × Nat)) : Dev :=
  let d := ((mapped D).setFld (.ccStatus 0) F.ccStatus_HALT 0).setFld (.ccStatus 0) F.ccStatus_PRIV sup
  (d.wr (.ccTvec 0) 0x2000).setCc 0 { pc := 0x1000, g := gs.map (fun p => (p.1, BitVec.ofNat 64 p.2)) }

/-- Values of g1 and g2. -/
def ccG (a b : Nat) : Dev := ccD 0 [(1, a), (2, b)]

/-- The package with every feature of the first word accepted and locked. -/
def featured (d : Dev) : Dev := (d.setFld .hlFeatCtl F.hlFeatCtl_LOCKED 1).wr (.hlFeatAccept 0) (BitVec.allOnes 64)

/-! ### The tide (02) -/

/-- The tide locked on encoder counts that come every 100 cycles. -/
def encT : Dev := (tided 2 0).setTide { ivals := [100], arrived := 9, len := 10, lastAny := 0 }

theorem test_hyps_source_loss : (tided 2 0).tideState = 2 ∧ (tided 2 0).tideSrc = 0 ∧ (tided 2 0).replayed 1 = false ∧
    ((tided 2 0).setFld .tgSrcCfg F.tgSrcCfg_ZCHECK 1).flag .tgSrcCfg F.tgSrcCfg_ZCHECK = true ∧ (tided 2 1).tideSrc = 1 ∧
    (tided 2 2).tideSrc = 2 ∧ (tided 2 2).tide.ppsAt + 3000000000 < (tided 2 2).cycle + 3000000001 ∧
    ((encT.setFld .tgLoss F.tgLoss_FACTOR 2).elapse 200).countsStopped = true ∧ (tided 2 2).exists .tgCmd = true ∧
    (tided 2 2).mayWrite .host .tgCmd 16 = true ∧ (tided 2 5).tideSrc = 5 ∧ (tided 2 5).tide.relayPt + 40000 * nsUnit ≤ ((tided 2 5).elapse 80000).ptime := by
  decide +kernel
/-- R60, R568: one cycle before FACTOR times the last interval the source is not lost. -/
theorem test_source_loss_boundary : ((encT.setFld .tgLoss F.tgLoss_FACTOR 2).elapse 199).countsStopped = false := by decide +kernel
/-- R68: 40 us without a relay message are 80,000 cycles. -/
theorem test_relay_loss : (after (.relayLoss 79999) (tided 2 5)).tideState = 2 ∧ (after (.relayLoss 80000) (tided 2 5)).tideState = 3 := by
  decide +kernel

theorem test_hyps_tide_inputs : (tided 1 0).tideState ≠ 0 ∧ (tided 1 0).replayed 1 = false ∧
    (tided 1 0).filtered 1 = true ∧ ((tided 1 0).setFld .tgSrcCfg F.tgSrcCfg_FILT 5).filtered 1 = false ∧
    ((tided 2 0).tideState = 2 ∧ (tided 2 0).filtered 1 = true ∧ true ≠ (tided 2 0).tide.encA ∧ true ≠ (tided 2 0).tide.encB) ∧
    (tided 1 0).decodes true true = true ∧ (true != (tided 1 0).tide.encA) ≠ (false != (tided 1 0).tide.encB) ∧
    ((tided 1 0).tideSrc = 0 ∧ ((tided 1 0).tide.anySeen = true → (tided 1 0).tide.lastAny + 40 ≤ (tided 1 0).cycle + 0)) ∧
    ((tided 1 1).tideSrc = 1 ∧ ((tided 1 1).setTide { mainsSeen := true }).tide.mainsSeen = true) ∧
    ((tided 2 2).tideSrc = 2 ∧ (tided 2 2).tide.epoch = none ∧ (tided 2 2).tideState = 2) := by decide +kernel
/-- R36: a forward count pays off the reverse debt before the tide count moves. -/
theorem test_reverse_debt : (after (.encoderEdge ⟨100, 1⟩ true false) (encT.setTide { encT.tide with debt := 1 })).tide.debt = 0 ∧
    (after (.encoderEdge ⟨100, 1⟩ true false) (encT.setTide { encT.tide with debt := 1 })).tide.count = 0 ∧
    (after (.encoderEdge ⟨100, 1⟩ true false) encT).tide.count = 65536 := by decide +kernel
/-- R35: FILT 1 is 10 ns, 20 samples of 0.5 ns. -/
theorem test_glitch_filter : [19, 20].map (fun k => (after (.encoderEdge ⟨100, k⟩ true false) (encT.setFld .tgSrcCfg F.tgSrcCfg_FILT 1)).tide.src) =
    [0, 65536] := by decide +kernel
/-- R38: a mains period outside 45 to 65 Hz is a source loss. -/
theorem test_mains_period : (after (.mainsPulse 30769230 true) ((tided 2 1).setTide { mainsSeen := true })).tideState = 3 ∧
    (after (.mainsPulse 30769231 true) ((tided 2 1).setTide { mainsSeen := true })).tideState = 2 := by decide +kernel

/-- A follower in coast that has measured its hop and had 3 messages, the last with the master's state `st`. -/
def followT (st : Nat) : Dev := (tided 3 5).setTide { hop := some 0, relayMsgs := 3, relayState := st }
/-- R68: a follower stays in coast while its master does. -/
theorem test_follower_resume : (followT 2).acquired = true ∧ (followT 2).tide.noPos = false ∧ (followT 2).mayWrite .host .tgCmd 1 = true ∧
    [2, 3].map (fun n => (after (.resume .host) (followT n)).tideState) = [2, 3] := by decide +kernel

/-- A locked free tide of 4 counts with an enabled mark 0 at offset 0 and mark 1 at count 2, and phase entries that start with them. -/
def freeT : Dev :=
  let d := (tided 2 4).setTide { len := 4, phase := some 0, fired := [0] }
  let d := ((d.setFld (.tgMark 0) F.tgMark_EN 1).setFld (.tgMark 1) F.tgMark_EN 1).setFld (.tgMark 1) F.tgMark_WHOLE 2
  (d.setFld .tgCtl F.tgCtl_NPHASE 2).setFld (.tgPhase 1) F.tgPhase_MARK 1

/-- The same at its cycle end. -/
def endT : Dev := freeT.setTide { freeT.tide with count := 4 * 65536, fired := [0, 1] }

theorem test_hyps_tide_cycles :
    ((tided 1 3).tideState = 1 ∧ (((tided 1 3).elapse 1).measureHop 0).acquired = true) ∧
    ((tided 4 3).tideState = 4 ∧ (tided 4 3).acquired = true ∧ (tided 4 3).tide.noPos = false ∧ (tided 4 3).exists .tgCmd = true ∧
      (tided 4 3).mayWrite .host .tgCmd 1 = true) ∧
    ((endT.elapse 0).cycleDue = true ∧ (endT.elapse 0).coastDue = false) ∧
    (((endT.setTide { endT.tide with hold := true }).elapse 40000).tide.hold = true ∧ endT.tideState = 2 ∧
      endT.tide.cycAt + floor20 ≤ (endT.elapse 40000).ptime) ∧
    (freeT.tideState = 2 ∧ ((freeT.setTide { freeT.tide with count := 2 * 65536 }).elapse 0).markDue 1 = true) := by decide +kernel
/-- R47: the 20 us floor is 40,000 cycles. -/
theorem test_short_cycle : (after (.shortCycleHoldEnd 39999) (endT.setTide { endT.tide with hold := true })).tide.hold = true ∧
    (after (.shortCycleHoldEnd 40000) (endT.setTide { endT.tide with hold := true })).tide.hold = false := by decide +kernel
/-- R54: a mark fires once in a cycle, when the position first reaches its offset. -/
theorem test_mark_fires_once : (after (.markFire 0 1) (freeT.setTide { freeT.tide with count := 2 * 65536 })).tide.fired = [1, 0] ∧
    (after (.markFire 0 1) endT).tide.fired = [0, 1] := by decide +kernel

/-- A locked free tide whose control core 0 may command it, with a ready tide command in queue 0. -/
def freeQ (rtn : Nat) : Dev := queued 8 (desc rtn 0 0 0 0 0) (freeT.setFld (.ccJobPerm 0) F.ccJobPerm_TIDE 1)

theorem test_hyps_tide_stops_and_free :
    ((((endT.setFld .tgStatus F.tgStatus_STATE 3).setTide { endT.tide with coastLeft := 1 }).elapse 0).coastDue = true) ∧
    ((tided 1 1).tideState = 1 ∧ ((tided 1 1).elapse 100000000000).acquired = false ∧
      (tided 1 1).tide.acqAt + (tided 1 1).lfld .tgLoss F.tgLoss_LOCK_TO * 2000000000 ≤ (tided 1 1).cycle + 100000000000) ∧
    ((freeQ 0xA01).tideState = 2 ∧ (freeQ 0xA01).startable 0 0xA01 = some (desc 0xA01 0 0 0 0 0) ∧ (freeQ 0xA01).tideDenied 0 = false) ∧
    (freeT.tideState = 2 ∧ freeT.tideSrc = 4 ∧ freeT.tide.hold = false ∧ freeT.tidePos < freeT.nextStop ∧ freeT.nextStop < 2 ^ 63 ∧
      freeT.nextStop < freeT.tideLen ∧ freeT.exists .tgCmd = true ∧ freeT.mayWrite .host .tgCmd 2 = true) ∧
    ((freeQ 0xA00).startable 0 0xA00 = some (desc 0xA00 0 0 0 0 0) ∧ (freeQ 0xA00).tideDenied 0 = false ∧ (freeQ 0xA00).nextStop = 2 * 65536) ∧
    ((freeT.setFld (.tgPhase 0) F.tgPhase_DONE_EN 1).phaseComplete = true ∧ (freeT.setFld (.tgPhase 0) F.tgPhase_DONE_EN 1).allReported = true) ∧
    ((freeT.setFld .tgStatus F.tgStatus_MASTER 1).flag .tgStatus F.tgStatus_MASTER = true ∧ freeT.phaseComplete = false) := by
  decide +kernel
/-- R57: STEP jumps to the next phase's starting mark, then to the cycle end; R64 and R57: neither acts in STOP. -/
theorem test_free_tide_step : (after (.tideStep .host) freeT).tide.count = 2 * 65536 ∧
    (after (.tideStep .host) (freeT.setFld .tgStatus F.tgStatus_STATE 4)).tide.count = 0 ∧ (after (.tgStep 0) (freeQ 0xA00)).tide.count = 131072 := by
  decide +kernel
theorem test_force_stop : (after (.forceStop .host) (tided 3 0)).tideState = 4 ∧ (after (.forceStop .host) (tided 1 0)).tideState = 1 ∧
    (tided 3 0).exists .tgCmd = true ∧ (tided 3 0).mayWrite .host .tgCmd 8 = true ∧ (after (.tgStop 0) (freeQ 0xA01)).tideState = 4 := by
  decide +kernel

/-- A locked open phase of clock 10, with 3 steps cut. -/
def openT : Dev := ((tided 2 0).setFld .tgStatus F.tgStatus_KIND 3).setTide { phase := some 0, openClk := 10, cut := 3 }

theorem test_hyps_package_time : (D.exists .tgPtimeStep = true ∧ D.mayWrite .host .tgPtimeStep 5 = true) ∧
    (D.exists .tgPtimeAdj = true ∧ D.mayWrite .host .tgPtimeAdj 5 = true) ∧
    (((tided 2 0).setFld .tgStatus F.tgStatus_MASTER 1).flag .tgStatus F.tgStatus_MASTER = true ∧ 2 ≤ (tided 2 0).tideState) ∧
    (2 ≤ (tided 4 5).tideState ∧ (tided 4 5).tide.noPos = false) ∧
    ((tided 1 5).tideSrc = 5 ∧ (tided 1 5).tideState ≠ 0 ∧ (tided 1 5).replayed 5 = false ∧ (tided 1 5).mayWrite .host .tgCmd 4 = true) ∧
    ((openT.setFld .tgStatus F.tgStatus_KIND 0).tide.phase.isSome = true ∧ (openT.setFld .tgStatus F.tgStatus_KIND 0).phaseKind ≠ 3 ∧
      openT.capInForce ≤ 3400 ∧ 0 < openT.clock) ∧
    (openT.tide.phase.isSome = true ∧ openT.phaseKind = 3 ∧ 0 < openT.tide.cut ∧ openT.tide.cut ≤ openT.tide.openClk) := by decide +kernel
/-- R41: a step of -1 ns wraps package time. -/
theorem test_package_time : (after (.tgPtimeStepWrite .host (BitVec.allOnes 64)) D).ptime = 2 ^ 113 - nsUnit := by decide +kernel
/-- 01 R29 and R30: one step of the engine clock. -/
theorem test_clock_steps : (after (.powerThrottle 0 3400) (openT.setFld .tgStatus F.tgStatus_KIND 0)).clock = 6 ∧
    (after (.powerThrottle 0 3399) (openT.setFld .tgStatus F.tgStatus_KIND 0)).clock = 7 ∧
    (after (.openClockStep 0 true) openT).clock = 8 ∧ (after (.openClockStep 0 true) (openT.setTide { openT.tide with cut := 0 })).clock = 10 := by
  decide +kernel

/-! ### The surrogate engine and re-execution (04, 17) -/

/-- A product of 1 by 16 and 16 by 1 binary32 ones at 0 and 1024 into 8192, with `m` rows, `k` inner elements, input format `f` and C at
byte `ca`. -/
def sgD (rtn m k f ca : Nat) : Dev :=
  let d := params [(0, f * 2 ^ 32), (1, 64), (4, 1024 + f * 2 ^ 32), (5, 64), (8, ca + 2 ^ 32), (9, 64), (12, m + 2 ^ 16 + k * 2 ^ 32 + 2 ^ 48)]
    (queued 0 (desc rtn 0 0 0 0 0) D)
  let one := bytesOf 4 0x3F800000
  stored 0 (one ++ bytesOf 4 0x40000000) (stored 1024 one (stored 1088 one d))

def sgOk : Dev := sgD 0x210 1 16 1 8192

theorem test_hyps_surrogate_products : sgOk.memWf ∧ (sgOk.core 0).inj = none ∧ sgOk.startable 0 0x210 = some (desc 0x210 0 0 0 0 0) ∧
    (sgParam false (sgOk.paramBlock (sgOk.qHome 0) 0)).check.1 = 0 ∧
    (sgD 0x211 1 16 1 8192).startable 0 0x211 = some (desc 0x211 0 0 0 0 0) ∧
    (sgParam true ((sgD 0x211 1 16 1 8192).paramBlock ((sgD 0x211 1 16 1 8192).qHome 0) 0)).check.1 = 0 := by
  unfold Dev.memWf; decide +kernel

/-- R108: 1 times 1 and 2 times 1 add to 3 in binary32. -/
theorem test_product : (after (.sgMm 0 {}) sgOk).csNum 0 8192 4 = 0x40400000 := by decide +kernel
theorem test_product_batched : (after (.sgMmb 0 {}) (sgD 0x211 1 16 1 8192)).csNum 0 8192 4 = 0x40400000 := by decide +kernel
/-- 04 table of statuses: M is 0 (0x200), format 0 (0x201), C over A (OVERLAP), C past the core store (BOUNDS). -/
theorem test_product_refusals : [sgD 0x211 0 16 1 8192, sgD 0x211 1 32 0 8192, sgD 0x211 1 16 1 0, sgD 0x211 1 16 1 6291392, sgD 0x211 1 16 1 6291456].map
    (fun d => ((after (.sgMmb 0 {}) d).queue 0).runs.map (·.status)) = [[0x200], [0x201], [stOverlap], [0], [0x101]] := by decide +kernel
theorem test_hyps_surrogate_refusals : (sgD 0x211 0 16 1 0).startable 0 0x211 = some (desc 0x211 0 0 0 0 0) ∧
    (sgParam true ((sgD 0x211 0 16 1 0).paramBlock 0 0)).m = 0 ∧ (sgParam true ((sgD 0x211 1 32 7 0).paramBlock 0 0)).a.fmt = 7 ∧
    (sgParam true ((sgD 0x211 1 16 1 0).paramBlock 0 0)).check.1 = stOverlap := by decide +kernel

/-- The product held back by a failed check. -/
def sgRetry : Dev := after (.sgMm 0 ⟨some 0, []⟩) sgOk

theorem test_hyps_checks_and_reexecution : 0 < (sgOk.sgUnits 0 (sgParam false (sgOk.paramBlock 0 0))).length ∧
    sgOk.flag .glChkCtl F.glChkCtl_MASK = false ∧ sgOk.coreRetrying 0 = false ∧ (sgRetry.retryRun 0).isSome = true ∧
    (∀ r, sgRetry.retryRun 0 = some r → sgRetry.frozenRun 0 r = false ∧ sgRetry.injWaits 0 [r.unit] = none ∧ 0 < max 1 r.todo.length) ∧
    sgRetry.qKind 0 = 0 ∧ sgRetry.coreFenced 0 = false := by decide +kernel
/-- R481, R484, R487: nothing is written until the re-execution passes. -/
theorem test_reexecution : sgRetry.csNum 0 8192 4 = 0 ∧ (after (.checkReexecution 0 none) sgRetry).csNum 0 8192 4 = 0x40400000 ∧
    (after (.checkReexecution 0 (some 0)) sgRetry).coreFenced 0 = true := by decide +kernel
/-- 10 R285, R299: a product that finds a word of its core store uncorrectable completes MEM_UNCORR. -/
theorem test_core_store_word : ((after (.sgMm 0 ⟨none, [⟨2, 256, true, 0⟩]⟩) sgOk).queue 0).runs.map (·.status) = [0] ∧
    ((after (.sgMm 0 ⟨none, [⟨2, 0, true, 0⟩]⟩) sgOk).queue 0).runs.map (·.status) = [stMemUncorr] := by decide +kernel
theorem test_hyps_reexecution_writes : (∀ r, sgRetry.retryRun 0 = some r → dRtn r.desc ≠ 0x140 ∧ ∀ u ∈ r.todo, ∀ y ∈ u, y.sp = .core 0) ∧
    sgRetry.noInj 0 ∧ (sgRetry.retryRun 0).isSome = true := by unfold Dev.noInj; decide +kernel

/-! ### The solver engine and deltas (05, 06) -/

/-- A solver command in queue 0 of a core whose slot 0 holds the signature. -/
def svD (rtn : Nat) (ws : List (Nat × Nat)) : Dev := (params ws (queued 1 (desc rtn 0 0 0 0 0) D)).sigSet 0 0 sigB

/-- Parameter words of a bind of one problem with one right-hand side, `k` in word 0 and its status area at `sa`. -/
def bindWs (k sa : Nat) : List (Nat × Nat) :=
  [(0, 16 + k), (1, 1), (2, 0), (3, 256), (4, 512), (5, 768), (6, 1024), (7, sa), (8, 1536)]

theorem test_hyps_solver_bind : (svD 0x300 (bindWs 0 1280)).memWf ∧
    (svD 0x300 (bindWs 0 1280)).startable 0 0x300 = some (desc 0x300 0 0 0 0 0) ∧ (svD 0x300 []).sigOf 0 0 = some sigB ∧
    (svD 0x300 []).sigOf 0 1 = none ∧ (bindQuire ((svD 0x300 (bindWs 0 1280)).paramBlock 0 0) (sigHdr sigB)).areaCheck.1 = 0 ∧
    (bindQuire ((svD 0x300 (bindWs 512 1280)).paramBlock 0 0) (sigHdr sigB)).areaCheck.1 = 0 ∧
    bindRsv ((svD 0x300 (bindWs 512 1280)).paramBlock 0 0) = false ∧
    (bindQuire ((svD 0x300 (bindWs 0 1024)).paramBlock 0 0) (sigHdr sigB)).areaCheck = (stOverlap, 5) ∧
    (bindQuire ((svD 0x300 []).paramBlock 0 0) (sigHdr sigB)).p = 0 := by unfold Dev.memWf; decide +kernel

/-- R128, R130: the identifier, problems and a zeroed status; KEEP leaves the status. -/
theorem test_bind :
    (let d := after (.svBind 0) (stored 1280 [5] (svD 0x300 (bindWs 0 1280)))
     d.csNum 0 0 4 = 0xE258DA5D ∧ d.csNum 0 8 2 = 1 ∧ d.csNum 0 1280 8 = 0) ∧
    (after (.svBind 0) (stored 1280 [5] (svD 0x300 (bindWs 512 1280)))).csNum 0 1280 8 = 5 := by decide +kernel

/-- A bound quire of one problem (header of R128) with value 2.0 and right-hand side 3.0, and a command on it. -/
def svQ (rtn : Nat) (ws : List (Nat × Nat)) : Dev :=
  let h := ([0x81010100E258DA5D, 0x1000100000001, 256 + 2 ^ 38, 512 + 2 ^ 38, 768 + 2 ^ 38, 1024 + 2 ^ 38, 0, 1280 + 1536 * 2 ^ 32,
    0x1000000000001] : List Nat).flatMap (bytesOf 8)
  stored 0 h (stored 256 (bytesOf 8 0x4000000000000000) (stored 768 (bytesOf 8 0x4008000000000000) (svD rtn ws)))

/-- One problem and one right-hand side. -/
def oneP : List (Nat × Nat) := [(0, 0), (1, 0x1000000010000)]

theorem test_hyps_solver_commands : ([0x301, 0x302, 0x303].all (fun rtn => (svQ rtn oneP).startable 0 rtn == some (desc rtn 0 0 0 0 0) &&
      ((svQ rtn oneP).svCheck 0 rtn (svParam ((svQ rtn oneP).paramBlock 0 0)) ((svQ rtn oneP).quireAt 0 0)).1 == 0 &&
      ((svQ rtn []).svCheck 0 rtn (svParam ((svQ rtn []).paramBlock 0 0)) ((svQ rtn []).quireAt 0 0)).1 == 0x302)) = true ∧
    (svQ 0x301 oneP).memWf ∧ ((svQ 0x301 oneP).core 0).inj = none ∧ ((svQ 0x301 oneP).quireAt 0 0).e ≤ ((svQ 0x301 oneP).quireAt 0 0).ef ∧
    (svQ 0x301 oneP).badWords = [] ∧ bit ((svQ 0x302 oneP).csNum 0 (1536 + 16) 8) 0 = false := by unfold Dev.memWf; decide +kernel
/-- R141, R142: a solve without factors ends with status code 4; factors of a 1 by 1 problem are valid. -/
theorem test_solve_without_factors : (after (.svSolve 0 {}) (svQ 0x302 oneP)).csNum 0 1280 8 % 16 = 4 := by decide +kernel
theorem test_fsolve : (after (.svFsolve 0 {}) (svQ 0x303 oneP)).csNum 0 1280 8 % 16 = 0 ∧
    (after (.svFsolve 0 {}) (svQ 0x303 oneP)).csNum 0 (1536 + 16) 8 = 3 := by decide +kernel

/-- A signature load from stacked address 0x8000. -/
def slD (va : Nat) : Dev :=
  let d := mapped (queued 1 (desc 0x304 0 0 0 0 0) D)
  params [(0, 2), (1, va)] { d with mem := Mem.write 0x8000 sigB d.mem }

theorem test_hyps_signature_load : (slD 0x8000).startable 0 0x304 = some (desc 0x304 0 0 0 0 0) ∧ 0x8020 % 64 ≠ 0 ∧ (slD 0x8000).badWords = [] ∧
    ((slD 0x8000).pagesFrom ((slD 0x8000).rootOf 0) 0x8000 false 40 0 128 |>.toOption) = some [(0x8000, 128)] ∧ sizeOk (sigHdr ((slD 0x8000).physRead 0x8000 128)).size = true ∧
    (sigHdr ((slD 0x8000).physRead 0x8000 128)).size = 184 ∧ ((slD 0x8000).pagesFrom ((slD 0x8000).rootOf 0) 0x8000 false 40 0 184 |>.toOption) = some [(0x8000, 184)] ∧
    (slD 0x8000).physRead 0x8000 184 = sigB ∧ (∀ n, n < 16 → (slD 0x8000).flag (.coreSig 0 n) F.coreSig_VALID = false) := by
  decide +kernel
theorem test_hyps_signature_checked : (sigCheck sigB).1 = 0 := by
  simp only [sigCheck, crc32c, foldl_crcByte_eq_crcF]; decide +kernel
/-- R164: a misaligned address refuses, and so does a signature whose CRC is wrong. -/
theorem test_sigload_align : ((after (.svSigload 0) (slD 0x8020)).queue 0).runs.map (·.status) = [stDescAlign] := by decide +kernel

/-- A load of the signature into slot 2 that has not completed. -/
def loadingD : Dev := (running 1 { run1 (desc 0x304 0 0 0 0 0) with params := [2] } D).sigSet 0 2 sigB
/-- R163: the signature is absent until the load completes. -/
theorem test_sigload_loading : loadingD.sigOf 0 2 = none ∧ (after (.commandCompletion 0) loadingD).sigOf 0 2 = some sigB := by decide +kernel

/-- A delta or dense command of queue 0 on the bound quire with its list at 0x9000 (values at 0xA000 for `dm.dense`). -/
def dmD (rtn p : Nat) : Dev :=
  let d := mapped (queued 3 (desc rtn 0 0 0 0 0) D)
  let d := params [(0, 0), (1, if rtn = 0x140 then 0x9000 else 0xA000), (2, 1), (3, if rtn = 0x140 then 0 else 64), (4, 0x9000)] d
  let list := bytesOf 4 p ++ (if rtn = 0x140 then bytesOf 4 0 ++ bytesOf 8 0x4010000000000000 else [])
  let d := { d with mem := Mem.write 0x9000 list (Mem.write 0xA000 (bytesOf 8 0x4014000000000000) d.mem) }
  { d with cores := (svQ 0 []).cores, regs := d.regs ++ (svQ 0 []).regs.filter (fun x => x.1 == .coreSig 0 0) }

theorem test_hyps_delta_feeding : (dmD 0x140 0).memWf ∧ (dmD 0x140 0).startable 0 0x140 = some (desc 0x140 0 0 0 0 0) ∧
    (dmD 0x141 0).startable 0 0x141 = some (desc 0x141 0 0 0 0 0) ∧ (∀ r ∈ ((dmD 0x140 0).queue 0).runs, False) ∧ ((dmD 0x140 0).core 0).inj = none ∧
    (dmD 0x140 0).badWords = [] ∧ bits (wd ((dmD 0x140 0).paramBlock 0 0) 2) 28 16 = 0 ∧ bits (wd ((dmD 0x140 0).paramBlock 0 0) 2) 12 0 = 1 ∧
    (dmD 0x140 0).covering 0 0 0 = none ∧ (dmD 0x140 0).rd .fbPeerDead = 0 ∧ 256 + 8 ≤ 1536 + 8 ∧ 0 < ((dmD 0x140 0).quireAt 0 0).va.2 ∧
    8 * ((dmD 0x140 0).quireAt 0 0).e ≤ ((dmD 0x140 0).quireAt 0 0).va.2 ∧
    (dmD 0x140 0).deltaCheck 0 false ((dmD 0x140 0).paramBlock 0 0) ((dmD 0x140 0).quireAt 0 0) = 0 ∧
    (dmD 0x141 0).deltaCheck 0 true ((dmD 0x141 0).paramBlock 0 0) ((dmD 0x141 0).quireAt 0 0) = 0 ∧
    ((dmD 0x140 0).dmFetch [] ⟨0, 0x10000⟩ false 0x9000 16).toOption.map (·.2) = some (bytesOf 4 0 ++ bytesOf 4 0 ++ bytesOf 8 0x4010000000000000) ∧
    ((dmD 0x140 0).dmFetch [] ⟨0, 0x10000⟩ false 0x9000 16).toOption.map (·.1.map (fun x => (x.addr, x.n))) = some [(0x9000, 16)] ∧
    ((dmD 0x141 0).dmFetch [] ⟨0, 0x10000⟩ false 0x9000 4).toOption.map (·.2) = some (bytesOf 4 0) ∧
    ((dmD 0x141 0).dmFetch [] ⟨0, 0x10000⟩ false 0xA000 8).toOption.map (·.2) = some (bytesOf 8 0x4014000000000000) := by
  unfold Dev.memWf; decide +kernel
/-- R132: the value becomes 4, and DSUM grows by |4 − 2|; a problem out of range stops with DELTA_RANGE; R135: DSUM infinite. -/
theorem test_delta : (after (.dmDelta 0 {}) (dmD 0x140 0)).csNum 0 256 8 = 0x4010000000000000 ∧
    (after (.dmDelta 0 {}) (dmD 0x140 0)).csNum 0 (1536 + 8) 8 = 0x4000000000000000 ∧
    ((after (.dmDelta 0 {}) (dmD 0x140 1)).queue 0).runs.map (·.status) = [0x500] := by decide +kernel
theorem test_dense : (after (.dmDense 0 {}) (dmD 0x141 0)).csNum 0 256 8 = 0x4014000000000000 ∧
    (after (.dmDense 0 {}) (dmD 0x141 0)).csNum 0 (1536 + 8) 8 = 0x7FF0000000000000 := by decide +kernel

/-! ### The vector engine (07) -/

/-- Core 0 with a vector routine at its instruction 0 in queue 0, register values, predicate p1 and scalar values. -/
def vxD (vs : List (Nat × Nat)) (p1 : Nat) (sc : List (Nat × Nat)) : Dev :=
  let d := running 2 { run1 (desc 0x400 0 0 0 0 0) with done := false, params := [7, 9] } D
  d.setCore 0 { d.core 0 with
    vregs := vs.map (fun p => (p.1, BitVec.ofNat 2048 p.2)), preds := [(1, BitVec.ofNat 256 p1)], scal := sc.map (fun p => (p.1, BitVec.ofNat 64 p.2)) }

/-- Values 8 bits wide of v1 and v2. -/
def vx8 (a b : Nat) : Dev := vxD [(1, a), (2, b), (3, 2 ^ 2048 - 1)] 1 [(1, 8), (2, 6291448), (3, 4)]

theorem test_hyps_vector_at : (vx8 0 0).vxRun 0 = some (0, { run1 (desc 0x400 0 0 0 0 0) with done := false, params := [7, 9] }) ∧
    ((vx8 0 0).queue 0).runs = [{ run1 (desc 0x400 0 0 0 0 0) with done := false, params := [7, 9] }] ∧ ((vx8 0 0).core 0).vskip = 0 ∧
    ((vx8 0 0).core 0).inj = none ∧ (vx8 0 0).memWf ∧ (vx8 0 0).badWords = [] ∧ vxLegal vx0 true false = true ∧ vxLegal vx0 false false = true ∧
    vxLegal { vx0 with pg := 1 } true false = false := by unfold Dev.memWf; decide +kernel

/-- A ready vector command whose routine stands in the active bank. -/
def vcD : Dev :=
  let d := queued 2 (desc 0x400 0 0 0 0 0) D
  d.setCore 0 { d.core 0 with dirs := [(0, [(0x400, 2, 0)])], vpc := 5, vskip := 1, rngHeld := [(.coreRngKey 0 1, 3)] }

theorem test_hyps_vector_routines : vcD.headDesc 0 = some (desc 0x400 0 0 0 0 0) ∧ vcD.qKind 0 = 2 ∧ bankRoutine 2 0x400 = true ∧
    vcD.qTarget 0 = 0 ∧ vcD.startable 0 0x400 = some (desc 0x400 0 0 0 0 0) ∧ ((1 < 4) ∧ Reg.coreRngKey 0 1 = rngReg 0 1) ∧
    ((vx8 0 0).core 0).vloops.length < 4 ∧ 4 ≤ [VLoop.mk 0 1, ⟨0, 1⟩, ⟨0, 1⟩, ⟨0, 1⟩].length := by decide +kernel
/-- R180: the routine starts at instruction 0 with the held generator key live. -/
theorem test_vector_command : ((after (.vectorCommand 0 {}) vcD).core 0).vpc = 0 ∧ (after (.vectorCommand 0 {}) vcD).rd (.coreRngKey 0 1) = 3 := by
  decide +kernel

/-- Four open loops of two passes. -/
def nested (d : Dev) : Dev := d.setCore 0 { d.core 0 with vpc := 6, vloops := [⟨2, 2⟩, ⟨1, 1⟩, ⟨0, 1⟩, ⟨0, 1⟩] }

/-- A ready bank routine of the solver engine. -/
def vcS : Dev :=
  let d := queued 1 (desc 0x305 0 0 0 0 0) D
  d.setCore 0 { d.core 0 with dirs := [(0, [(0x305, 1, 0)])] }
/-- The routine with its instruction word uncorrectable. -/
def vxBadD : Dev := { vx8 0 0 with badWords := [⟨5, 0, (vx8 0 0).vxPlace 0 { run1 (desc 0x400 0 0 0 0 0) with done := false, params := [7, 9] }⟩] }
theorem test_hyps_vector_corners : vcS.startable 0 0x305 = some (desc 0x305 0 0 0 0 0) ∧ vcS.qKind 0 = 1 ∧ bankRoutine 1 0x305 = true ∧
    (nested (vx8 0 0)).vxRun 0 = (vx8 0 0).vxRun 0 ∧ ((nested (vx8 0 0)).core 0).vloops = ⟨2, 2⟩ :: [⟨1, 1⟩, ⟨0, 1⟩, ⟨0, 1⟩] ∧
    ((vx8 0 0).core 0).vloops = [] ∧ 1 < (VLoop.mk 2 2).left ∧ (VLoop.mk 1 1).left ≤ 1 ∧ (vx8 0 0).scal 0 1 ≠ 0 ∧ (vx8 0 0).scal 0 0 = 0 ∧
    (∀ w ∈ [Upset.mk 4 0 false 3], w.kind = 4 → w.tries ≤ 3) := by decide +kernel
/-- 10 R285: the routine completes MEM_UNCORR; R182: in the body of a zero-count loop nothing ends it. -/
theorem test_vector_fetch : ((after (.vxEnd 0 vx0) vxBadD).queue 0).runs.map (·.status) = [stMemUncorr] ∧
    ((after (.vxEnd 0 vx0) ((vx8 0 0).setCore 0 { (vx8 0 0).core 0 with vskip := 1 })).core 0).vpc = 1 ∧
    ((after (.vectorCommand 0 {}) vcS).queue 0).runs.map (·.status) = [0] := by decide +kernel

/-- R182: a fifth loop is illegal; the body runs again while passes are left; a count of 0 skips it. -/
theorem test_loops : ((after (.vxLoop 0 { vx0 with va := 1 }) (nested (vx8 0 0))).queue 0).runs.map (·.status) = [0x400] ∧
    ((after (.vxEndloop 0 vx0) (nested (vx8 0 0))).core 0).vpc = 2 ∧ ((after (.vxLoop 0 vx0) (vx8 0 0)).core 0).vskip = 1 ∧
    ((after (.vxLoop 0 { vx0 with va := 1 }) (vx8 0 0)).core 0).vloops = [⟨1, 8⟩] := by decide +kernel
theorem test_end : ((after (.vxEnd 0 vx0) (vx8 0 0)).queue 0).runs.map (fun r => (r.status, r.done)) = [(0, true)] := by decide +kernel

theorem test_hyps_vector_memory : (vx8 0 0).scal 0 1 = 8 ∧ 8 + 8 * bits (0x0000 : BitVec 16).toNat 7 0 = 8 ∧ (vx8 0 0).scal 0 2 + 8 = coreStoreSize ∧
    (vx8 0 0).scal 0 3 % 8 ≠ 0 := by decide +kernel
/-- R183: 8 bytes at the last place below 6 MiB are stored; 16 bytes there end with VX_BOUNDS; an address of 4 with VX_ALIGN. -/
theorem test_vector_store : (after (.vxSt 0 { vx0 with vd := 3, va := 2 }) (vx8 0 0)).csNum 0 6291448 8 = 2 ^ 64 - 1 ∧
    ((after (.vxSt 0 { vx0 with vd := 3, va := 2, imm := 0x0100 }) (vx8 0 0)).queue 0).runs.map (·.status) = [0x402] ∧
    ((after (.vxSt 0 { vx0 with vd := 3, va := 3 }) (vx8 0 0)).queue 0).runs.map (·.status) = [0x401] := by decide +kernel
/-- R183: a load leaves bytes L and above unchanged. -/
theorem test_vector_load : (after (.vxLd 0 { vx0 with vd := 3, va := 1 }) (stored 8 [5] (vx8 0 0))).vreg 0 3 = 2 ^ 2048 - 2 ^ 64 + 5 := by
  decide +kernel

/-- An 8-bit signed instruction from v1 and v2 into v3. -/
def vx3 : VxIns := { vx0 with vd := 3, va := 1, vb := 2, sgn := true }

/-- R187: the examples at W = 8, S = 1 (100 + 50, saturated; −5 rounded right by 1 and arithmetically by 9). -/
theorem test_vector_integer : (after (.vxInteger 0 .add { vx3 with sat := true }) (vx8 100 50)).vxElem 0 8 3 0 = 127 ∧
    (after (.vxInteger 0 .add { vx3 with sat := true }) (vx8 100 50)).fld (.coreVxFlags 0) F.coreVxFlags_SAT = 1 ∧
    (after (.vxInteger 0 .add vx3) (vx8 100 50)).vxElem 0 8 3 0 = 150 := by decide +kernel
theorem test_vector_shift : (after (.vxShiftLogic 0 .srr vx3) (vx8 251 1)).vxElem 0 8 3 0 = 254 ∧
    (after (.vxShiftLogic 0 .sra vx3) (vx8 251 9)).vxElem 0 8 3 0 = 255 := by decide +kernel

/-- The same instruction on binary32. -/
def vxF : VxIns := { vx3 with w := 2 }

theorem test_hyps_vector_elements : vxLegal vx3 false false = true ∧ vxLegal vxF false false = true ∧ vxRel .lt = some 1 ∧ vxIsCmp .eq = true := by
  decide +kernel
/-- R185 with R178: 1.0 + 2.0 in element 0, and zeros elsewhere under Z and p1. -/
theorem test_vector_float : (after (.vxFloatArithmetic 0 .fadd { vxF with pg := 1, z := true }) (vx8 0x3F800000 0x40000000)).vreg 0 3 = 0x40400000 ∧
    (after (.vxFloatCompare 0 .fmax vxF) (vx8 0x3F800000 0x40000000)).vxElem 0 32 3 0 = 0x40000000 := by decide +kernel
/-- R177: a comparison clears the bits above the element count. -/
theorem test_vector_compare : (after (.vxFloatCompare 0 .lt vxF) (vx8 0x3F800000 0x40000000)).pred 0 3 = 1 := by decide +kernel

theorem test_hyps_vector_moves : vxCvtOk .longShort { vxF with fmt := 3 } = true ∧ vxCvtOk .shortLong { vxF with fmt := 2 } = true ∧
    vxLegal { vxF with rm := 5 } false true = true ∧ (shortOf 3).isSome = true ∧ redInt (.rmax true) = true ∧ redInt (.rsum false) = false := by decide +kernel
/-- The move class: the immediate is sign-extended; p1 negated is all but its bit 0. -/
theorem test_vector_move : (after (.vxMove 0 .movi { vx3 with imm := 0xFFFE }) (vx8 0 0)).vxElem 0 8 3 5 = 254 ∧
    (after (.vxMove 0 .pnot { vx3 with va := 1 }) (vx8 0 0)).pred 0 3 = 2 ^ 256 - 2 := by decide +kernel
/-- R188, R189: 1.0 + 2.0 over 64 elements with zeros; the least signed byte where all are inactive. -/
theorem test_vector_reduction : (after (.vxReduction 0 (.rsum false) vxF) (vx8 (0x3F800000 + 0x40000000 * 2 ^ 32) 0)).vxElem 0 32 3 0 = 0x40400000 ∧
    (after (.vxReduction 0 (.rmax true) { vx3 with pg := 2 }) (vx8 9 0)).vxElem 0 8 3 0 = 128 := by decide +kernel
/-- R191: 2.0 to a signed integer; R190: 1.0 to binary64. -/
theorem test_vector_convert : (after (.vxCvt 0 .longInt vxF) (vx8 0x40000000 0)).vxElem 0 32 3 0 = 2 ∧
    (after (.vxCvt 0 .longLong vxF) (vx8 0x3F800000 0)).vxElem 0 64 3 0 = 0x3FF0000000000000 := by decide +kernel
/-- R99, the film-die example: 3.99, 3.7 and 0.05 give S = 120 for cs8p, and codes 0x7F, 0x7F and 0x4D; at S = 121, 0x78 and 0x45. -/
theorem test_vector_scale :
    (after (.vxScale 0 { vxF with fmt := 3 }) (vx8 (0x407F5C29 + 0x406CCCCD * 2 ^ 32 + 0x3D4CCCCD * 2 ^ 64) 0)).vxElem 0 8 3 0 = 120 := by
  decide +kernel
theorem test_vector_narrow :
    (let d := after (.vxCvt 0 .longShort { vxF with fmt := 3 }) (vx8 (0x407F5C29 + 0x406CCCCD * 2 ^ 32 + 0x3D4CCCCD * 2 ^ 64) 120)
     d.vreg 0 3 % 2 ^ 24 = 0x4D7F7F) ∧
    (let d := after (.vxCvt 0 .longShort { vxF with fmt := 3 }) (vx8 (0x407F5C29 + 0x3D4CCCCD * 2 ^ 32) 121)
     d.vreg 0 3 % 2 ^ 16 = 0x4578) := by decide +kernel

theorem test_hyps_scalars_and_summaries : smOk { vx3 with imm := 0x0908 } = true ∧ bit (0x0908 : BitVec 16).toNat 3 = true ∧
    smOk { vx3 with imm := 0x0900 } = true ∧ (tget (⟨0, 0⟩ : Smry) 0 ((vx8 0 0).core 0).smry).kind ≠ smKind { vx3 with imm := 0x0900 } := by decide +kernel
theorem test_vector_scalars : (after (.vxScalarControl 0 .aadd { vx0 with vd := 5, va := 1, vb := 3 }) (vx8 0 0)).scal 0 5 = 12 ∧
    (after (.vxScalarControl 0 .apar { vx0 with vd := 5, imm := 1 }) (vx8 0 0)).scal 0 5 = 9 := by decide +kernel

/-- R196: OR_I of 5 and 2 with INIT and POST; the post, then its mailbox entry; another kind is illegal. -/
theorem test_summary :
    (let d := after (.vxSmry 0 { vx3 with imm := 0x0918 }) (vx8 0x0502 0)
     (d.core 0).posts = [⟨0, 9, 7, 1⟩] ∧ (after (.mailboxPost 0) d).rd (.ccMboxVal 0 0) = 7 ∧ (after (.mailboxPost 0) d).mboxFull 0 0 = true) ∧
    ((after (.vxSmry 0 { vx3 with imm := 0x0900 }) (vx8 0 0)).queue 0).runs.map (·.status) = [0x400] := by decide +kernel

/-! ### Control cores (08) -/

theorem test_hyps_control_at : (∀ u < 2, (ccD u []).ccReady 0 = true ∧ ((ccD u []).ccPiece 0 .fetch false ((ccD u []).cc 0).pc.toNat 4).toOption =
      some ⟨0x1000, true, true, true, 0⟩) ∧ (ccG 0 0).flag (.ccStatus 0) F.ccStatus_TRAP = false ∧ (ccG 0 0).ccSup 0 = false ∧
    (ccD 1 []).ccSup 0 = true := by decide +kernel
theorem test_hyps_control_jumps : ccTaken .bltu 1 2 = true ∧ ccTaken .bltu 2 1 = false ∧ ((0x1000 : Word) + BitVec.ofInt 64 (-4)).toNat % 4 = 0 ∧
    ((ccG 0 0).gReg 0 2) = 0 ∧ ((ccG 2 0).gReg 0 1).toNat % 4 ≠ 0 := by decide +kernel
/-- R204: −2⁶³ ÷ −1 is −2⁶³; a division by zero gives all ones. -/
theorem test_control_divide : (after (.ccIntegerOp 0 (.mul .div 3 1 2)) (ccG (2 ^ 63) (2 ^ 64 - 1))).gReg 0 3 = 0x8000000000000000 ∧
    (after (.ccIntegerOp 0 (.mul .div 3 1 2)) (ccG 5 0)).gReg 0 3 = BitVec.allOnes 64 := by decide +kernel
theorem test_control_g0 : (after (.ccIntegerOp 0 (.imm .add 0 1 5)) (ccG 5 0)).gReg 0 0 = 0 ∧
    (after (.ccIntegerOp 0 (.imm .add 3 1 0xFFFF)) (ccG 5 0)).gReg 0 3 = 4 := by decide +kernel
theorem test_control_branch : ((after (.ccBranch 0 (.br .bltu 1 2 (-4))) (ccG 1 2)).cc 0).pc = 0xFFC ∧
    ((after (.ccBranch 0 (.jr 1)) (ccG 2 0)).cc 0).pc = 0x2000 := by decide +kernel

theorem test_hyps_control_floats : ccCvtOk (.toInt true 32 true) = true ∧ (4 < 5) ∧ (5 ≤ 5) := by decide +kernel
/-- R205 and 03 R80: 1.0 + 2⁻²⁴ in binary32 is inexact, flag NX; rounding code 5 traps. -/
theorem test_control_float : (after (.ccFloatOp 0 false .add 0 3 1 2 0) (ccG 0x3F800000 0x33800000)).gReg 0 3 = 0x3F800000 ∧
    (after (.ccFloatOp 0 false .add 0 3 1 2 0) (ccG 0x3F800000 0x33800000)).fld (.ccFlags 0) F.ccFlags_IEEE ≠ 0 ∧
    (after (.ccFloatOp 0 false .add 5 3 1 2 0) (ccG 0 0)).fld (.ccTrapCause 0) F.ccTrapCause_CAUSE = 1 := by decide +kernel
theorem test_control_convert : (after (.ccFloatConvert 0 (.toInt true 32 true) 1 3 1) (ccG 0xC005000000000000 0)).gReg 0 3 =
    0xFFFFFFFFFFFFFFFE := by decide +kernel

theorem test_hyps_control_memory : (ccG 0x4000 7).memWf ∧ (ccG 0x4000 7).fld .glFolioStatus F.glFolioStatus_STATE ≠ 2 ∧
    0x4000 + 8 ≤ stackSize ∧ ((ccG 0x4000 7).ccPieces 0 .load false (cut256 2 0x4000 8)).toOption = some [(⟨0x4000, true, true, true, 0⟩, 8)] ∧
    ((ccG 0x4000 7).ccPieces 0 .store false (cut256 2 0x4000 1)).toOption = some [(⟨0x4000, true, true, true, 0⟩, 1)] ∧
    ((ccG 0x4000 7).ccPiece 0 .atomic false 0x4000 8).toOption = some ⟨0x4000, true, true, true, 0⟩ ∧
    ((ccG 0x4000 7).gReg 0 1).toNat % 8 = 0 ∧ (ccG 0x4000 7).fabric.atoms = [] ∧ ((ccG 0x4004 7).gReg 0 1).toNat % 8 ≠ 0 := by
  unfold Dev.memWf; decide +kernel

/-- Byte 0xFF at 0x4000. -/
def ccM : Dev := { ccG 0x4000 7 with mem := Mem.write 0x4000 [0xFF] (ccG 0x4000 7).mem }

theorem test_control_load : (after (.ccLoad 0 0 1 true false 3 1 0) ccM).gReg 0 3 = BitVec.allOnes 64 ∧
    (after (.ccLoad 0 0 2 false false 3 1 0) ccM).gReg 0 3 = 0xFF := by decide +kernel
theorem test_control_store : (after (.ccStore 0 2 false 2 1 0xFFFF) ccM).physNum 0x3FFF 2 = 7 := by decide +kernel
theorem test_control_atomic : (after (.ccAtomic 0 .fadd 3 1 2 0) ccM).gReg 0 3 = 0xFF ∧ (after (.ccAtomic 0 .fadd 3 1 2 0) ccM).physNum 0x4000 8 = 0x106 := by
  decide +kernel
/-- R482: two parity failures in succession halt the core. -/
theorem test_control_parity : (after (.ccLoad 0 2 1 true false 3 1 0) ccM).fld (.ccStatus 0) F.ccStatus_HALT = 1 := by decide +kernel

/-- A core in a trap, with its saved address; one with a pending supply interrupt and interrupts enabled. -/
def ccT : Dev := (((ccD 1 []).setFld (.ccStatus 0) F.ccStatus_TRAP 1).wr (.ccTrapPc 0) 0x3000).setFld (.ccStatus 0) F.ccStatus_SIE 1
def ccI : Dev := ((ccD 1 []).setFld (.ccStatus 0) F.ccStatus_IE 1).setCc 0 { (ccD 1 []).cc 0 with supply := true }

theorem test_hyps_traps : ccT.fld (.ccStatus 0) F.ccStatus_TRAP = 1 ∧ (ccT.rd (.ccTrapPc 0)).toNat % 4 = 0 ∧ (ccG 0 0).ccUnsettled 0 = false ∧
    (ccD 1 []).ccPending 0 = [] ∧ ccI.ccPending 0 = [17] ∧ ccI.fld (.ccStatus 0) F.ccStatus_HALT = 0 ∧ ccI.fld (.ccStatus 0) F.ccStatus_IE = 1 ∧
    (ccI.cc 0).wait = .run ∧ srJob .flags = true ∧ srJob .tvec = false := by decide +kernel
/-- R209, R210: sys saves the next address; R212: a trap within a trap halts; R209: tret restores. -/
theorem test_sys : (after (.ccSys 0) (ccG 0 0)).rd (.ccTrapPc 0) = 0x1004 ∧ ((after (.ccSys 0) (ccG 0 0)).cc 0).pc = 0x2000 ∧
    (after (.ccSys 0) ccT).fld (.ccStatus 0) F.ccStatus_HALT = 1 := by decide +kernel
theorem test_tret : ((after (.ccTret 0) ccT).cc 0).pc = 0x3000 ∧ (after (.ccTret 0) ccT).fld (.ccStatus 0) F.ccStatus_IE = 1 ∧
    (after (.ccTret 0) (ccG 0 0)).fld (.ccTrapCause 0) F.ccTrapCause_CAUSE = 2 := by decide +kernel
theorem test_interrupt : (after (.interrupt 0) ccI).rd (.ccTrapPc 0) = 0x1000 ∧ ((after (.interrupt 0) ccI).cc 0).pc = 0x2000 := by
  decide +kernel
theorem test_wfi : ((after (.ccWfi 0) (ccD 1 [])).cc 0).wait = .wfi ∧ ((after (.ccWfi 0) ccI).cc 0).pc = 0x1004 := by decide +kernel
theorem test_fence_brk : ((after (.ccFence 0) (ccG 0 0)).cc 0).pc = 0x1004 ∧ (after (.ccBrk 0) (ccG 0 0)).fld (.ccTrapCause 0) F.ccTrapCause_CAUSE = 10 := by
  decide +kernel
theorem test_system_registers : (after (.srRd 0 3 .tvec) (ccD 1 [])).gReg 0 3 = 0x2000 ∧ (after (.srWr 0 .tvec 1) (ccD 1 [(1, 0x8000)])).rd (.ccTvec 0) = 0x8000 := by
  decide +kernel

/-- Mailbox entry 3 full with value 9; a taken call in slot 2 of the command of queue 0. -/
def ccB : Dev :=
  let d := ((ccG 8 0).setFld (.ccMboxTag 0 3) F.ccMboxTag_FULL 1).wr (.ccMboxVal 0 3) 9
  let d := d.setQueue 0 { mode := .on, runs := [{ run1 (desc 0x800 0 0 0 0 0) with done := false }] }
  d.setCc 0 { d.cc 0 with calls := [(1, ⟨0, 1, [4, 5], false⟩), (2, ⟨0, 1, [6, 7], true⟩)] }

theorem test_hyps_mailbox_and_calls : ccB.mboxHit 0 8 = some 3 ∧ ccB.mboxHit 0 4 = none ∧ 0 ≤ ccB.cycle ∧ ccB.cycle < 1 ∧
    ccB.callUntaken 0 = some 1 ∧ (ccG 0 0).callUntaken 0 = none ∧ ccB.callTaken 0 2 = some ⟨0, 1, [6, 7], true⟩ ∧ ccB.callTaken 0 1 = none ∧
    ccB.ccUnsettled 0 = false := by decide +kernel
theorem test_mbwait : (after (.mbwait 0 4 1 2) ccB).gReg 0 4 = 3 ∧ (after (.mbwait 0 4 2 3) (ccG 0 0)).gReg 0 4 = 64 := by decide +kernel
theorem test_mbtake : (after (.mbtake 0 4 5 3) ccB).gReg 0 4 = 9 ∧ (after (.mbtake 0 4 5 3) ccB).mboxFull 0 3 = false := by decide +kernel
theorem test_calls : (after (.cctake 0 4 2) ccB).gReg 0 4 = 1 ∧ (after (.ccarg 0 4 1 1) (ccB.setG 0 1 2)).gReg 0 4 = 7 ∧
    ((after (.ccdone 0 1 2) ((ccB.setG 0 1 2).setG 0 2 0x50001)).queue 0).runs.map (fun r => (r.status, r.detail)) = [(0xB00, 5)] := by decide +kernel

/-- Waits that end at cycle 5. -/
def ccWait (w : CcWait) : Dev := (ccG 0 0).setCc 0 { (ccG 0 0).cc 0 with wait := w }

theorem test_deadlines : (after (.mbwaitDeadline 0 5) (ccWait (.mbwait 4 1 5))).gReg 0 4 = 64 ∧ (after (.mbwaitDeadline 0 4) (ccWait (.mbwait 4 1 5))).gReg 0 4 = 0 ∧
    (after (.cctakeDeadline 0 5) (ccWait (.cctake 4 5))).gReg 0 4 = 16 := by decide +kernel

/-- A ready `cc.call` in queue 0. -/
def callD : Dev := queued 8 (desc 0x800 0 0 0 5 6) (ccG 0 0)

theorem test_hyps_call : callD.qTarget 0 = 0 ∧ callD.callFree 0 = some 0 ∧ callD.startable 0 0x800 = some (desc 0x800 0 0 0 5 6) ∧
    (callD.cc 0).wait = .run := by decide +kernel
theorem test_call : ((after (.ccCall 0) callD).cc 0).calls.map (fun p => (p.1, p.2.params.take 2)) = [(0, [5, 6])] := by decide +kernel

/-- A valid vector state of 16-bit elements, vl 2, rounding `r`, with values of v1 and v2. -/
def cvD (r a b : Nat) : Dev :=
  let d := ((ccG 0x4000 0).wr (.ccVstate 0) 0).setFld (.ccVstate 0) F.ccVstate_VL 2
  let d := (d.setFld (.ccVstate 0) F.ccVstate_EW 1).setFld (.ccVstate 0) F.ccVstate_QRND r
  d.setCc 0 { d.cc 0 with v := [(1, BitVec.ofNat 1024 a), (2, BitVec.ofNat 1024 b)], p := [(1, 1)] }

theorem test_hyps_long_vectors : (cvD 0 0 0).memWf ∧ (cvD 0 0 0).fld .glFolioStatus F.glFolioStatus_STATE ≠ 2 ∧ (cvD 0 0 0).ccReady 0 = true ∧
    (cvD 0 0 0).flag (.ccVstate 0) F.ccVstate_ILL = false ∧ (cvD 0 0 0).cvLen 0 ≠ 0 ∧ (ccG 0 0).flag (.ccVstate 0) F.ccVstate_ILL = true ∧
    bit ((cvD 0 0 0).pReg 0 1) 0 = true ∧ (cvD 0 0 0).cvActive 0 1 = [0] ∧ (cvD 0 0 0).cvActive 0 2 = [] ∧
    ((cvD 0 0 0).cc 0).dcache = [] ∧
    ((cvD 0 5 0).cvActive 0 0).flatMap (fun i => bytesOf 2 (elemAt 16 ((cvD 0 5 0).vReg 0 1) i)) = [5, 0, 0, 0] ∧
    ((cvD 0 0 0).ccPieces 0 .load true ((cvD 0 0 0).cvSpan 0 1 0)).toOption = some [(⟨0x4000, true, true, true, 0⟩, 4)] ∧
    ((cvD 0 0 0).ccPieces 0 .store true ((cvD 0 0 0).cvSpan 0 1 0)).toOption = some [(⟨0x4000, true, true, true, 0⟩, 4)] := by
  unfold Dev.memWf; decide +kernel
/-- R214, R215. -/
theorem test_setvl : (after (.setvl 0 4 1 1) (ccG 100 0)).gReg 0 4 = 64 ∧ (after (.setvl 0 4 1 16) (ccG 100 0)).gReg 0 4 = 0 := by decide +kernel
/-- R221: the examples at EW 16: qfmul of −5 and 16,384 under HEV and HAW, and of −32,768 with itself. -/
theorem test_qfmul : (elemAt 16 ((after (.vectorMultiply 0 .qfmul 3 1 (.v 2) 0) (cvD 0 65531 16384)).vReg 0 3) 0 = 65534) ∧
    (elemAt 16 ((after (.vectorMultiply 0 .qfmul 3 1 (.v 2) 0) (cvD 2 65531 16384)).vReg 0 3) 0 = 65533) ∧
    (after (.vectorMultiply 0 .qfmul 3 1 (.v 2) 0) (cvD 0 32768 32768)).fld (.ccFlags 0) F.ccFlags_VSAT = 1 := by decide +kernel
theorem test_qavg : (elemAt 16 ((after (.fixedPointOp 0 .qavg 3 1 (.v 2) 0) (cvD 3 7 8)).vReg 0 3) 0 = 7) ∧
    (elemAt 16 ((after (.fixedPointOp 0 .qavg 3 1 (.v 2) 0) (cvD 0 7 8)).vReg 0 3) 0 = 8) := by decide +kernel
/-- R216, 07 R188: the greatest of no elements is the least value of the width. -/
theorem test_empty_reduction : elemAt 16 ((after (.vectorReduction 0 .vrmax 3 1 0 2) (cvD 0 5 0)).vReg 0 3) 0 = 32768 := by decide +kernel

/-! ### Queues (09) -/

/-- A ready command of queue 0 bound to agent kind 3 (a data mover), and parameter words. -/
def q3 (rtn a0 a1 : Nat) : Dev := queued 3 (desc rtn 0 0 0 a0 a1) D

theorem test_hyps_held_queue : D.readyDesc 0 = none ∧ ((q3 1 0 0).setQueue 0 { mode := .stopped }).readyDesc 0 = none ∧
    ((q3 1 0 0).setQueue 0 { mode := .drain }).readyDesc 0 = none ∧ ((q3 1 0 0).setQueue 0 { mode := .error }).readyDesc 0 = none := by
  decide +kernel
theorem test_hyps_queue_commands : (q3 1 0 0).startable 0 1 = some (desc 1 0 0 0 0 0) ∧
    (q3 0x7FF 0 0).readyDesc 0 = some (desc 0x7FF 0 0 0 0 0) ∧ (q3 0x7FF 0 0).preStatus 0 (desc 0x7FF 0 0 0 0 0) ≠ 0 ∧
    (q3 0x7FF 0 0).agentFree 0 = true ∧ (q3 0x7FF 0 0).takesOk 0 (desc 0x7FF 0 0 0 0 0) = true ∧ (q3 2 511 1).startable 0 2 = some (desc 2 0 0 0 511 1) ∧ bits (1 : Nat) 9 0 ≠ 0 ∧
    dArg (desc 2 0 0 0 511 1) 0 + dArg (desc 2 0 0 0 511 1) 1 ≤ 512 ∧ (q3 2 511 2).startable 0 2 = some (desc 2 0 0 0 511 2) := by decide +kernel
theorem test_nop : (after (.cqNop 0) (q3 1 0 0)).fld (.cqSerial 0) ⟨47, 0⟩ = 1 ∧
    ((after (.routineInvalid 0) (q3 0x7FF 0 0)).queue 0).runs.map (·.status) = [stRoutineInvalid] := by decide +kernel
/-- 09: one block from 511 is copied; two from 511 are out of range. -/
theorem test_patchfence : (after (.cqPatchfence 0) ((q3 2 511 1).wr (.corePstage 0 511 3) 8)).rd (.coreParam 0 511 3) = 8 ∧
    ((after (.cqPatchfence 0) (q3 2 511 2)).queue 0).runs.map (·.status) = [stDescInvalid] := by decide +kernel

/-- A queue of command `rtn` with open loops. -/
def lpD (rtn c : Nat) (ls : List Loop) : Dev :=
  params [(5, c)] ((q3 rtn 5 0).setQueue 0 { mode := .on, loops := ls })

theorem test_hyps_loops : (lpD 3 2 []).startable 0 3 = some (desc 3 0 0 0 5 0) ∧ wd ((lpD 3 2 []).paramBlock 0 0) (dArg (desc 3 0 0 0 5 0) 0 % 16) = 2 ∧
    (lpD 4 0 [⟨0, none, 2⟩]).startable 0 4 = some (desc 4 0 0 0 5 0) ∧ (List.replicate 4 (Loop.mk 0 none 1)).length = 4 ∧
    (lpD 3 2 (List.replicate 4 ⟨0, none, 1⟩)).startable 0 3 = some (desc 3 0 0 0 5 0) := by decide +kernel
/-- R259, R260: a loop of 2, a fifth loop, another pass, the last pass, and no loop. -/
theorem test_queue_loops : ((after (.cqLoop 0) (lpD 3 2 [])).queue 0).loops = [⟨1, none, 2⟩] ∧
    ((after (.cqLoop 0) (lpD 3 2 (List.replicate 4 ⟨0, none, 1⟩))).queue 0).runs.map (·.status) = [0x13] := by decide +kernel
theorem test_queue_endloop : ((after (.cqEndloop 0) (lpD 4 0 [⟨7, none, 2⟩])).queue 0).pos = 7 ∧
    ((after (.cqEndloop 0) (lpD 4 0 [⟨7, none, 1⟩])).queue 0).pos = 1 ∧ ((after (.cqEndloop 0) (lpD 4 0 [])).queue 0).runs.map (·.status) = [0x14] := by
  decide +kernel

/-- A queue that records from address 0x8000, with `n` descriptors copied. -/
def recD (rtn n : Nat) : Dev := (q3 rtn 0x8000 1).setQueue 0 { mode := .on, rcd := some ⟨0x8000, true, n, 0, 0⟩ }
/-- A queue that is to replay a closed segment of one descriptor. -/
def repD : Dev :=
  let d := q3 7 0x8000 0
  { d with mem := Mem.write 0x8000 (bytesOf 4 segMagic ++ bytesOf 2 1 ++ [3, 1]) d.mem }

theorem test_hyps_record_and_replay : (q3 5 0x8000 1).startable 0 5 = some (desc 5 0 0 0 0x8000 1) ∧ ((q3 5 0x8000 1).queue 0).loops = [] ∧
    segFits 0x8000 8192 = true ∧ (q3 5 0x8000 1).memWf ∧ (recD 0x100 0).avail 0 0 ≠ 0 ∧ dRtn ((recD 0x100 0).ringDesc 0 0) = 0x100 ∧
    (recD 6 1).startable 0 6 = some (desc 6 0 0 0 0x8000 1) ∧ repD.startable 0 7 = some (desc 7 0 0 0 0x8000 0) ∧
    repD.memRead (dArg (desc 7 0 0 0 0x8000 0) 0) 8 = bytesOf 4 segMagic ++ bytesOf 2 1 ++ [3, 1] ∧ segFits 0x8000 1 = true := by
  unfold Dev.memWf; decide +kernel
theorem test_record : ((after (.cqRecord 0) (q3 5 0x8000 1)).queue 0).rcd = some ⟨0x8000, true, 0, 1, 0⟩ ∧
    ((after (.segmentCopy 0) (recD 0x100 0)).queue 0).rcd.map Rec.count = some 1 := by decide +kernel
theorem test_endrec_replay : Mem.get (after (.cqEndrec 0) (recD 6 1)).mem 0x8007 = 1 ∧
    ((after (.cqReplay 0) repD).queue 0).replay = some ⟨0x8000, 1, 0⟩ := by decide +kernel

/-- A queue at a `cq.swapbank` whose inactive bank is verified if `v`. -/
def swD (v : Nat) : Dev := (q3 8 0 0).setFld (.coreRbank 0) F.coreRbank_VERIFIED v

theorem test_hyps_routine_banks : (swD 1).startable 0 8 = some (desc 8 0 0 0 0 0) ∧ (swD 0).startable 0 8 = some (desc 8 0 0 0 0 0) ∧
    (swD 1).bankRuns 0 = false ∧ (swD 1).flag (.coreRbank 0) F.coreRbank_VERIFIED = true ∧
    (C192.exists (.coreBank 0 1 0) = true ∧ C192.mayWrite .host (.coreBank 0 1 0) 5 = true) ∧ D.fld (.coreRbank 0) F.coreRbank_ACTIVE = 0 ∧
    (C192.exists (.coreRbank 0) = true ∧ C192.mayWrite .host (.coreRbank 0) 4 = true) ∧ D.flag (.coreRbank 0) F.coreRbank_BUSY = false ∧
    (D.setFld (.coreRbank 0) F.coreRbank_BUSY 1).flag (.coreRbank 0) F.coreRbank_BUSY = true ∧ (D.core 0).bankDirty = false ∧
    (C192.exists (rngReg 0 3) = true ∧ C192.mayWrite .host (rngReg 0 3) 5 = true) := by decide +kernel
theorem test_swapbank : (after (.cqSwapbank 0) (swD 1)).fld (.coreRbank 0) F.coreRbank_ACTIVE = 1 ∧
    ((after (.cqSwapbank 0) (swD 0)).queue 0).runs.map (·.status) = [0x18] := by decide +kernel
/-- R265: a write to the active bank changes nothing. -/
theorem test_bank_write : (after (.routineBankWrite .host 0 1 16 5) C192).rd (.coreBank 0 1 2) = 5 ∧ after (.routineBankWrite .host 0 0 16 5) C192 = C192 := by
  decide +kernel
theorem test_bank_verify : (after (.verify .host 0) C192).fld (.coreRbank 0) F.coreRbank_BUSY = 1 ∧
    (after (.bankVerifyEnd 0 true []) (after (.verify .host 0) C192)).fld (.coreRbank 0) F.coreRbank_VERIFIED = 1 ∧
    (after (.bankVerifyEnd 0 false []) (after (.verify .host 0) C192)).fld (.coreRbank 0) F.coreRbank_VFAIL = 1 := by decide +kernel
theorem test_rng_write : (after (.rngRegisterWrite .host 0 3 5) C192).rd (rngReg 0 3) = 0 ∧
    tget 0 (rngReg 0 3) ((after (.rngRegisterWrite .host 0 3 5) C192).core 0).rngHeld = 5 := by decide +kernel

/-- A queue with a ring of 64, head at 0, tail at 1, `m` its mode. -/
def dbD (m : QMode) : Dev := (q3 1 0 0).setQueue 0 { mode := m }

theorem test_hyps_doorbells : ((dbD .on).exists (.cqDoorbell 0) = true ∧ (dbD .on).mayWrite .host (.cqDoorbell 0) 64 = true) ∧
    (dbD .on).replayed 3 = false ∧ (dbD .on).fld .glFolioStatus F.glFolioStatus_STATE ≠ 4 ∧ (dbD .on).coreFenced 0 = false ∧
    diff32 (F.cqDoorbell_TAIL.get 64) ((dbD .on).qTail 0) = 63 ∧ diff32 64 ((dbD .on).qHead 0) ≤ (dbD .on).ringSize 0 ∧ (dbD .on).qKind 0 ≤ 4 ∧ (dbD .on).flag .glChkCtl F.glChkCtl_MASK = false ∧
    ((dbD .stopped).exists (.cqCtl 0) = true ∧ (dbD .stopped).mayWrite .host (.cqCtl 0) 1 = true) ∧ (dbD .on).mayWrite .host (.cqCtl 0) 2 = true ∧
    (D.exists (.cqSig 5) = true ∧ D.mayWrite .host (.cqSig 5) 9 = true) := by decide +kernel
/-- R241: a tail one ring ahead is taken, and one more sets DBERR. -/
theorem test_doorbell : (after (.doorbellWrite .host 0 ⟨64, 0⟩) (dbD .on)).qTail 0 = 64 ∧
    (after (.doorbellWrite .host 0 ⟨65, 0⟩) (dbD .on)).fld (.cqStatus 0) F.cqStatus_DBERR = 1 ∧ (after (.doorbellWrite .host 0 ⟨64, 2⟩) (dbD .on)).coreFenced 0 = true ∧
    (after (.doorbellWrite .host 0 ⟨64, 1⟩) (dbD .on)).coreFenced 0 = false := by decide +kernel
theorem test_resume_stop : ((after (.cqResume .host 0) (dbD .error)).queue 0).mode = .on ∧ ((after (.cqStop .host 0) (dbD .on)).queue 0).mode = .stopped := by
  decide +kernel
theorem test_signal : (after (.signalCounterWrite .host 5 9) D).sig 5 = 9 ∧
    (after (.signalCounterWrite .host 5 (2 ^ 63 + 1)) (D.wr (.cqSig 5) 0xFFFFFFFF)).sig 5 = 0 := by decide +kernel

/-- A running command with signal counter 7 and increment 2, ended with status `st`. -/
def endD (st : Nat) : Dev := running 3 { run1 (desc 0x100 0 7 2 0 0) with status := st } D

theorem test_hyps_completion : ((endD 0).queue 0).runs = [run1 (desc 0x100 0 7 2 0 0)] ∧ (run1 (desc 0x100 0 7 2 0 0)).over = true ∧
    (endD 0).frozenRun 0 (run1 (desc 0x100 0 7 2 0 0)) = false ∧ (endD 0).acked (run1 (desc 0x100 0 7 2 0 0)) = true := by decide +kernel
/-- R250, R254. -/
theorem test_completion : (after (.commandCompletion 0) (endD 0)).sig 7 = 2 ∧ ((after (.commandCompletion 0) (endD 0)).queue 0).runs = [] ∧
    (after (.commandCompletion 0) (endD 5)).sig 7 = 0 ∧ ((after (.commandCompletion 0) (endD 5)).queue 0).mode = .error := by decide +kernel

/-! ### Coves, movers and heat (10) -/

theorem test_hyps_cove_accesses : D.coveReach .host 0 0x10000000001 = false ∧ D.coveReach .bme 0x3FFFFFFFFFFFFF 8 = false ∧
    D.coveReach .host 0 0x10000000000 = true ∧ ({ D with hostLink := true } : Dev).hostLink = true ∧ D.coveReach .bme (stackSize - 8) 8 = true ∧
    coveHint (.mover 3 0) = 3 ∧ D.memWf ∧ D.fld .glFolioStatus F.glFolioStatus_STATE ≠ 2 := by unfold Dev.memWf; decide +kernel
/-- A package whose page 0 is in host bias. -/
def biasD : Dev := { D with hostLink := true, bias := [0] }
theorem test_hyps_host_bias : biasD.coveReach .bme 64 64 = true ∧ coveHint .bme ≠ 3 ∧ biasD.coveDown .bme 64 = none ∧ 64 / 2097152 ∈ biasD.bias ∧
    biasD.memWf ∧ biasD.fld .glFolioStatus F.glFolioStatus_STATE ≠ 2 := by unfold Dev.memWf; decide +kernel
/-- 16 R446, R448: the line comes from the host's caches, unless the link is down. -/
theorem test_host_bias : let f : Found := { host := [(64, List.replicate 64 7)] }
    Mem.get (after (.coveAccess .bme 64 none 64 f) biasD).mem 70 = 7 ∧
    (after (.coveAccess .bme 64 none 64 f) { biasD with hostLink := false }).mem = [] := by decide +kernel
/-- 16 R441: an address that no cove serves stops. -/
theorem test_cove_access : (match exec (.coveAccess .bme 0x3FFFFFFFFFFFFF none 8 {}) (W D) with | .fault .noSuchAddress => true | _ => false) = true := by decide +kernel

/-- A cove counter that selects event `e`. -/
def cvSel (e : Nat) : Dev := (D.setFld (.cvPrio 0) F.cvPrio_BULK_AGE 5).setFld (.cvPmcSel 0 0) ⟨7, 0⟩ e

theorem test_hyps_cove_counts : (cvSel 6).lfld (.cvPmcSel 0 0) ⟨7, 0⟩ = 6 ∧ 64 < stackSize ∧ D.cove 64 = 0 ∧ D.chan 64 = 0 ∧
    0 < (cvSel 6).fld (.cvPrio 0) F.cvPrio_BULK_AGE ∧ (cvSel 6).fld (.cvPrio 0) F.cvPrio_BULK_AGE ≤ 5 ∧ 4 < (cvSel 6).fld (.cvPrio 0) F.cvPrio_BULK_AGE := by decide +kernel
theorem test_cove_counts : [4, 5].map (fun n => (after (.bulkPromotion ⟨0, n⟩) (cvSel 6)).fld (.cvPmcValue 0 0) ⟨47, 0⟩) = [0, 1] ∧
    (after (.dramRefresh 0) (cvSel 9)).fld (.cvPmcValue 0 0) ⟨47, 0⟩ = 1 := by decide +kernel
/-- R284, R286, R287: a corrected word counts; four attempts escalate; the eighth escalation of a channel is package-fatal. -/
theorem test_patrol : (after (.patrolScrub 0 64 .corrected false) D).fld (.cvEcc 0) F.cvEcc_CORR = 1 ∧
    (after (.patrolScrub 0 64 (.retries 3) false) D).fld (.cvEcc 0) F.cvEcc_RETRY = 3 := by decide +kernel
theorem test_escalation : (after (.patrolScrub 0 64 (.retries 4) false) D).fld (.cvEcc 0) F.cvEcc_ESCAL = 1 ∧
    (after (.patrolScrub 0 64 (.retries 4) false) { D with escal := [(0, 7)] }).fld .glErrStatus F.glErrStatus_FATAL_PREV = 1 ∧
    tget 0 (16 * 0 + D.chan 64) ({ D with escal := [(0, 7)] } : Dev).escal = 7 := by decide +kernel

/-- Cove 0 at a temperature and a step. -/
def hotD (t n : Nat) : Dev := (D.setFld (.cvTherm 0) F.cvTherm_TEMP t).setFld (.cvTherm 0) F.cvTherm_STEP n

theorem test_hyps_heat : (0 ∉ (hotD 85 0).jhold) ∧ (hotD 85 0).fld (.cvTherm 0) F.cvTherm_STEP < stepFor 85 ∧ stepFor 81 ≤ 1 ∧
    81 < stepLeave 1 ∧ stepLeave 1 ≤ 82 ∧ (0 ∈ ({ D with jhold := [0] } : Dev).jhold) ∧ (102 ≤ max 101 102) := by decide +kernel
/-- R288, R291: the entry and leave temperatures of step 1; R292: 98 degrees is package-fatal; 20 R558: 102 degrees of a junction. -/
theorem test_throttle_steps : (after (.stackThrottleEval 0) (hotD 85 0)).fld (.cvTherm 0) F.cvTherm_STEP = 1 ∧
    (after (.stackThrottleEval 0) (hotD 82 1)).fld (.cvTherm 0) F.cvTherm_STEP = 1 ∧
    (after (.stackThrottleEval 0) (hotD 81 1)).fld (.cvTherm 0) F.cvTherm_STEP = 0 := by decide +kernel
theorem test_stack_sample : (after (.stackTempSample 0 97 3 4 5) D).fld (.cvTherm 0) F.cvTherm_TEMP = 97 ∧
    (after (.stackTempSample 0 98 3 4 5) D).fld .glErrStatus F.glErrStatus_FATAL_PREV = 1 := by decide +kernel
theorem test_junction : (after (.junctionThrottle 0 102 0) D).fld (.cvTherm 0) F.cvTherm_STEP = 4 ∧
    (after (.junctionThrottle 0 97 0) { D with jhold := [0] }).jhold = [] := by decide +kernel

theorem test_hyps_cove_registers : (D.exists (.cvHintQuota 0) = true ∧ D.mayWrite .host (.cvHintQuota 0) 16 = true) ∧
    (C192.exists (.coreXlatInv 0) = true ∧ C192.mayWrite .host (.coreXlatInv 0) 1 = true) ∧
    (D.exists (.ccXlatInv 0) = true ∧ D.mayWrite .host (.ccXlatInv 0) 1 = true) ∧
    (D.setFld (.ftPort 1) F.ftPort_UP 1).flag (.ftPort 1) F.ftPort_UP = true ∧ D.custQ.length < 64 := by decide +kernel
theorem test_far_port : (after (.farPortDown 1) (D.setFld (.ftPort 1) F.ftPort_UP 1)).fld (.ftPort 1) F.ftPort_DOWN_EV = 1 ∧
    (after (.farTierAerEvent 1 2 3) D).custQ.map (·.data) = [0x300000002] ∧
    (after (.unkeep .host 0) { D with cache := [⟨0, true, none⟩] }).cache = [⟨0, false, none⟩] := by decide +kernel

/-- A mover command within the core store, with 8 bytes at 64. -/
def mvD (rtn : Nat) (ws : List (Nat × Nat)) : Dev := stored 64 (bytesOf 8 0x0807060504030201) (params ws (queued 3 (desc rtn 0 0 0 0 0) D))

/-- Parameters of each mover command that take 8 bytes from 64 to 128 (gather and scatter with an index list of one 0 at 512). -/
def mvWs (rtn : Nat) : List (Nat × Nat) :=
  if rtn = 0x100 then [(0, 64), (1, 128), (2, 3), (3, 8)]
  else if rtn = 0x101 then [(0, 64), (1, 128), (2, 3), (3, 8 + 2 ^ 32 + 2 ^ 48)]
  else [(0, 64), (1, 128), (2, 67), (3, 512), (4, 1 + 8 * 2 ^ 32), (5, 8)]

theorem test_hyps_mover_commands : ([0x100, 0x101, 0x102, 0x103].all (fun rtn =>
      (mvD rtn (mvWs rtn)).startable 0 rtn == some (desc rtn 0 0 0 0 0) &&
      ((mvD rtn (mvWs rtn)).dmPlan ⟨0, (mvD rtn (mvWs rtn)).rootOf 0⟩ ((mvD rtn (mvWs rtn)).newRun 0 (desc rtn 0 0 0 0 0))).1 == 0 &&
      (let x := dmGather ((mvD rtn (mvWs rtn)).dmPlan ⟨0, (mvD rtn (mvWs rtn)).rootOf 0⟩ ((mvD rtn (mvWs rtn)).newRun 0 (desc rtn 0 0 0 0 0))).2
       x.1.length == 1 && x.2.1 == [] && x.2.2.isNone && x.1.all (fun m => m.bad == [])) &&
      ((mvD rtn []).dmPlan ⟨0, (mvD rtn []).rootOf 0⟩ ((mvD rtn []).newRun 0 (desc rtn 0 0 0 0 0))).1 == 0x502)) = true ∧
    (mvD 0x100 []).memWf ∧ ((mvD 0x100 []).queue 0).runs = [] ∧ ((mvD 0x100 []).core 0).inj = none ∧ (mvD 0x100 []).rd .fbPeerDead = 0 := by
  unfold Dev.memWf; decide +kernel
/-- R294 to R297, R295: a copy of 8 bytes; overlapping ranges are refused. -/
theorem test_copy : (after (.dmCopy 0 {}) (mvD 0x100 (mvWs 0x100))).csNum 0 128 8 = 0x0807060504030201 ∧
    ((after (.dmCopy 0 {}) (mvD 0x100 [(0, 64), (1, 72), (2, 3), (3, 16)])).queue 0).runs.map (·.status) = [stOverlap] := by decide +kernel
theorem test_stride_gather_scatter : (after (.dmStride 0 {}) (mvD 0x101 (mvWs 0x101))).csNum 0 128 8 = 0x0807060504030201 ∧
    (after (.dmGather 0 {}) (mvD 0x102 (mvWs 0x102))).csNum 0 128 8 = 0x0807060504030201 ∧
    (after (.dmScatter 0 {}) (mvD 0x103 (mvWs 0x103))).csNum 0 128 8 = 0x0807060504030201 := by decide +kernel

/-- Parameters whose source is an unmapped virtual address. -/
def flWs (rtn : Nat) : List (Nat × Nat) := (mvWs rtn).map (fun p => if p.1 = 2 then (2, p.2 - 1) else p)

/-- Such a command, with an empty translation table. -/
def flD (rtn : Nat) : Dev := (mvD rtn (flWs rtn)).wr (.coreXlatRoot 0) 0x20000

/-- The element and cause at which each mover command stops. -/
theorem test_hyps_mover_faults : ([0x100, 0x101, 0x102, 0x103].all (fun rtn =>
      (flD rtn).startable 0 rtn == some (desc rtn 0 0 0 0 0) &&
      ((flD rtn).dmPlan ⟨0, (flD rtn).rootOf 0⟩ ((flD rtn).newRun 0 (desc rtn 0 0 0 0 0))).1 == 0 &&
      (match dmGather ((flD rtn).dmPlan ⟨0, (flD rtn).rootOf 0⟩ ((flD rtn).newRun 0 (desc rtn 0 0 0 0 0))).2 with
       | ([], [], some (0, .fault 0 64)) => true
       | _ => false))) = true := by decide +kernel
/-- R296, R298: a page that is not present is cause 0; the address stands in the mover's register. -/
theorem test_mover_fault : ((after (.dmCopy 0 {}) (flD 0x100)).queue 0).runs.map (·.status) = [stAddrFault] ∧
    (after (.dmCopy 0 {}) (flD 0x100)).rd (.coreDmFaddr 0 0) = 64 := by decide +kernel

/-- One far-tier set of 1 GiB on port 0, up or down. -/
def farD (up : Nat) : Dev := featured (((D.setFld (.ftSet 0) F.ftSet_SIZE 1).setFld (.ftPort 0) F.ftPort_UP up))
/-- A dirty line at 0 of value 5 that stands as 0 below the cache. -/
def dirtyD : Dev := { D with cache := [⟨0, false, some (zeros 64)⟩], mem := [(0, 5)] }
theorem test_hyps_cove_corners : (farD 0).coveReach (.mover 0 0) farBase 8 = true ∧ (farD 0).coveDown (.mover 0 0) farBase = some 0 ∧
    (farD 1).coveDown (.mover 0 0) farBase = none ∧ dirtyD.memWf ∧ dirtyD.coveReach (.mover 3 0) 0 64 = true ∧
    dirtyD.coveDown (.mover 3 0) 0 = none ∧ coveHint (.mover 3 0) = 3 ∧ coveHint (.mover 0 0) ≠ 3 := by unfold Dev.memWf; decide +kernel
/-- R278: a LAST_USE read of a whole dirty line returns its bytes and discards them; a partial one keeps them. -/
theorem test_last_use : (after (.coveAccess (.mover 3 0) 0 none 64 {}) dirtyD).mem = [] ∧
    (after (.coveAccess (.mover 3 0) 0 none 64 {}) dirtyD).cache = [] ∧
    (after (.coveAccess (.mover 3 0) 0 none 32 {}) dirtyD).mem = [(0, 5)] := by decide +kernel
theorem test_hyps_movers_in_core_store : ([0x100, 0x101].all (fun rtn => plainCheck (rtn == 0x101) ((mvD rtn (mvWs rtn)).paramBlock 0 0) == 0)) = true ∧
    ([0x102, 0x103].all (fun rtn => (mvD rtn (mvWs rtn)).listCheck [] ⟨0, (mvD rtn (mvWs rtn)).rootOf 0⟩ (rtn == 0x103)
      ((mvD rtn (mvWs rtn)).paramBlock 0 0) == 0 && (dmParam ((mvD rtn (mvWs rtn)).paramBlock 0 0)).lcs)) = true ∧
    ([0x100, 0x101, 0x102, 0x103].all (fun rtn => (dmParam ((mvD rtn (mvWs rtn)).paramBlock 0 0)).scs &&
      (dmParam ((mvD rtn (mvWs rtn)).paramBlock 0 0)).dcs && (mvD rtn (mvWs rtn)).badWords.isEmpty &&
      ((mvD rtn (mvWs rtn)).dmElems ⟨0, (mvD rtn (mvWs rtn)).rootOf 0⟩ rtn ((mvD rtn (mvWs rtn)).paramBlock 0 0) == [(64, 128, 8)]))) = true := by
  decide +kernel

/-! ### Beside-memory engines (11) -/

/-- An update command of one block (one row of 32) with master weights and gradients of 1.0 in element 0, η 0.5 and the other
factors 0 (1.0 for the gradient's); `first` sets FIRST. -/
def bmD (rtn count : Nat) : Dev :=
  let d := queued 5 (desc rtn 0 0 0 0 0) D
  let a := [(0, 0x40000), (5, 0x50000)] ++ (if rtn = 0x500 then [] else [(1, 0x60000)]) ++
    (if rtn = 0x502 then [(10, 17), (11, 0x80000), (12, 1 + 32 * 2 ^ 32 + count * 2 ^ 48), (13, 0x90000)]
     else if rtn = 0x501 then [(3, 0x70000), (9, count * 2 ^ 32), (10, 17)] else [(9, count * 2 ^ 32), (10, 17 + 4096)])
  let d := params a d
  let d := [(0, 0x3F000000), (3, 0x3F800000 * 2 ^ 32), (4, if rtn = 0x501 then 1 else 0)].foldl
    (fun d p => d.wr (.coreParam 0 1 p.1) (BitVec.ofNat 64 p.2)) d
  let one := bytesOf 4 0x3F800000
  { d with mem := Mem.write 0x40000 one (Mem.write 0x50000 one d.mem) }

/-- The parameters of such a command. -/
def bmP (d : Dev) : BmePar := bmePar (d.paramBlock 0 0) (d.paramBlock 0 1)

theorem test_hyps_bme : ([0x500, 0x501, 0x502].all (fun rtn =>
      (bmD rtn 1).startable 0 rtn == some (desc rtn 0 0 0 0 0) &&
      ((bmD rtn 1).bmeCheck rtn 0 ((bmD rtn 1).paramBlock 0 0) ((bmD rtn 1).paramBlock 0 1) (bmP (bmD rtn 1))).1 == 0 &&
      ((bmD rtn 0).bmeCheck rtn 0 ((bmD rtn 0).paramBlock 0 0) ((bmD rtn 0).paramBlock 0 1) (bmP (bmD rtn 0))).1 == 0x600)) = true ∧
    (bmD 0x500 1).badWords = [] ∧ (bmD 0x500 1).memWf ∧ (bmD 0x500 1).fld .glFolioStatus F.glFolioStatus_STATE ≠ 2 ∧
    (bmD 0x500 1).bmeBlocks 0 (bmP (bmD 0x500 1)) = [0] := by unfold Dev.memWf; decide +kernel
/-- R316: 1.0 − 0.5 × 1.0 = 0.5. -/
theorem test_sgd : (after (.bmeSgd 0 {}) (bmD 0x500 1)).memRead 0x40000 4 = bytesOf 4 0x3F000000 ∧
    ((after (.bmeSgd 0 {}) (bmD 0x500 0)).queue 0).runs.map (·.status) = [0x600] := by decide +kernel
theorem test_rowada : (after (.bmeRowada 0 {}) (bmD 0x502 1)).fld (.cvBmeStatus 0) F.cvBmeStatus_DONE = 1 := by decide +kernel
theorem test_adamw : (after (.bmeAdamw 0 {}) (bmD 0x501 1)).fld (.cvBmeStatus 0) F.cvBmeStatus_DONE = 1 := by decide +kernel

/-- A held-back update. -/
def bmRetry : Dev := after (.bmeSgd 0 ⟨some 0, []⟩) (bmD 0x500 1)

theorem test_hyps_bme_retry : bmRetry.qKind 0 = 5 ∧ (bmRetry.retryRun 0).isSome = true ∧
    (∀ r, bmRetry.retryRun 0 = some r → bmRetry.frozenRun 0 r = false ∧ 0 < max 1 r.todo.length) := by decide +kernel
theorem test_bme_second_failure : ((after (.checkReexecution 0 (some 0)) bmRetry).queue 0).runs.map (·.status) = [0x604] := by decide +kernel

/-! ### The rack memory plane, the torus and messages (12) -/

/-- Export entry 0 of the first 4 KiB with key 5. -/
def expD : Dev := (D.wr (.fbExpKey 0) (BitVec.ofNat 64 (5 + 15 * 2 ^ 52))).setFld (.fbExpRange 0) F.fbExpRange_SIZE 1

/-- A packet of slot 3 with number 1 and key `k`. -/
def mpk (k off : Nat) (kind : MpKind) : MpPacket := ⟨3, 1, 0, k, off, kind, false⟩

theorem test_hyps_incoming : expD.memWf ∧ expD.fld .glFolioStatus F.glFolioStatus_STATE ≠ 2 ∧ expD.exportOk 0 5 4088 8 0 = true ∧
    expD.exportOk 0 5 4089 8 0 = false ∧ expD.exportOk 0 5 4088 8 1 = true ∧ expD.exportOk 0 6 0 8 1 = false ∧ expD.exportOk 0 5 4088 8 2 = true ∧
    windowAddr 4088 = some 4088 ∧ expD.seqDone 3 1 = false ∧ expD.fabric.atoms = [] ∧ atomicOk 0xD = true ∧ 4088 + 8 ≤ stackSize ∧
    (after (.memoryPlaneAccessReceive (mpk 5 0 (.write ([9, 0, 0, 0, 0, 0, 0, 0].map some)))) expD).seqDone 3 1 = true := by unfold Dev.memWf; decide +kernel
/-- R336, R341: a load is answered, one with a wrong key with zeros; R350: a store is applied once. -/
theorem test_incoming_read : (after (.memoryPlaneAccessReceive (mpk 5 0 (.read 1))) { expD with mem := [⟨0, 7⟩] }).out = [.response 3 1 [7]] ∧
    (after (.memoryPlaneAccessReceive (mpk 6 0 (.read 1))) { expD with mem := [⟨0, 7⟩] }).out = [.response 3 1 [0]] := by decide +kernel
theorem test_incoming_write : Mem.get (after (.memoryPlaneAccessReceive (mpk 5 8 (.write ([9, 0, 0, 0, 0, 0, 0, 0].map some)))) expD).mem 8 = 9 ∧
    (let d := after (.memoryPlaneAccessReceive (mpk 5 8 (.write ([9, 0, 0, 0, 0, 0, 0, 0].map some)))) expD
     after (.memoryPlaneAccessReceive (mpk 5 8 (.write ([4, 0, 0, 0, 0, 0, 0, 0].map some)))) d = d) := by decide +kernel

/-- A waiting add of 2 to the word at 8, that answers slot 3. -/
def atD : Dev := { D with fabric := { D.fabric with atoms := [⟨3, 8, 8, 2, 0, true, some 1⟩] }, mem := [⟨8, 5⟩] }

/-- One load of control core 0 that awaits answer 4, with rd 6. -/
def rdD : Dev :=
  let d := { ccG 0 0 with fabric := { D.fabric with trackers := [⟨4, 3, none, none, some 0, true, none, mpk 0 0 (.read 8), 0, false⟩] } }
  d.setCc 0 { d.cc 0 with wait := .load 6 false [⟨some 4, 0, 8, []⟩] }

theorem test_hyps_atomics : atD.fabric.atoms = [⟨3, 8, 8, 2, 0, true, some 1⟩] ∧ atD.memWf ∧ atD.fld .glFolioStatus F.glFolioStatus_STATE ≠ 2 ∧
    8 + 8 ≤ stackSize ∧ (∀ z ∈ atD.fabric.trackers, ¬ (z.id = 4 ∧ z.fetch = true ∧ z.stalled = false)) ∧
    rdD.fabric.trackers = [⟨4, 3, none, none, some 0, true, none, mpk 0 0 (.read 8), 0, false⟩] ∧ (rdD.cc 0).wait = .load 6 false [⟨some 4, 0, 8, []⟩] ∧
    (D.exists .fbPeerDead = true ∧ D.mayWrite .host .fbPeerDead 8 = true) := by unfold Dev.memWf; decide +kernel
theorem test_remote_atomic : (after .remoteAtomic atD).physNum 8 8 = 7 ∧ (after .remoteAtomic atD).out = [.response 3 1 (bytesOf 8 5)] := by decide +kernel
theorem test_answer : (after (.remoteReadResponse 4 (bytesOf 8 0x1234)) rdD).gReg 0 6 = 0x1234 ∧ (after (.fbPeerDeadWrite .host 8) D).slotDead 3 = true := by
  decide +kernel
theorem test_acks : (after (.acknowledgementReceive 3 5) { D with fabric := { D.fabric with
      trackers := [⟨4, 3, some 5, none, none, false, none, mpk 0 0 (.write [some 1]), 0, false⟩, ⟨5, 3, some 6, none, none, false, none, mpk 0 0 (.write [some 1]), 0, false⟩] } }
    ).fabric.trackers.map (·.id) = [5] ∧ (after (.acknowledgementSend 3) D).out = [.ack 3 0] := by decide +kernel

/-- Package (1, 0, 0) of a torus of 4 by 2 by 2 packages with some ports of both dies up. -/
def torD : Dev :=
  let d := D.wr .fbTorusId (BitVec.ofNat 64 (1 + 4 * 2 ^ 24 + 2 * 2 ^ 30 + 2 * 2 ^ 36))
  [0, 5, 6, 10, 15, 16, 19].foldl (fun d k => d.setFld (.fbPort (k / 10) (k % 10)) F.fbPort_UP 1) d

theorem test_hyps_ports : torD.flag (.fbPort 0 6) F.fbPort_UP = true ∧ torD.flag (.fbPort 1 9) F.fbPort_UP = true ∧
    torD.flag (.fbPort 1 5) F.fbPort_UP = true ∧ torD.torusDir 3 = some 0 ∧ torD.torusDir 1 = none ∧
    torD.torusPort ⟨1, 3, 0, none, 0⟩ 0 = some 1 ∧ ((torD.setFld (.fbPort 0 0) F.fbPort_UP 0).setFld (.fbPort 1 0) F.fbPort_UP 0).torusPort ⟨1, 3, 0, none, 0⟩ 0 = none := by
  decide +kernel
/-- R358: two hops either way go the + way, three the − way, and X comes before Y. -/
theorem test_routing : torD.torusDir 3 = some 0 ∧ torD.torusDir 0 = some 1 ∧ torD.torusDir (2 + 32) = some 0 ∧ torD.torusDir (1 + 32) = some 2 := by
  decide +kernel
theorem test_ports : (after (.rackPathDown 4) torD).flag (.fbPort 1 6) F.fbPort_UP = false ∧
    (after (.torusPortDown 0 5) torD).out = [.retransmit 1 5] ∧ (after (.linkLevelRetransmission 1 9) torD).fld (.fbPort 1 9) F.fbPort_RETRY = 1 ∧
    (after (.torusPacketHop ⟨1, 3, 0, none, 0⟩) torD).out = [.torus 1 0 ⟨1, 3, 0, none, 0⟩] := by decide +kernel

/-- A fabric command of the torus package. -/
def fbD (rtn : Nat) (ws : List (Nat × Nat)) : Dev := mapped (params ws (queued 6 (desc rtn 0 0 0 0 0) torD))

/-- An add of 2 to the word at 0x4000 that returns the old word to 0x4008; a send of 16 bytes to package 3; a receive from it. -/
def amoWs : List (Nat × Nat) := [(0, 0x4000), (1, 2), (3, 0x4008), (4, 8)]
def sendWs : List (Nat × Nat) := [(0, 0x4000), (1, 16 + 3 * 2 ^ 32)]
def recvWs : List (Nat × Nat) := [(0, 0x4000), (1, 16 + 3 * 2 ^ 32), (3, 0x4010)]

theorem test_hyps_fabric_commands : (fbD 0x603 []).startable 0 0x603 = some (desc 0x603 0 0 0 0 0) ∧
    (fbD 0x600 amoWs).startable 0 0x600 = some (desc 0x600 0 0 0 0 0) ∧
    ((fbD 0x600 amoWs).amoCheck 0x10000 ((fbD 0x600 amoWs).paramBlock 0 0)).toOption = some (0x4000, 0x4008) ∧ (fbD 0x600 amoWs).badWords = [] ∧
    (fbD 0x600 amoWs).memWf ∧ (fbD 0x600 amoWs).fabric.atoms = [] ∧ atomicFetches 8 = true ∧
    (fbD 0x601 sendWs).startable 0 0x601 = some (desc 0x601 0 0 0 0 0) ∧
    fbRsv ((fbD 0x601 sendWs).paramBlock 0 0) [2 ^ 64 - 1, 0x3FFFFFFFFFFF, 0xFFFFFFFFFFFF] = false ∧ torD.torusIn 3 = true ∧ torD.torusIn 4 = false ∧
    ((fbD 0x601 sendWs).queue 0).runs = [] ∧ (fbD 0x601 sendWs).vaFault 0x10000 0x4000 16 false = none ∧
    (fbD 0x602 recvWs).startable 0 0x602 = some (desc 0x602 0 0 0 0 0) ∧
    fbRsv ((fbD 0x602 recvWs).paramBlock 0 0) [2 ^ 64 - 1, 0x13FFFFFFFFFFF, 2 ^ 64 - 1, 2 ^ 64 - 1, 0xFFFF] = false ∧
    (fbD 0x602 recvWs).vaFault 0x10000 0x4000 16 true = none ∧ (fbD 0x602 recvWs).vaFault 0x10000 0x4010 16 true = none ∧
    (fbD 0x602 recvWs).fabric.recvs.length < 4096 ∧ (fbD 0x602 recvWs).fabric.unexp = [] := by unfold Dev.memWf; decide +kernel
theorem test_amo : (after (.fbAmo 0) (fbD 0x600 amoWs)).physNum 0x4000 8 = 2 ∧ (after (.fbAmo 0) (fbD 0x600 amoWs)).physNum 0x4008 8 = 0 := by
  decide +kernel
theorem test_send : (after (.fbSend 0 true) (fbD 0x601 sendWs)).out = [.header 3 0 0 16 0, .torus 1 0 ⟨1, 3, 3, none, 0⟩] ∧
    ((after (.fbSend 0 true) (fbD 0x601 [(0, 0x4000), (1, 16 + 4 * 2 ^ 32)])).queue 0).runs.map (·.status) = [0x701] := by decide +kernel
theorem test_recv : (after (.fbRecv 0) (fbD 0x602 recvWs)).fabric.recvs.map (fun r => (r.src, r.len, r.addr)) = [(3, 16, 0x4000)] := by decide +kernel

/-- A posted receive of messages from package 3 with tag 9 on signal 4; the header that it takes. -/
def rcv : Recv := ⟨0, 1, 0, 3, false, 9, BitVec.allOnes 32, 0x4000, 16, none, 4, 1, 0⟩
def hdr : Hdr := ⟨0, 3, 9, 8, 2⟩

theorem test_hyps_messages : rcv.takes hdr = true ∧ rcv.takes { hdr with tag := 8 } = false ∧ rcv.takes { hdr with src := 2 } = false := by decide +kernel
/-- R364 to R367: matched, unexpected, and the signals of both ends. -/
theorem test_messages : (after (.messageHeaderArrival 0 3 9 8 2) { torD with fabric := { D.fabric with recvs := [rcv] } }).fabric.matched = [⟨rcv, hdr⟩] ∧
    (after (.messageHeaderArrival 0 3 8 8 2) { torD with fabric := { D.fabric with recvs := [rcv] } }).fabric.unexp = [{ hdr with tag := 8 }] := by decide +kernel
theorem test_message_ends : (after (.sendPayloadDone 2) { mapped torD with fabric := { D.fabric with sends := [⟨2, 0, 3, 0x10000, 0x4000, 16, 7, 1⟩] } }).sig 7 = 1 ∧
    (after (.messageReceiveDone 0 (zeros 8)) { mapped torD with fabric := { D.fabric with matched := [⟨rcv, hdr⟩] } }).sig 4 = 1 := by decide +kernel

/-- The torus package with both ports towards +X down. -/
def shutD (d : Dev) : Dev := (d.setFld (.fbPort 0 0) F.fbPort_UP 0).setFld (.fbPort 1 0) F.fbPort_UP 0
/-- One write acknowledged as number 5, and one more that waits for its tracker. -/
def stallD : Dev := { D with fabric := { D.fabric with trackers :=
  [⟨4, 3, some 5, none, none, false, none, mpk 0 0 (.write [some 1]), 0, false⟩, ⟨5, 4, some 1, none, none, false, none, mpk 0 8 (.write [some 1]), 0, true⟩] } }
theorem test_hyps_fabric_corners : (fbD 0x601 sendWs).torusShut ⟨1, 3, 3, none, 0⟩ = false ∧ (shutD (fbD 0x601 sendWs)).torusShut ⟨1, 3, 3, none, 0⟩ = true ∧
    (shutD (fbD 0x601 sendWs)).startable 0 0x601 = some (desc 0x601 0 0 0 0 0) ∧ torD.packetDir ⟨1, 3, 0, none, 0⟩ = some 0 ∧
    torD.packetDir ⟨3, 1, 0, none, 0⟩ = none ∧ atomsTo 8 8 atD.fabric.atoms ≠ 0 ∧ atomsTo 16 8 atD.fabric.atoms = 0 ∧ diff32 5 5 < 2 ^ 31 ∧
    stallD.fabric.trackers.length = 2 ∧ ((mapped torD).vaPieces 0x10000 0x4000 false 2 16).toOption = some [(0x4000, 16)] ∧
    (fbD 0x600 amoWs).rootOf 0 = 0x10000 := by decide +kernel
/-- R337: a masked write leaves the bytes that its mask leaves out; R352: a freed tracker lets a waiting packet go; R359: no port, and the header
waits. -/
theorem test_mask : Mem.read (after (.memoryPlaneAccessReceive (mpk 5 8 (.write [some 9, none, some 3, none, none, none, none, none]))) { expD with mem := [⟨9, 7⟩] }).mem 8 3 =
    [9, 7, 3] := by decide +kernel
theorem test_stall : (after (.acknowledgementReceive 3 5) stallD).out = [.packet 4 (mpk 0 8 (.write [some 1]))] := by decide +kernel
theorem test_shut : (after (.fbSend 0 true) (shutD (fbD 0x601 sendWs))).fabric.waiting = [⟨1, 3, 3, none, 0⟩] := by decide +kernel

/-- A send whose header was refused. -/
def rsD : Dev := running 6 { run1 (desc 0x601 0 0 0 0 0) with done := false, unit := 2, params := [0, BitVec.ofNat 64 (16 + 3 * 2 ^ 32), 9] } torD

theorem test_hyps_resend : (rsD.queue 0).runs.map (fun r => (dRtn r.desc, r.done)) = [(0x601, false)] := by decide +kernel
theorem test_resend : (after (.headerResend 0 true) rsD).out = [.header 3 0 9 16 2, .torus 1 0 ⟨1, 3, 3, none, 2⟩] ∧ ((after (.headerResend 0 true) rsD).queue 0).runs.map (·.done) = [true] := by
  decide +kernel

/-! ### Collectives (13) -/

/-- Package (1, 0, 0) of a torus of 4, with group 2 a ring along X of extent 4. -/
def grD : Dev :=
  let d := (D.wr .fbTorusId (BitVec.ofNat 64 (1 + 4 * 2 ^ 24 + 2 ^ 30 + 2 ^ 36))).setFld (.fbPort 0 0) F.fbPort_UP 1
  (featured (d.setFld (.fbPort 0 1) F.fbPort_UP 1)).wr (.fbGroup 2) (BitVec.ofNat 64 (4 * 2 ^ 16 + 2 ^ 24 + 2 ^ 32 + 2 ^ 40 + 2 ^ 43))

/-- A collective of group 2: 1,024 bytes of u32 (type 2) from 0x4000 to 0x8000, root 1. -/
def coD (rtn : Nat) : Dev :=
  mapped (params [(0, 0x4000), (1, 0x8000), (2, if rtn = 0x614 then 0 else 1024), (3, 2 + 2 * 2 ^ 8 + 2 ^ 16)] (queued 6 (desc rtn 0 0 0 0 0) grD))

/-- The same in a BROKEN group. -/
def brD (rtn : Nat) : Dev := (coD rtn).setFld (.fbGstat 2) F.fbGstat_STATE 2

theorem test_hyps_collective_starts : ([0x610, 0x611, 0x612, 0x613, 0x614].all (fun rtn =>
      (coD rtn).startable 0 rtn == some (desc rtn 0 0 0 0 0) && !collBad rtn ((coD rtn).paramBlock 0 0) && !(coD rtn).collGroupBad rtn 2 1 &&
      (coD rtn).collGroupBad rtn 3 1 && collBad rtn (List.replicate 16 (BitVec.allOnes 64)) && (coD rtn).fld (.fbGstat 2) F.fbGstat_STATE != 2)) = true ∧
    (coD 0x610).fabric.arrivals = [] ∧ (brD 0x610).fld (.fbGstat 2) F.fbGstat_STATE = 2 := by decide +kernel
theorem test_collective_starts : [Instr.fbAllreduce 0, .fbRscat 0, .fbAgather 0, .fbBcast 0, .fbBarrier 0].zipIdx.map (fun c =>
      (after c.1 (coD (0x610 + c.2))).fabric.colls.map (·.routine)) = [[0x610], [0x611], [0x612], [0x613], [0x614]] := by decide +kernel
theorem test_broken_group : ((after (.fbAllreduce 0) (brD 0x610)).queue 0).runs.map (·.status) = [stFailed] := by decide +kernel

/-- A barrier and an all-reduce that run, as they stand before their first segment. -/
def barC : Coll := ⟨0, 1, 2, 0, 0x614, 0, 0, 0, 0, 0, 0, 0, [], 0⟩
def arC (x : List Chain) : Coll := ⟨0, 1, 2, 0, 0x610, 2, 1, 1024, 0x4000, 0x8000, 1, 0, x, 0⟩
/-- Stream 0 of the first segment after its first operation, with `n` arrivals of the part of chunk 3. -/
def chn (n : Nat) : Chain := ⟨0, 0, 0, 1, if n = 0 then [] else [(0, n)], [((0, 3), bytesOf 4 5 ++ zeros 60)], []⟩
/-- Package 1 with collective `c`. -/
def cD (c : Coll) : Dev := { (running 6 { run1 (desc 0x610 0 0 0 0 0) with done := false, root := 0x10000 } (mapped grD)) with fabric := { D.fabric with colls := [c] } }
/-- A packet of the all-reduce's first phase, for element type `t`. -/
def cpk (t : Nat) : CollPacket := ⟨2, 0x610, t, 1024, 1, 0, 0, 0, 0, 0, 3, bytesOf 4 7, true⟩

theorem test_hyps_collective_chains : (cD barC).fabric.colls = [barC] ∧ (cD barC).fabric.arrivals = [] ∧ (cD barC).grpAxes 2 ≠ [] ∧
    (cD barC).roomFor barC = true ∧ ((cD barC).setFld (.fbCollStatus 0) F.fbCollStatus_TC_FREE 15).roomFor barC = false ∧ barC.next < barC.segs ∧
    (chn 1).phase < ((cD (arC [chn 1])).phasesOf (arC [chn 1])).length ∧ (cD (arC [])).fld (.fbGstat 2) F.fbGstat_STATE ≠ 2 ∧
    (arC [chn 1]).agrees (cpk 2) = true ∧ (arC [chn 1]).agrees (cpk 3) = false ∧
    ((cD (arC [chn 1])).phasesOf (arC [chn 1]))[0]? = some ⟨0, false⟩ ∧ (chn 1).step + 1 < (cD (arC [])).grpExt 2 0 ∧
    (chn 1).step ≤ tget 0 0 (chn 1).arr ∧
    ringStep ((cD (arC [])).grpExt 2 0) 0 ((cD (arC [])).myPos 2 0) ((chn 1).step + 1) true = 3 ∧
    ((cD (arC [chn 1])).ownInput (arC [chn 1]) (chn 1) 0 3).2.toOption = some (zeros 64, []) ∧
    ((cD (arC [chn 1])).ownInput (arC [chn 1]) (chn 1) 0 3).1 = cD (arC [chn 1]) := by decide +kernel
/-- R383: admission sets up four chains; without room the segment waits and is counted. -/
theorem test_admission : ((after .segmentAdmission (cD barC)).fabric.colls.map (fun c => (c.next, c.chains.length))) = [(1, 4)] ∧
    (after .segmentAdmission ((cD barC).setFld (.fbCollStatus 0) F.fbCollStatus_TC_FREE 15)).fld (.fbCollStatus 0) F.fbCollStatus_ADMIT_WAIT = 1 := by
  decide +kernel
/-- R389: a packet that disagrees ends the collective with COLL_MISMATCH; one that agrees is staged and counted. -/
theorem test_arrival : ((after (.collectivePacketArrival (cpk 3)) (cD (arC [chn 0]))).queue 0).runs.map (·.status) = [0x712] ∧
    (after (.collectivePacketArrival (cpk 2)) (cD (arC [chn 0]))).fabric.colls.map (fun c => c.chains.map (·.arr)) = [[[(0, 1)]]] := by decide +kernel
/-- R384: the part received, added to this member's zeros, goes on to package 2. -/
theorem test_triggered : (after (.triggeredOperation 2 0 ⟨0, 0⟩) (cD (arC [chn 1]))).out.map (fun o => match o with
      | .coll _ _ dst m => (dst, m.chunk, numAt m.data 0 4)
      | _ => (99, 0, 0)) = [(2, 3, 5)] ∧
    (after (.triggeredOperation 2 0 ⟨0, 2⟩) (cD (arC [chn 1]))).fld (.fbGstat 2) F.fbGstat_CAUSE = 2 ∧ (arC [chn 1]).routine ≤ 0x611 ∧
    (cD (arC [])).flag .glChkCtl F.glChkCtl_MASK = false := by decide +kernel

theorem test_hyps_collective_failure : (cD (arC [])).exists (.fbGstat 2) = true ∧ (cD (arC [])).mayWrite .host (.fbGstat 2) (BitVec.ofNat 64 (2 ^ 40)) = true ∧
    (cD (arC [])).mayWrite .host (.fbGstat 2) (BitVec.ofNat 64 (2 ^ 41)) = true ∧ (cD (arC [])).fld (.fbGstat 2) F.fbGstat_STATE ≠ 2 ∧
    (arC []).group = 2 ∧ grD.fabric.colls = [] := by decide +kernel
theorem test_abort : (after (.fbGstatAbort .host 2) (cD (arC []))).fld (.fbGstat 2) F.fbGstat_CAUSE = 3 := by decide +kernel
theorem test_gstat_reset : (after (.fbGstatReset .host 2) (grD.setFld (.fbGstat 2) F.fbGstat_STATE 2)).fld (.fbGstat 2) F.fbGstat_STATE = 0 ∧
    after (.fbGstatReset .host 2) (cD (arC [])) = cD (arC []) := by decide +kernel

/-! ### Plant ports (14) -/

/-- A locked tide with an image loaded and slot 5 of port 0 enabled on mark 1 at 2 counts, its primary buffer of a frame of 14 bytes at
0x4000, its counter 3 and threshold 1, and both links up. -/
def ppD (ctr len : Nat) : Dev :=
  let d := ((freeT.setFld .glImgStatus F.glImgStatus_STATE 2).setFld (.ppStatus 0) F.ppStatus_LINK 1).setFld (.ppStatus 1) F.ppStatus_LINK 1
  let d := d.wr (.ppSlotTime 0 5) (BitVec.ofNat 64 (1 + 2 ^ 8 + 3 * 2 ^ 48))
  let d := (d.setFld (.ppSlotBuf 0 5) F.ppSlotBuf_PADDR 0x100).setFld (.ppSlotBuf 0 5) F.ppSlotBuf_INC 4
  let d := (d.wr (.ppSlotThr 0 5) 1).wr (.cqSig 3) (BitVec.ofNat 64 ctr)
  let d := d.setPlant 0 { d.plant 0 with fallback := [(5, bytesOf 2 14 ++ zeros 62 ++ bytesOf 14 0xABCDEF)] }
  { d with tide := { d.tide with count := 2 * 65536 }, mem := Mem.write 0x4000 (bytesOf 2 len) d.mem, pwrGood := true }

/-- The same in keep-alive, its next frame due. -/
def kaD (up : Nat) : Dev :=
  let d := (ppD 0 14).setFld (.ppStatus 0) F.ppStatus_LINK up
  { d.setPlant 0 { d.plant 0 with kaOn := true, kaPeriod := 100, kaSlots := [5], kaAt := [(5, 0)] } with ptime := 100 }

theorem test_hyps_plant_slots : ((ppD 1 14).elapse 0).commitDue 0 5 = true ∧ (ppD 1 14).flag (.ppCtl 0) F.ppCtl_FORCE_FB = false ∧
    ((ppD 1 14).setFld (.ppCtl 0) F.ppCtl_FORCE_FB 1).flag (.ppCtl 0) F.ppCtl_FORCE_FB = true ∧ geTest ((ppD 1 14).sig 3) 1 = true ∧
    geTest ((ppD 0 14).sig 3) 1 = false ∧ ((ppD 1 14).elapse 0).primaryAt 0 5 = 0x4000 ∧ (ppD 1 14).badBuf 0x4000 = [] ∧
    ({ ppD 1 14 with badWords := [⟨0, 0, 0x4000⟩] } : Dev).badBuf 0x4000 ≠ [] ∧ lenOk (ofBytes ((ppD 1 14).physRead 0x4000 2)) = true ∧
    lenOk (ofBytes ((ppD 1 13).physRead 0x4000 2)) = false ∧ ((kaD 1).elapse 0).kaDue 0 5 = true ∧ ((kaD 1).elapse 0).outPorts 0 = [0] ∧
    ((kaD 1).elapse 0).flag (.ppStatus 0) F.ppStatus_LINK = true ∧ ((kaD 0).elapse 0).flag (.ppStatus 0) F.ppStatus_LINK = false := by
  decide +kernel
/-- R398, R400: the primary where it is held, a late one and the threshold missed; the threshold grows by INC. -/
theorem test_commit : ((after (.slotCommit 0 0 5 true) (ppD 1 14)).plant 0).chosen.map (fun c => (c.1, c.2.cause, c.2.prim)) = [(5, 0, true)] ∧
    ((after (.slotCommit 0 0 5 false) (ppD 1 14)).plant 0).chosen.map (fun c => c.2.cause) = [2] ∧
    ((after (.slotCommit 0 0 5 true) (ppD 0 14)).plant 0).chosen.map (fun c => c.2.cause) = [1] ∧
    (after (.slotCommit 0 0 5 true) (ppD 0 14)).live (.ppSlotThr 0 5) = 5 := by decide +kernel
/-- R409: one frame of 60 bytes and its FCS; R408: discarded and counted where the link is down. -/
theorem test_keep_alive : (after (.keepAliveSend 0 0 5) (kaD 1)).out.map (fun o => match o with
      | .frame p f => (p, f.length, f.take 3)
      | _ => (9, 0, [])) = [(0, 64, [0xEF, 0xCD, 0xAB])] ∧
    (after (.keepAliveSend 0 0 5) (kaD 0)).fld (.ppStatus 0) F.ppStatus_TX_DOWN = 1 := by decide +kernel
theorem test_plant_link : (after (.plantLinkDown 0) (ppD 0 14)).flag (.ppStatus 0) F.ppStatus_LINK = false ∧
    (after (.plantLinkUp 0) (kaD 0)).flag (.ppStatus 0) F.ppStatus_LINK = true := by decide +kernel
/-- The CRC-32 check value. -/
theorem test_fcs : fcs ((List.range 9).map (fun j => BitVec.ofNat 8 (0x31 + j))) = 0xCBF43926 := by decide +kernel

/-- A broadcast frame of 60 bytes with EtherType 0x88B5, and filter 2 for it with ring 1 at 0x8000. -/
def rxF : List Byte := List.replicate 12 0xFF ++ [0x88, 0xB5] ++ zeros 46
def rxD : Dev :=
  let d := (ppD 0 14).wr (.ppRxf 0 2) (BitVec.ofNat 64 (0x88B5 + 2 ^ 28 + 2 ^ 30 + 2 ^ 48))
  d.wr (.ppRxRing 0 1) (BitVec.ofNat 64 (4 + 0x8000 + 9 * 2 ^ 48))

theorem test_hyps_frames : rxD.loaded = true ∧ rxD.flag (.ppStatus 0) F.ppStatus_LINK = true ∧ rxD.replayed 2 = false ∧ rxD.recording 2 = false ∧
    rxD.rxOk 0 rxF true = true ∧ rxD.rxOk 0 rxF false = false ∧ rxD.rxMatch 0 2 rxF = true ∧ (∀ m, m < 2 → rxD.rxMatch 0 m rxF = false) ∧
    (∀ m, m < 16 → (ppD 0 14).rxMatch 0 m rxF = false) ∧ rxD.memWf ∧ rxD.fld .glFolioStatus F.glFolioStatus_STATE ≠ 2 ∧
    rxD.lfld (.ppRxf 0 2) F.ppRxf_RING = 1 ∧ 0x8000 + 64 + rxF.length ≤ stackSize := by unfold Dev.memWf; decide +kernel
/-- R412: the entry's length field and frame, and the signal; a bad FCS is dropped. -/
theorem test_receive : (after (.frameReceive 0 0 rxF true) rxD).memRead 0x8014 2 = bytesOf 2 60 ∧ (after (.frameReceive 0 0 rxF true) rxD).sig 9 = 1 ∧
    (after (.frameReceive 0 0 rxF true) rxD).memRead 0x804C 2 = [0x88, 0xB5] ∧
    (after (.frameReceive 0 0 rxF false) rxD).fld (.ppStatus 0) F.ppStatus_RX_DROP = 1 := by decide +kernel

/-- A plant command of port 0 that reads the buffer at 0x4000 (its slot or time word in word 1). -/
def pcD (rtn w0 w1 w2 : Nat) : Dev := mapped (params [(0, w0), (1, w1), (2, w2)] (queued 7 (desc rtn 0 0 0 0 0) (ppD 0 14)))

theorem test_hyps_plant_commands : (pcD 0x700 0x4000 5 0).startable 0 0x700 = some (desc 0x700 0 0 0 0 0) ∧
    fbRsv ((pcD 0x700 0x4000 5 0).paramBlock 0 0) [2 ^ 64 - 1, 63] = false ∧
    (pcD 0x700 0x4000 5 0).lfld (.ppSlotTime 0 5) F.ppSlotTime_EN ≠ 0 ∧ (pcD 0x700 0x4000 6 0).lfld (.ppSlotTime 0 6) F.ppSlotTime_EN = 0 ∧
    ((pcD 0x700 0x4000 5 0).ppBuffer 0x10000 0x4000).2.toOption.isSome = true ∧ ((pcD 0x700 0x5000 5 0).ppBuffer 0x10000 0x5000).2.toOption = none ∧
    (pcD 0x700 0x4000 5 0).rootOf 0 = 0x10000 ∧ ((pcD 0x700 0x4000 5 0).ppBuffer 0x10000 0x4000).1.fabric = (pcD 0x700 0x4000 5 0).fabric ∧
    ((pcD 0x701 0x4000 0 0).elapse 0).startable 0 0x701 = some (desc 0x701 0 0 0 0 0) ∧ ((pcD 0x701 0x4000 0 0).queue 0).runs = [] ∧
    fbRsv ((pcD 0x701 0x4000 0 3).paramBlock 0 0) [2 ^ 64 - 1, 2 ^ 64 - 1, 0x7FF0003] = false ∧ (pcD 0x701 0x4000 0 0).txHeld 0 = false ∧
    (pcD 0x701 0x4000 0 0).flag (.ppStatus 0) F.ppStatus_LINK = true ∧ bits (0 : Nat) 26 16 + 10 ≤ 14 := by decide +kernel
theorem test_fbload : ((after (.ppFbload 0) (pcD 0x700 0x4000 5 0)).queue 0).runs.map (fun r => (r.status, r.rdata.map (·.1))) = [(0, [5])] ∧
    ((after (.ppFbload 0) (pcD 0x700 0x4000 6 0)).queue 0).runs.map (·.status) = [0x800] ∧
    ((after (.ppFbload 0) (pcD 0x700 0x5000 5 0)).queue 0).runs.map (·.status) = [0x801] := by decide +kernel
theorem test_send_frame : (after (.ppSend 0 0) (pcD 0x701 0x4000 0 0)).out.length = 1 ∧
    ((after (.ppSend 0 0) ((pcD 0x701 0x4000 0 0).setFld (.ppStatus 0) F.ppStatus_LINK 0)).queue 0).runs.map (·.status) = [0x802] := by decide +kernel

/-! ### The host link, start-up and the broadcast (16) -/

/-- A board record of a machine of 4 by 1 by 1 packages at (1, 0, 0), and a start-up that finds everything in order. -/
def brd : Board := ⟨some 3, none, true, false, List.range' 184 8, [1, 2], [3, 4], [], true, 1, 0, 0, 4, 1, 1, none, false, some 7, true⟩
def bootOk : Boot := ⟨true, true, true, [], [(0, 0, 8)], [0], 0⟩

/-- A package that has started up with board `b`, the custodian on, `len` mailbox bytes. -/
def mbD (b : Board) (ws : List (Nat × Nat)) : Dev :=
  let d := { featured D with pwrGood := true, board := some b, topq := some 8, ownerKey := b.ownerKey, hostLink := true }
  ws.foldl (fun d p => d.wr (.hlMbox p.1) (BitVec.ofNat 64 p.2)) (d.setFld .glBootStatus F.glBootStatus_STAGE 4)

/-- A well-formed HSS key of one level of type H10 (its root zero), as mailbox words; the same as bytes. -/
def keyWs : List (Nat × Nat) := [(0, 0x0600000001000000), (1, 0x03000000)]
def keyB : List Byte := [0, 0, 0, 1, 0, 0, 0, 6, 0, 0, 0, 3] ++ zeros 48

theorem test_hyps_mailbox : (mbD brd []).custodianOn = true ∧ (mbD brd []).flag .hlMboxCtl F.hlMboxCtl_BUSY = false ∧
    (mbD brd []).replayed 4 = false ∧ (mbD brd []).recording 4 = false ∧ (mbD brd []).exists .hlMboxCtl = true ∧
    [mboxWord 1 0, mboxWord 1 1, mboxWord 2 32, mboxWord 2 31, mboxWord 3 60, mboxWord 4 5, mboxWord 5 0].all ((mbD brd []).mayWrite .host .hlMboxCtl) = true ∧
    (mbD brd []).board = some brd ∧ (mbD brd []).topq = some 8 ∧ (mbD brd []).leaf < 1024 ∧
    ((mbD brd []).setFld .glBootStatus F.glBootStatus_ATTEST 1).flag .glBootStatus F.glBootStatus_ATTEST = true ∧
    (mbD brd keyWs).mboxBytes 60 = keyB ∧ hssKeyOk keyB = true ∧ brd.fuse = false ∧ ({ brd with fuse := true } : Board).fuse = true ∧
    5 % 256 = 5 ∧ (mbD { brd with fuse := true } []).ownerKey = none := by decide +kernel
/-- R449: IDENTITY answers the key and unit map. -/
theorem test_identity : (after (.identity .host 0) (mbD brd [])).mboxBytes 4 = [1, 2, 3, 4] ∧
    (after (.identity .host 1) (mbD brd [])).fld .hlMboxCtl F.hlMboxCtl_STATUS = 1 := by decide +kernel
theorem test_owner_set : (after (.ownerSet .host 60 false) (mbD brd keyWs)).board = some { brd with ownerKey := some keyB, fuse := true } ∧
    (after (.ownerSet .host 60 false) (mbD { brd with fuse := true } keyWs)).fld .hlMboxCtl F.hlMboxCtl_STATUS = 4 ∧
    (after (.ownerSet .host 60 true) (mbD { brd with fuse := true } keyWs)).fld .hlMboxCtl F.hlMboxCtl_STATUS = 0 := by decide +kernel
theorem test_attest_refused : (after (.attest .host 31) (mbD brd [])).fld .hlMboxCtl F.hlMboxCtl_STATUS = 1 ∧
    (after (.attest .host 32) (mbD brd [])).fld .hlMboxCtl F.hlMboxCtl_STATUS = 2 ∧
    (after (.attest .host 32) { (mbD brd []).setFld .glBootStatus F.glBootStatus_ATTEST 1 with leaf := 1024 }).fld .hlMboxCtl F.hlMboxCtl_STATUS = 3 := by
  decide +kernel
theorem test_bad_request : (after (.mailboxBadRequest .host 5 0) (mbD brd [])).fld .hlMboxCtl F.hlMboxCtl_STATUS = 1 ∧
    (after (.mgmt .host 5 false) (mbD brd [])).fld .hlMboxCtl F.hlMboxCtl_STATUS = 1 ∧
    after (.mailboxBadRequest .host 256 0) (mbD brd []) = mbD brd [] := by decide +kernel

/-- GO of a bias flip of page 2 to direction `t`. -/
def biasV (t : Nat) : Word := ((F.hlBiasCtl_PAGE.put 2 0 |> F.hlBiasCtl_TO.put t) |> F.hlBiasCtl_GO.put 1)

/-- The features 0 and 9 offered and accepted, not locked; with an image loaded. -/
def ofD : Dev := (({ D with pwrGood := true }.wr (.hlFeatOffer 0) 0x201).wr (.hlFeatAccept 0) 0x201).setFld .glBootStatus F.glBootStatus_STAGE 4
def imgD : Dev := (mbD brd []).setFld .glImgStatus F.glImgStatus_STATE 2

theorem test_hyps_host_link : F.hlBiasCtl_GO.get (biasV 1) = 1 ∧ F.hlBiasCtl_TO.get (biasV 1) = 1 ∧ F.hlBiasCtl_TO.get (biasV 0) = 0 ∧
    F.hlBiasCtl_PAGE.get (biasV 1) = 2 ∧ imgD.exists .hlBiasCtl = true ∧ imgD.mayWrite .host .hlBiasCtl (biasV 1) = true ∧ imgD.feat 9 = true ∧
    D.feat 9 = false ∧ imgD.hostLink = true ∧ imgD.memWf ∧ imgD.fld .glFolioStatus F.glFolioStatus_STATE ≠ 2 ∧
    (imgD.exists .hlHostDb = true ∧ imgD.mayWrite (.sup 0) .hlHostDb 5 = true) ∧
    (imgD.exists (.ccCtl 0) = true ∧ imgD.mayWrite .host (.ccCtl 0) 1 = true ∧ imgD.mayWrite .host (.ccCtl 0) 2 = true) ∧ imgD.loaded = true ∧
    D.loaded = false ∧ (ofD.exists .hlFeatCtl = true ∧ ofD.mayWrite .host .hlFeatCtl 1 = true) ∧ ofD.flag .hlFeatCtl F.hlFeatCtl_LOCKED = false ∧
    (∀ j, j < 2 → ofD.rd (.hlFeatAccept j) &&& ofD.rd (.hlFeatOffer j) = ofD.rd (.hlFeatAccept j)) ∧ bit (ofD.rd (.hlFeatAccept 0)).toNat 0 = true ∧
    ofD.bcast.startHeld = false ∧ bit ((ofD.wr (.hlFeatAccept 0) 0x200).rd (.hlFeatAccept 0)).toNat 0 = false ∧ ofD.perst = false ∧
    D.pwrGood = false ∧ brd.fwA.isSome = true ∧ boardMapOk brd = true ∧ boardMapOk { brd with code176 := true } = false ∧ 256 % 256 = 0 := by unfold Dev.memWf; decide +kernel
theorem test_bias : (after (.biasFlip .host (biasV 0) []) imgD).bias = [2] ∧
    Mem.get (after (.biasFlip .host (biasV 1) [(1, List.replicate 64 5)]) imgD).mem (2 * 2097152 + 64) = 5 := by decide +kernel
theorem test_host_doorbell : (after (.hlHostDbWrite (.sup 0) 5) imgD).out = [.msix 1, .msix 3] ∧
    (after (.dbSet .host 0) imgD).flag (.ccCtl 0) F.ccCtl_DB = true := by decide +kernel
theorem test_restart : (after (.restart .host 0) (imgD.wr (.ccTvec 0) 0x5000)).ccReady 0 = true ∧
    ((after (.restart .host 0) (imgD.wr (.ccTvec 0) 0x5000)).cc 0).pc = 0x5000 := by decide +kernel
/-- R453, R454, R455: LOCK, a lock without bit 0, and the custodian's lock. -/
theorem test_feature_lock : (after (.featLock .host) ofD).fld .glBootStatus F.glBootStatus_STAGE = 5 ∧
    (after (.featLock .host) (ofD.wr (.hlFeatAccept 0) 0x200)).flag .hlFeatCtl F.hlFeatCtl_LERR = true ∧
    (after .hostless ofD).flag .hlFeatCtl F.hlFeatCtl_HOSTLESS = true := by decide +kernel
theorem test_host_link : (after .hostLinkDown imgD).hostLink = false ∧ (after .hostLinkUp ofD).hostLink = true ∧
    (after (.identityTreesBuilt true) imgD).flag .glBootStatus F.glBootStatus_ATTEST = true := by decide +kernel
/-- R457 and the power-on table: the failure causes in their order, and a start-up that reaches stage 4. -/
theorem test_power_good : [({ brd with fwA := none }, bootOk), ({ brd with unitMapOk := false }, bootOk), ({ brd with posOk := false }, bootOk),
      (brd, { bootOk with dieLinks := false }), (brd, { bootOk with stacksOk := false }), (brd, bootOk)].map (fun x =>
        (after (.powerGood x.1 x.2) D).fld .glBootStatus F.glBootStatus_FCAUSE) = [1, 2, 3, 4, 5, 0] ∧
    (after (.powerGood brd bootOk) D).fld .glBootStatus F.glBootStatus_STAGE = 4 ∧ (after (.powerGood brd bootOk) D).topq = some 8 := by decide +kernel

/-- Package 1 of a line of 4, root 0, in broadcast state `st`. -/
def bcD (st : Nat) : Dev :=
  let d := (mbD brd []).wr .fbTorusId (BitVec.ofNat 64 (1 + 4 * 2 ^ 24 + 2 ^ 30 + 2 ^ 36))
  (d.setBcastState st).setBcast { d.bcast with root := 0, size := 65537, chunks := 1 }

/-- The write of GL_BCAST_CTL that sends. -/
def sendV (d : Dev) : Word := BitVec.ofNat 64 (1 + 256 * d.fld .glBcastCtl F.glBcastCtl_TIMEOUT)

theorem test_hyps_broadcast : D.mayLoad = false ∧ (bcD 0).mayLoad = true ∧ ((bcD 0).exists .glBcastCtl = true ∧
      (bcD 0).mayWrite .host .glBcastCtl (sendV (bcD 0)) = true) ∧ (bcD 0).children = [2] ∧
    (match (bcD 0).imgVerify with | .error e => e == (2, noSect, 0) | _ => false) = true ∧
    (bcD 3).chunkFits 0 65537 1 2 = false ∧ (bcD 3).chunkFits 0 65537 1 1 = true ∧ (bcD 0).chunkFits 0 16 0 16 = true ∧
    (bcD 3).bcastState = 3 ∧ 2 ∈ (bcD 6).children ∧ (bcD 6).flag .glBcastStatus F.glBcastStatus_ROOT = false ∧
    (bcD 6).bcast.verified = false ∧ (bcD 0).bcast.resent = false := by decide +kernel
/-- R476, R475: an orphan and a waiting package; an acknowledgement is kept. -/
theorem test_broadcast : (after .chunkTimeout (bcD 3)).bcastState = 5 ∧ (after .broadcastDiscardNotice (bcD 3)).bcastState = 4 ∧
    (after (.broadcastAcknowledgement 2 2) (bcD 6)).bcast.acks = [(2, 2)] ∧ (after (.broadcastResendRequest 2) (bcD 6)).out = [.chunk 2 0 65537 0] := by
  decide +kernel
/-- R475: with its own image verified and its child's count of 2, the package acknowledges 3 to package 0. -/
theorem test_acknowledge : (after (.broadcastAcknowledgement 2 2)
      ((bcD 6).setBcast { (bcD 6).bcast with verified := true })).out = [.bcastAck 0 3] ∧ (after (.bcastStart []) (bcD 6)).out = [.bcastStart 2] := by
  decide +kernel
/-- R471: a root whose image fails ends FAILED. -/
theorem test_broadcast_fails : (after (.bcastSend .host []) (bcD 0)).bcastState = 10 := by decide +kernel

/-- An image of one section that verifies, and a package of the broadcast whose owner's key it has. -/
def okImg : List Byte := Laws.Image.img (Laws.Image.oneSec 3).length 384 (Laws.Image.tableOf (Laws.Image.oneSec 3)) Laws.Image.oneBody
def okKey : List Byte := Laws.Image.keyZ (sha256 (Laws.Image.imgPre (Laws.Image.oneSec 3).length 384 (Laws.Image.tableOf (Laws.Image.oneSec 3)) Laws.Image.oneBody))
def rootD (b k : List Byte) : Dev := { (bcD 0).wr (.glUnitEnable 0) 1 with mem := Mem.write 0 b [], ownerKey := some k }
def heirD (k : List Byte) : Dev := { (bcD 0).wr (.glUnitEnable 0) 1 with ownerKey := some k }
/-- The package after chunk 0, whole. -/
def rx1 : Dev :=
  let d1 := ((heirD okKey).bcastBegin 0 3008).storeStack (bcastBase + 65536 * 0) okImg
  (d1.setBcast { d1.bcast with chunks := 0 + 1 }).toChildren (fun c => .chunk c 0 3008 0)
def rx0 : Dev := { (heirD okKey).bcastBegin 0 3008 with mem := Mem.write bcastBase okImg [] }

theorem bcastBegin_keeps (d : Dev) (r n : Nat) : ∃ x y, d.bcastBegin r n = { d with regs := x, bcast := y } := by
  unfold Dev.bcastBegin
  dsimp only
  split <;> exact ⟨_, _, rfl⟩
theorem toChildren_keeps (f : Nat → Out) (d : Dev) : ∃ o, d.toChildren f = { d with out := o } := by
  unfold Dev.toChildren
  generalize d.children = l
  induction l generalizing d with
  | nil => exact ⟨d.out, rfl⟩
  | cons c t ih => obtain ⟨o, h⟩ := ih (d.emit (f c)); exact ⟨o, h⟩
theorem length_okImg : okImg.length = 3008 := Laws.Image.length_img _ _ _ _
theorem verify_okImg (d : Dev) (a : Nat) (h : Laws.Image.Holds d a okImg) (hk : d.ownerKey = some okKey) (hu : d.usable = [0]) : d.imgVerify = .ok okImg :=
  Laws.Image.imgVerify_img d a (Laws.Image.oneSec 3) 384 Laws.Image.oneBody (Laws.Image.fits_oneSec 3 (by decide)) h hk (by rw [hu]; decide)
theorem storeStack_plain (d : Dev) (a n : Nat) (bs : List Byte) (hk : d.fld .glFolioStatus F.glFolioStatus_STATE ≠ 2) (hn : bs.length = n)
    (hp : a / 65536 = (a + n - 1) / 65536) (hm : d.mem = []) (hb : d.badWords = []) :
    d.storeStack a bs = { d with mem := Mem.write a bs [] } := by
  simp only [Dev.storeStack, Dev.holdFor, Dev.cowLeaf, hk, hn, hp, if_true, if_false, hm, hb, List.filter_nil]

/-- The package after chunk 0. -/
theorem rx1_holds : Laws.Image.Holds rx1 bcastBase okImg ∧ rx1.ownerKey = some okKey ∧ rx1.usable = [0] := by
  obtain ⟨x, y, e⟩ := bcastBegin_keeps (heirD okKey) 0 3008
  have hs : ((heirD okKey).bcastBegin 0 3008).storeStack (bcastBase + 65536 * 0) okImg = rx0 :=
    storeStack_plain _ _ 3008 okImg (by decide +kernel) length_okImg (by decide) (by rw [e]; rfl) (by rw [e]; rfl)
  have r : rx1 = (rx0.setBcast { rx0.bcast with chunks := 0 + 1 }).toChildren (fun c => .chunk c 0 3008 0) := by simp only [rx1, hs]
  have i : rx1.imgAddr = bcastBase := by rw [r]; decide +kernel
  have u : rx1.usable = [0] := by rw [r]; decide +kernel
  obtain ⟨o, h⟩ := toChildren_keeps (fun c => .chunk c 0 3008 0) (rx0.setBcast { rx0.bcast with chunks := 0 + 1 })
  have m1 : rx1.mem = Mem.write bcastBase okImg [] := by rw [r, h]; simp only [Dev.setBcast, rx0]
  have m2 : rx1.badWords = [] := by rw [r, h]; show ((heirD okKey).bcastBegin 0 3008).badWords = []; rw [e]; rfl
  have m4 : rx1.ownerKey = some okKey := by rw [r, h]; show ((heirD okKey).bcastBegin 0 3008).ownerKey = some okKey; rw [e]; rfl
  exact ⟨⟨m1, i, m2, by rw [length_okImg]; decide⟩, m4, u⟩
theorem rootD_holds : Laws.Image.Holds (rootD okImg okKey) 0 okImg ∧ (rootD okImg okKey).usable = [0] := by
  have u : (rootD okImg okKey).usable = [0] := by decide +kernel
  have i : (rootD okImg okKey).imgAddr = 0 := by decide +kernel
  exact ⟨⟨by simp only [rootD], i, by simp only [rootD]; rfl, by rw [length_okImg]; decide⟩, u⟩

theorem test_hyps_broadcast_image : (rootD okImg okKey).imgVerify = .ok okImg ∧
    ((rootD okImg okKey).exists .glBcastCtl = true ∧ (rootD okImg okKey).mayWrite .host .glBcastCtl (sendV (rootD okImg okKey)) = true) ∧
    (rootD okImg okKey).mayLoad = true ∧ ((rootD okImg okKey).setBcast { (rootD okImg okKey).bcast with root := (rootD okImg okKey).torusId }).children ≠ [] ∧
    (heirD okKey).chunkFits 0 3008 0 okImg.length = true ∧ rx1.imgVerify = .ok okImg := by
  obtain ⟨h1, h2, h3⟩ := rx1_holds
  exact ⟨verify_okImg _ 0 rootD_holds.1 rfl rootD_holds.2, by decide +kernel, by decide +kernel, by decide +kernel,
    by rw [length_okImg]; decide +kernel, verify_okImg _ _ h1 h2 h3⟩

/-! ### The Tameel image and control space (15) -/

open Sys2Proof.Laws.Image in
/-- Images of one section, of type 0 and of type 3 with a record at no register; the latter's applying fails. -/
theorem one_image (t : Nat) (ht : t ∈ [0, 3]) : (imgDev (oneSec t) 384 oneBody).imgVerify = .ok (img 1 384 (tableOf (oneSec t)) oneBody) ∧
    imgSects (img 1 384 (tableOf (oneSec t)) oneBody) = [⟨0, t, 1, 320, 16, crc32c badRec, 0, 0⟩] := by
  have f := fits_oneSec t ht
  exact ⟨imgVerify_imgDev (oneSec t) 384 oneBody f (by decide), imgSects_img (oneSec t) 384 oneBody f.h6 f.small⟩

/-- The package that an image is applied to. -/
def blankOf (d : Dev) (b : List Byte) : Dev := (d.noImage.setFld .fbTorusId ⟨40, 24⟩ 0).numberCores b

open Sys2Proof.Laws.Image in
theorem test_hyps_image : D.mayLoad = false ∧ (∃ k, (Req.sup 0 = .sup k ∨ Req.sup 0 = .job k)) ∧
    (∀ d ∈ [holding [] [], holding (zeros 8) []], (d.exists .glImgCtl = true ∧ d.mayWrite .host .glImgCtl 1 = true) ∧ d.mayLoad = true ∧
      (match d.imgVerify with | .error e => e == (2, noSect, 0) | _ => false) = true) ∧
    (imgDev (oneSec 0) 384 oneBody).mayLoad = true ∧ (imgDev (oneSec 3) 384 oneBody).mayLoad = true ∧ dW.mayLoad = true ∧
    (imgD.exists .glImgCtl = true ∧ imgD.mayWrite .host .glImgCtl 2 = true) ∧ imgD.mayUnload = true ∧ D.mayUnload = false := by
  refine ⟨?_, ⟨0, Or.inl rfl⟩, ?_⟩ <;> decide +kernel
open Sys2Proof.Laws.Image in
theorem test_hyps_image_unused : ∃ b e, (imgDev (oneSec 0) 384 oneBody).imgVerify = .ok b ∧ (imgSects b).findSome? sectUnused = some e ∧ e.1 < 16 := by
  obtain ⟨h1, h2⟩ := one_image 0 (by decide)
  exact ⟨_, (7, 0, 0), h1, by rw [h2]; rfl, by decide⟩
open Sys2Proof.Laws.Image in
theorem test_hyps_image_record : ∃ b x e, (imgDev (oneSec 3) 384 oneBody).imgVerify = .ok b ∧ (imgSects b).findSome? sectUnused = none ∧ e.1 < 16 ∧
    imgEach (applySect [] b) ((blankOf (imgDev (oneSec 3) 384 oneBody) b).sectOrder b)
      ⟨blankOf (imgDev (oneSec 3) 384 oneBody) b, [], [], [((imgDev (oneSec 3) 384 oneBody).imgAddr, b.length)], []⟩ = (x, some e) := by
  obtain ⟨h1, h2⟩ := one_image 3 (by decide)
  have hs : sliceB (img 1 384 (tableOf (oneSec 3)) oneBody) 320 16 = badRec := (fits_oneSec 3 (by decide)).place _ (List.mem_cons_self ..)
  have ho (d : Dev) : d.sectOrder (img 1 384 (tableOf (oneSec 3)) oneBody) = [⟨0, 3, 1, 320, 16, crc32c badRec, 0, 0⟩] := by
    rw [Dev.sectOrder, h2]; simp [sortBy, insertBy]
  have ha (x : ImgAcc) : applySect [] (img 1 384 (tableOf (oneSec 3)) oneBody) ⟨0, 3, 1, 320, 16, crc32c badRec, 0, 0⟩ x = (x, some (7, 0, 0)) := by
    simp only [applySect, hs]; rfl
  exact ⟨_, _, (7, 0, 0), h1, by rw [h2]; rfl, by decide, by rw [ho, imgEach, ha]⟩
/-- R426: a whole image that loads. -/
theorem test_hyps_image_loads : ∃ b x, Laws.Image.dW.imgVerify = .ok b ∧ (imgSects b).findSome? sectUnused = none ∧
    imgEach (applySect [] b) ((blankOf Laws.Image.dW b).sectOrder b) ⟨blankOf Laws.Image.dW b, [], [], [(Laws.Image.dW.imgAddr, b.length)], []⟩ = (x, none) ∧
    x.dev.crossFault x = none := by
  obtain ⟨x, h1, h2⟩ := Laws.Image.apply_imgW []
  exact ⟨_, x, Laws.Image.imgVerify_dW, Laws.Image.unused_imgW, h1, h2⟩
/-- R426, R429: memory without an image fails with IMG_FORMAT; an unload leaves EMPTY. -/
theorem test_image_load : (after (.imgLoad .host []) (Laws.Image.holding [] [])).fld .glImgStatus F.glImgStatus_CODE = 2 ∧
    (after (.imgLoad .host []) (Laws.Image.holding [] [])).fld .glImgStatus F.glImgStatus_STATE = 3 ∧
    (after (.unload .host) imgD).fld .glImgStatus F.glImgStatus_STATE = 0 := by decide +kernel

/-- A write that register `r` of package `d` takes. -/
def takes (d : Dev) (req : Req) (r : Reg) (v : Word) : Bool :=
  d.regAt r.off == some r && d.mayWrite req r v && !d.locked r && d.writeTaken r v

theorem test_hyps_register_writes : D.regAt 8 = none ∧
    (D.regAt Reg.hlEvent.off = some .hlEvent ∧ Reg.hlEvent.info.bytes ≠ 4) ∧
    (D.regAt (Reg.ccTvec 0).off = some (.ccTvec 0) ∧ (Reg.ccTvec 0).info.bytes = 8 ∧ D.mayWrite .host (.ccTvec 0) 0 = false) ∧
    (imgD.regAt Reg.glMemMap.off = some .glMemMap ∧ imgD.locked .glMemMap = true) ∧
    (D.regAt Reg.tgCtl.off = some .tgCtl ∧ D.writeTaken .tgCtl 0 = false) ∧
    (takes D (.sup 0) (.ccTvec 0) 0x1000 = true ∧ [Reg.hlEvent, .cvPrio 3, .fbExpRange 4095, .ppCtl 1].all (fun r => takes (featured D) .host r 1) = true) ∧
    ([Reg.tgCtl, .tgPhase 7, .glPwrCap, .ppSlotBuf 1 63].zip [0x10001, 0, 0x960000009C4, 0x10000000000000]).all (fun p => takes (featured D) .host p.1 p.2) = true ∧
    (takes imgD .host .glPwrCap 0x960000009C4 = true ∧ imgD.loaded = true) := by decide +kernel
/-- R432, R436: a write of a locked register, one that a table does not allow, and one that takes. -/
theorem test_register_write : (after (.registerWrite (.sup 0) (Reg.ccTvec 0).off 8 0x1000) D).rd (.ccTvec 0) = 0x1000 ∧
    (after (.registerWrite .host Reg.glMemMap.off 8 1) imgD).rd .glMemMap = imgD.rd .glMemMap ∧
    (after (.registerWrite .host Reg.tgCtl.off 8 0) D).rd .tgCtl = D.rd .tgCtl := by decide +kernel

/-! ### Dependability (17) and the supply (20) -/

/-- Core 0 with a fence to report, an injection, a running test. -/
def fencedD : Dev := C192.setCore 0 { C192.core 0 with fence := some ⟨3, true, none, true, false, 0, 0⟩ }
def soundD (q : Option Nat) : Dev := (C192.setCore 0 { C192.core 0 with sound := some ⟨true, q, none⟩ }).setFld (.coreSound 0) F.coreSound_BUSY 1
def unsettled (d : Dev) : Dev := { d with fabric := { d.fabric with trackers := [⟨0, 0, some 0, none, none, false, some 0, ⟨0, 0, 0, 0, 8, .read 8, false⟩, 0, false⟩] } }
def fenceV (c p : Nat) : Word := BitVec.ofNat 64 (c + 256 * p + 512)
def injV (c u n : Nat) : Word := BitVec.ofNat 64 (c + u * 256 + n * 2048 + 8192)
/-- Core 0's sounding command ready in queue 0. -/
def soundQ (a1 : Nat) : Dev := queued 0 (desc 0x900 0 0 0 1 a1) C192

theorem test_hyps_fences : (C192.exists .glFenceCtl = true ∧ C192.mayWrite .host .glFenceCtl (fenceV 191 1) = true ∧
      C192.mayWrite .host .glFenceCtl (fenceV 192 0) = true) ∧ C192.flag .glFenceCtl F.glFenceCtl_BUSY = false ∧ 191 < C192.nCores ∧ ¬ 192 < C192.nCores ∧
    C192.coreFenced 191 = false ∧ (after (.fenceGo .host 191 true) C192).coreFenced 191 = true ∧
    ((after (.fenceGo .host 191 true) C192).setFld .glFenceCtl F.glFenceCtl_BUSY 0).coreFenced 191 = true ∧
    (after (.fenceGo .host 191 true) C192).flag .glFenceCtl F.glFenceCtl_BUSY = true ∧ (fencedD.core 0).fence.isSome = true ∧ fencedD.storesSettled 0 = true ∧
    (unsettled fencedD).storesSettled 0 = false ∧ ((unsettled fencedD).core 0).fence.isSome = true ∧ fencedD.custQ.length < 64 := by decide +kernel
theorem test_hyps_injection : (C192.exists .glChkCtl = true ∧ C192.mayWrite .host .glChkCtl (injV 0 5 2) = true) ∧
    C192.flag .glChkCtl F.glChkCtl_INJ_PEND = false ∧ C192.coreFenced 0 = false ∧ (after (.inj .host 0 5 2) C192).flag .glChkCtl F.glChkCtl_INJ_PEND = true := by
  decide +kernel
theorem test_hyps_sounding : (C192.exists (.coreSound 0) = true ∧ C192.mayWrite .host (.coreSound 0) 3 = true) ∧
    C192.flag (.coreSound 0) F.coreSound_BUSY = false ∧ (soundD none).flag (.coreSound 0) F.coreSound_BUSY = true ∧
    (soundQ 5).startable 0 0x900 = some (desc 0x900 0 0 0 1 5) ∧ (soundQ 0).startable 0 0x900 = some (desc 0x900 0 0 0 1 0) ∧
    dArg (desc 0x900 0 0 0 1 5) 1 ≠ 0 ∧ (soundQ 0).flag (.coreSound 0) F.coreSound_BUSY = false ∧ ((soundD (some 0)).core 0).sound = some ⟨true, some 0, none⟩ ∧
    (soundD none).coreRuns 0 = false ∧ (C192.core 0).sound = none ∧ (running 0 (run1 (desc 0x100 0 0 0 0 0)) C192).coreRuns 0 = true := by decide +kernel
/-- R490, R493: a fence and its report. -/
theorem test_fence : (after (.fenceGo .host 3 true) C192).fld .glErrStatus F.glErrStatus_FENCE_EV = 1 ∧
    (after (.fenceReport 0) fencedD).custQ.map CustEv.code = [0x51] ∧ (after (.fenceReport 0) fencedD).fld .glFenceCtl F.glFenceCtl_RESULT = 1 ∧
    (after (.inj .host 0 5 2) C192).core 0 = { C192.core 0 with inj := some ⟨5, 2⟩ } := by decide +kernel
/-- R503 to R506: a test asked for, a command that is refused, a pass and a failing unit, which fences the core. -/
theorem test_sounding : ((after (.soundingTestGo .host 0 true) C192).core 0).sound = some ⟨true, none, none⟩ ∧
    ((after (.coreSoundCommand 0) (soundQ 5)).queue 0).runs.map Run.status = [stDescInvalid] ∧
    ((after (.coreSoundCommand 0) (soundQ 0)).core 0).sound = some ⟨true, some 0, none⟩ ∧
    (after (.soundResult 0 none) (soundD none)).fld (.coreSound 0) F.coreSound_STATUS = 0 ∧
    (after (.soundResult 0 (some 7)) (soundD none)).fld (.coreSound 0) F.coreSound_UNIT = 7 ∧
    (after (.soundResult 0 (some 7)) (soundD none)).coreFenced 0 = true := by decide +kernel

/-- Events waiting at the custodian of a package that has started up. -/
def ev (c : Nat) : CustEv := ⟨0, 0, 0, c, 0, true, some 2⟩
def custD (es : List CustEv) (lost : Nat) : Dev := { mbD brd [] with custQ := es, custLost := lost }
/-- A supply configuration of 44 V and 41 V, warned or not. -/
def supD (w : Nat) : Dev := ((mbD brd []).wr .glSupplyCfg (F.glSupplyCfg_RESET.put 164 (F.glSupplyCfg_WARN.put 180 0))).setFld .glErrStatus F.glErrStatus_SUPPLY_WARN w

theorem test_hyps_custodian : (custD [ev 1, ev 2] 3).custodianOn = true ∧ (custD [ev 1, ev 2] 3).custQ = [ev 1, ev 2] ∧ (custD [ev 1] 0).custLost = 0 ∧
    (custD [ev 1] 3).custLost ≠ 0 ∧ (custD [] 0).custQ = [] ∧ (custD [ev 1] 0).custQ ≠ [] ∧ (1 < 3 ∧ 3 ≤ tget 0 0 ({ D with cmpRun := [(0, 2)] } : Dev).cmpRun + 1) ∧
    (supD 0).warnAt = 45000 ∧ (supD 0).resetAt = 41000 ∧ (supD 0).flag .glErrStatus F.glErrStatus_SUPPLY_WARN = false ∧
    (supD 1).flag .glErrStatus F.glErrStatus_SUPPLY_WARN = true ∧ (supD 0).custodianOn = true ∧ (supD 0).pwrGood = true ∧
    ((supD 0).setFld .glImgInfo F.glImgInfo_SUPPLY_FB 1).flag .glImgInfo F.glImgInfo_SUPPLY_FB = true ∧
    ((supD 0).exists .glSupplyStatus = true ∧ (supD 0).mayWrite .host .glSupplyStatus (BitVec.ofNat 64 (2 ^ 48)) = true) := by decide +kernel
/-- R496, R497: an event is logged, raises vector 0 and writes its record; a lost count follows the last one. -/
theorem test_custodian_event : (after .custodianEvent (custD [ev 1, ev 2] 0)).custQ = [ev 2] ∧
    ((after .custodianEvent (custD [ev 1] 3)).log.map (fun x => x.2.code)).contains 0xF0 = true ∧
    (after (.custodianError .parity) (custD [] 0)).custQ.map CustEv.code = [0x50] ∧
    (after (.custodianError .parity) (custD [ev 1] 0)).fld .glErrStatus F.glErrStatus_FATAL_PREV = 1 := by decide +kernel
theorem test_compare : tget 0 0 (after (.tideCmp .gate false) D).cmpRun = 1 ∧
    tget 0 3 (after (.tideCmp (.sched 2 0) true) { D with cmpRun := [(0, 2)] }).cmpRun = 1 ∧
    (after (.tideCmp .gate true) { (mbD brd []) with cmpRun := [(0, 2)] }).fld .glErrStatus F.glErrStatus_FATAL_PREV = 1 := by decide +kernel
/-- R554, R555: the warning at 45 V and its end 0.5 V above; R560: the reset; R559: a power-down. -/
theorem test_supply : (after (.supplyWarn 44999) (supD 0)).supplyWarnN = true ∧ (after (.supplyWarn 45000) (supD 0)).supplyWarnN = false ∧
    (after (.supplyWarnClear 45500) (supD 1)).fld .glErrStatus F.glErrStatus_SUPPLY_WARN = 0 ∧
    (after (.supplyWarnClear 45499) (supD 1)).fld .glErrStatus F.glErrStatus_SUPPLY_WARN = 1 ∧
    (after (.supplyReset 40999) (supD 0)).pwrGood = false ∧ (after (.supplyReset 41000) (supD 0)).pwrGood = true := by decide +kernel
theorem test_resets : (after (.powerDown 29999) (supD 0)).pwrGood = false ∧ (after .resetN { supD 0 with queues := [(0, {})] }).queues = [] ∧
    (after (.perstN true) { supD 0 with bias := [4] }).bias = [] ∧ (after (.perstN false) { supD 0 with perst := true }).perst = false ∧
    (after (.minClr .host) (supD 0)).fld .glSupplyStatus F.glSupplyStatus_VIN_MIN = 0xFFFF := by decide +kernel

/-! ### Recording, replay and snapshots (18) -/

/-- A recording that lost two entries, with a ring of 4096 bytes at 1 MiB. -/
def recrD (on : Bool) (lost : Nat) : Dev :=
  let d := ((featured D).setFld .cnRecRing F.cnRecRing_LOG2SIZE 12).setFld .cnRecRing F.cnRecRing_BASE 16384
  { d with recd := { d.recd with on := on, lost := lost } }
/-- A replay whose ring, of 4096 bytes at 1 MiB, holds an entry of kind `k` (information `i`) 32 bytes long, at position 32 with sequence number `q`;
the kinds in `m` are delivered. -/
def rplD (k i q m : Nat) : Dev :=
  let d := (((featured D).setFld .cnRplRing F.cnRplRing_LOG2SIZE 12).setFld .cnRplRing F.cnRplRing_BASE 16384).setFld .cnRplCtl F.cnRplCtl_KINDS m
  let d := { d with recd := { d.recd with rplOn := true, rplPos := 32, rplSeq := 4, rplFirst := 0 } }
  { d with mem := Mem.write 0x100020 (bytesOf 8 0 ++ bytesOf 8 100 ++ bytesOf 4 q ++ bytesOf 1 k ++ bytesOf 1 0 ++ bytesOf 2 32 ++ bytesOf 8 i) d.mem }
def rplV (k : Nat) : Word := BitVec.ofNat 64 (1 + k * 256)
/-- A package with a counter at 77 and the reader on; one whose snapshot waits. -/
def pmcD (en : Nat) : Dev := ((featured D).wr (.cnPmcValue 3) 77).setFld .cnRdCtl F.cnRdCtl_EN en
def snapV (d : Dev) : Word := BitVec.ofNat 64 (2 + d.fld .cnRdCtl F.cnRdCtl_EN)
def snapD : Dev := { pmcD 1 with snap := some ⟨9, 8, 7, 1, 0, 0, 0⟩ }

theorem test_hyps_record : (recrD true 2).recd.on = true ∧ (recrD true 2).recd.lost ≠ 0 ∧ 32 ≤ (recrD true 2).recSpace ∧
    ((recrD true 2).rd .cnRecWptr).toNat % 2 ^ (recrD true 2).lfld .cnRecRing F.cnRecRing_LOG2SIZE + 32 ≤ 2 ^ (recrD true 2).lfld .cnRecRing F.cnRecRing_LOG2SIZE ∧
    (recrD true 2).memWf ∧ (recrD true 2).noCopy ∧ (recrD false 2).recd.on = false ∧ (recrD true 0).recd.lost = 0 ∧
    ((recrD true 2).wr .cnRecWptr 4080).recSpace < 32 := by unfold Dev.memWf Dev.noCopy; decide +kernel
theorem test_hyps_replay : ((featured D).exists .cnRplCtl = true ∧ (featured D).mayWrite .host .cnRplCtl (rplV 63) = true ∧
      (featured D).mayWrite .host .cnRplCtl 2 = true) ∧ (featured D).fld .cnRplStatus F.cnRplStatus_STATE = 0 ∧
    ((featured D).setFld .cnRplStatus F.cnRplStatus_STATE 2).fld .cnRplStatus F.cnRplStatus_STATE ≠ 0 ∧ D.loaded = false ∧ imgD.loaded = true ∧
    (D.elapse 5).recd.rplOn = false ∧
    (∀ p ∈ [(0, 5, 0), (7, 5, 0), (3, 6, 0), (6, 5, 100), (5, 5, 99), (2, 5, 100)], ((rplD p.1 1 p.2.1 0).elapse p.2.2).recd.rplOn = true ∧
      ((rplD p.1 1 p.2.1 0).elapse p.2.2).recd.rplPos ≠ 0 ∧ ((rplD p.1 1 p.2.1 0).elapse p.2.2).recd.rplItem = 0) ∧
    [(0, 5), (7, 5), (3, 6), (6, 5), (5, 5)].map (fun p => let h := ((rplD p.1 1 p.2 0).elapse 1).rplBytes 32 32
      (numAt h 20 1, numAt h 16 4, numAt h 22 2, numAt h 24 1)) = [(0, 5, 32, 1), (7, 5, 32, 1), (3, 6, 32, 1), (6, 5, 32, 1), (5, 5, 32, 1)] ∧
    (let e := (rplD 6 1 5 0).elapse 100
     e.recd.rplAt + numAt (e.rplBytes 32 32) 8 8 ≤ e.cycle + e.recd.rplFirst) ∧
    (let e := (rplD 5 1 5 0).elapse 99
     ¬ e.recd.rplAt + numAt (e.rplBytes 32 32) 8 8 ≤ e.cycle + e.recd.rplFirst) ∧ bit (((rplD 5 1 5 0).elapse 100).fld .cnRplCtl F.cnRplCtl_KINDS) 4 = false := by
  decide +kernel
theorem test_hyps_snapshot : ((pmcD 1).exists .cnRdCtl = true ∧ (pmcD 1).mayWrite .host .cnRdCtl (snapV (pmcD 1)) = true ∧
      snapD.mayWrite .host .cnRdCtl (snapV snapD) = true) ∧ (pmcD 1).snap = none ∧ snapD.snap = some ⟨9, 8, 7, 1, 0, 0, 0⟩ ∧ snapD.memWf ∧ snapD.noCopy ∧
    (pmcD 1).countsTime (.cnPmcValue 3) = false := by
  unfold Dev.memWf Dev.noCopy; decide +kernel
/-- R518: the MARKER of a resumption; R519: an armed and a started replay. -/
theorem test_resume : (after .recordResume (recrD true 2)).rd .cnRecWptr = 32 ∧ Mem.read (after .recordResume (recrD true 2)).mem 0x100014 1 = [6] ∧
    Mem.read (after .recordResume (recrD true 2)).mem 0x100018 2 = [2, 2] := by decide +kernel
theorem test_replay : (after (.replayGo .host 63) (featured D)).fld .cnRplStatus F.cnRplStatus_STATE = 1 ∧
    (after (.replayGo .host 63) imgD).recd.rplOn = true ∧
    (after (.armOff .host) ((featured D).setFld .cnRplStatus F.cnRplStatus_STATE 1)).fld .cnRplStatus F.cnRplStatus_STATE = 0 := by decide +kernel
/-- R519 to R521: an unused kind, a gap in the sequence, the last MARKER, a kind that is not delivered. -/
theorem test_deliver : (after (.replayDeliver 1) (rplD 7 1 5 0)).fld .cnRplStatus F.cnRplStatus_STATE = 4 ∧
    (after (.replayDeliver 1) (rplD 3 1 6 0)).fld .cnRplStatus F.cnRplStatus_STATE = 4 ∧
    (after (.replayDeliver 100) (rplD 6 1 5 0)).fld .cnRplStatus F.cnRplStatus_STATE = 3 ∧
    (after (.replayDeliver 99) (rplD 6 1 5 0)).recd.rplOn = true ∧ (after (.replayDeliver 100) (rplD 5 1 5 0)).recd.rplPos = 64 := by decide +kernel
theorem test_snap : (after (.snap .host) (pmcD 1)).rd (.cnPmcShadow 3) = 77 ∧ (after (.snap .host) (pmcD 1)).fld .cnRdStatus F.cnRdStatus_BUSY = 1 ∧
    (after (.snap .host) snapD).fld .cnRdStatus F.cnRdStatus_SKIPPED = 1 := by decide +kernel

/-! ### Folios (19) -/

/-- A member of a group of four slots, in folio state `st`, of rank `k`. -/
def foD (st k : Nat) : Dev :=
  let d := (imgD.wr .glFolioMembers 15).setFld .fbTorusId F.fbTorusId_SLOT k
  d.setFolioState st
/-- Commit records of generation 9 for a group of `g` members of 11 leaves, with the given check words. -/
def commits (g : Nat) (crcs : List Nat) : List Byte :=
  (List.range g).flatMap (fun k => bytesOf 4 0x31434C46 ++ bytesOf 1 k ++ bytesOf 1 g ++ zeros 2 ++ bytesOf 8 9 ++ bytesOf 4 11 ++ zeros 40 ++
    bytesOf 4 (crcs.getD k 0))
def crc4 : List Nat := [2388848962, 271068346, 3072015427, 693232059]
def crc5 : List Nat := [1418818206, 3403394918, 1843969951, 4087505511, 644016284]
/-- Four of them in half 0 of a reserve at 0, and five, of a group that lost its member 4. -/
def four (d : Dev) : Dev :=
  { d with mem := Mem.write 1572864 (commits 4 crc4) d.mem, folio := { d.folio with gen := 9, oldMask := 15, oldL := 11 } }
def five (d : Dev) : Dev :=
  { d with mem := Mem.write 1310720 (commits 5 crc5) d.mem, folio := { d.folio with oldMask := 31, oldL := 11 } }
/-- The copy with leaves below `n` done. -/
def copying (n : Nat) : Dev := { foD 2 0 with folio := { copied := List.range n } }
def withReg (d : Dev) : Dev := (d.setFld (.glFolioReg 0) F.glFolioReg_BASE 1).setFld (.glFolioReg 0) F.glFolioReg_LEAVES 1
/-- Leaf 0 of a row copied, leaf 1 next; a region's leaf next, whose memory holds an uncorrectable word. -/
def rowEnd : Dev := { foD 2 0 with folio := { copied := [0], par := [(0, ([(3, 5)], [(3, 5)], 1))] } }
def badLeaf : Dev := { withReg (copying 11) with badWords := [⟨1, 0, 65544⟩] }
def oneStep (d : Dev) : Dev := { d with folio := { d.folio with steps := 1 } }
def trigD (st : Nat) : Dev := oneStep ((foD st 0).setFld .glFolioTrig F.glFolioTrig_STEPS 1)
def noRows : RestoreRows := ⟨[], []⟩

theorem test_hyps_folio : (foD 0 0).folioDue = false ∧ (trigD 0).folioDue = true ∧
    (foD 0 0).folioOn = true ∧ (foD 0 0).rank = 0 ∧ (foD 0 1).rank = 1 ∧ (foD 0 0).folioState = 0 ∧ D.folioOn = false ∧
    [1, 2, 4].all (fun w => [0, 1, 2, 3, 4].all (fun n => (foD n 0).folioState == n && (foD n 0).exists .glFolioCtl &&
      (foD n 0).mayWrite .host .glFolioCtl w)) = true ∧
    (trigD 4).folioDue = true := by decide +kernel
theorem test_hyps_leaf_copy : (copying 0).nextLeaf = some 0 ∧ (copying 11).nextLeaf = none ∧ (copying 11).leavesDone = true ∧ (copying 10).leavesDone = false ∧
    (copying 10).leafAddr 10 = none ∧ rowEnd.nextLeaf = some 1 ∧ 4 ≤ rowEnd.folioG ∧ rowEnd.rank < rowEnd.folioG ∧
    min (rowEnd.folioG - 2) (rowEnd.folioL - 0 * (rowEnd.folioG - 2)) ≤ (tget ([], [], 0) 0 rowEnd.folio.par).2.2 + 1 ∧
    badLeaf.nextLeaf = some 11 ∧ badLeaf.folioState = 2 ∧ badLeaf.leafAddr 11 = some 65536 ∧ badLeaf.badIn 65536 65536 ≠ [] := by decide +kernel
theorem test_hyps_folio_commit : (copying 11).reserveAt 0 + ((copying 11).folioG * (copying 11).folioT * 65536 + 64 * (copying 11).rank) = 1572864 ∧
    1572864 + 64 ≤ stackSize ∧ (copying 11).leafOf 1572864 = none ∧ (copying 11).leafOf (1572864 + (copying 11).commitRecord.length - 1) = none ∧
    (copying 11).memWf ∧ 1 < (copying 11).folioG := by unfold Dev.memWf; decide +kernel
/-- One commit record. -/
def rcd (g k c : Nat) : List Byte :=
  bytesOf 4 0x31434C46 ++ bytesOf 1 k ++ bytesOf 1 g ++ zeros 2 ++ bytesOf 8 9 ++ bytesOf 4 11 ++ zeros 40 ++ bytesOf 4 c
def rcdOk (g k c : Nat) : Prop := numAt (rcd g k c) 0 4 = 0x31434C46 ∧ numAt (rcd g k c) 4 1 = k ∧ numAt (rcd g k c) 5 1 = g ∧
  numAt (rcd g k c) 8 8 = 9 ∧ numAt (rcd g k c) 60 4 = crc32c ((rcd g k c).take 60)
theorem physRead_within (d : Dev) (a k n : Nat) (b : List Byte) (hm : d.mem = Mem.write a b []) (ha : a + k < stackSize)
    (hn : k + n ≤ b.length) : d.physRead (a + k) n = (b.drop k).take n := by
  have hl : d.locate (a + k) = .stack (a + k) := by rw [Dev.locate, if_pos ha]
  rw [Dev.physRead, hl]
  simp only [Dev.memRead, addrs, List.map_map]
  apply List.ext_getElem
  · simp; omega
  · intro i h1 h2
    simp at h1 h2
    simp only [List.getElem_map, List.getElem_range, Function.comp_apply, Dev.memByte, hm,
      List.getElem_take, List.getElem_drop]
    rw [Mem.get_write a (a + k + i) b (by rfl), if_pos (by omega), show a + k + i - a = k + i by omega, List.getD_eq_getElem?_getD,
      List.getElem?_eq_getElem (by omega)]
    rfl
theorem halfGen_of (d : Dev) (g l h b : Nat) (c : List Nat) (h4 : 4 ≤ g)
    (hb : expandPa (d.fld .glFolioCfg F.glFolioCfg_RBASE * 65536) + h * halfSize g l + (halfSize g l - 65536) = b)
    (hm : d.mem = Mem.write b (commits g c) []) (ha : b + 64 * g < stackSize) (hn : (commits g c).length = 64 * g)
    (hr : ∀ r < g, ((commits g c).drop (64 * r)).take 64 = rcd g r (c.getD r 0)) (hf : ∀ r < g, rcdOk g r (c.getD r 0)) :
    d.halfGen g l h = some 9 := by
  subst hb
  have e : ∀ r < g, _ := fun r k =>
    And.intro ((physRead_within d _ (64 * r) 64 _ hm (by omega) (by omega)).trans (hr r k)) (hf r k)
  have z := e 0 (by omega)
  unfold Dev.halfGen
  simp only [z.1, z.2.2.2.2.1]
  rw [if_pos]
  simp only [Bool.and_eq_true, decide_eq_true_eq, List.all_eq_true, List.mem_range, beq_iff_eq]
  refine ⟨h4, fun r k => ?_⟩
  obtain ⟨x, y⟩ := e r k
  rw [x]
  exact ⟨⟨⟨⟨y.1, y.2.1⟩, y.2.2.1⟩, y.2.2.2.1⟩, y.2.2.2.2⟩
theorem rcds4 : ∀ r < 4, rcdOk 4 r (crc4.getD r 0) := by
  unfold rcdOk; simp only [crc32c, foldl_crcByte_eq_crcF]; decide +kernel
theorem rcds5 : ∀ r < 5, rcdOk 5 r (crc5.getD r 0) := by
  unfold rcdOk; simp only [crc32c, foldl_crcByte_eq_crcF]; decide +kernel
theorem mem_four (d : Dev) (h : d.mem = []) : (four d).mem = Mem.write 1572864 (commits 4 crc4) [] := by simp only [four, h]
theorem mem_five (d : Dev) (h : d.mem = []) : (five d).mem = Mem.write 1310720 (commits 5 crc5) [] := by simp only [five, h]
theorem test_hyps_folio_valid : (four (foD 3 0)).halfGen 4 11 0 = some 9 ∧ (foD 3 0).folioG = 4 ∧ (foD 3 0).folioL = 11 ∧
    (foD 3 0).halfGen (foD 3 0).folioG (foD 3 0).folioL 0 ≠ some 1 :=
  ⟨halfGen_of _ 4 11 0 1572864 crc4 (by decide) (by decide +kernel) (mem_four _ (by decide +kernel)) (by decide) (by decide +kernel) (by decide +kernel) rcds4, by decide +kernel, by decide +kernel,
    by decide +kernel⟩
/-- The old group of five, in an image with RESHAPE. -/
def fiveR : Dev := (five (foD 4 0)).setFld .glImgInfo F.glImgInfo_RESHAPE 1
theorem five_valid : (five (foD 4 0)).halfGen 5 11 0 = some 9 ∧ fiveR.halfGen 5 11 0 = some 9 :=
  ⟨halfGen_of _ 5 11 0 1310720 crc5 (by decide) (by decide +kernel) (mem_five _ (by decide +kernel)) (by decide) (by decide +kernel) (by decide +kernel) rcds5,
    halfGen_of _ 5 11 0 1310720 crc5 (by decide) (by decide +kernel) ((Dev.setFld_mem ..).trans (mem_five _ (by decide +kernel))) (by decide) (by decide +kernel) (by decide +kernel) rcds5⟩
theorem test_hyps_restore : ((foD 0 0).folioOn = true ∧ (foD 0 0).folioState = 0 ∧ (foD 0 0).serialsZero = true) ∧ (foD 0 1).rank ≠ 0 ∧
    ¬ (foD 4 0).folioState = 0 ∧ (foD 4 0).folioState = 4 ∧ (foD 4 0).folio.chosen = none ∧ 3 < (foD 4 0).folioG ∧
    (tset 3 7 [(0, 5)]).length < 4 ∧ 4 ≤ (tset 3 7 [(0, 5), (1, 4), (2, 6)]).length ∧ (∀ p ∈ tset 3 7 [(0, 5), (1, 4), (2, 6)], 4 ≤ p.2) ∧
    (∃ p ∈ tset 3 7 [(0, 5), (1, 4), (2, 6)], p.2 = 4) ∧ (foD 4 0).folio.rcode = none ∧
    ({ foD 4 0 with folio := { rcode := some 1 } } : Dev).folio.rcode = some 1 := by decide +kernel
theorem test_hyps_restore_found : (∃ h, h < 2 ∧ (five (foD 4 0)).halfGen (five (foD 4 0)).oldG (five (foD 4 0)).folio.oldL h = some 9) ∧ 9 ≠ 0 ∧
    (five (foD 4 0)).rd .glFolioMembers ≠ (five (foD 4 0)).folio.oldMask ∧ (five (foD 4 0)).flag .glImgInfo F.glImgInfo_RESHAPE = false ∧
    2 < [0, 1, 2].length ∧ (five (foD 4 0)).halfGen 5 11 0 ≠ some 0 := by
  have g : (five (foD 4 0)).oldG = 5 := by decide +kernel
  exact ⟨⟨0, by decide, by rw [g]; exact five_valid.1⟩, by decide, by decide +kernel, by decide +kernel, by decide, by rw [five_valid.1]; decide⟩
/-- R546: a group that lost its fifth member restores into an image with RESHAPE. -/
theorem test_hyps_restore_ok : (fiveR.restoreTo 9 [] noRows).2 = 1 := by
  have g : fiveR.oldG = 5 := by decide +kernel
  have l : fiveR.folio.oldL = 11 := rfl
  have f : (List.range 2).find? (fun k => fiveR.halfGen fiveR.oldG fiveR.folio.oldL k == some 9) = some 0 := by
    rw [g, l]
    have h := five_valid.2
    simp [List.range, List.range.loop, h]
  unfold Dev.restoreTo
  dsimp only
  rw [f]
  decide +kernel
/-- R534, R535: a trigger asks for a point two cycles ahead, or is counted; R540: the last leaf of a row sends its P to the rank before. -/
theorem test_folio_go : (after (.folioGo .host) (foD 0 0)).folioState = 1 ∧
    (after (.folioGo .host) (foD 2 0)).fld .glFolioStatus F.glFolioStatus_SKIPPED = 1 ∧ (after (.folioRequest 7) (foD 0 1)).folio.requested = some 7 := by
  decide +kernel
theorem test_leaf_copy : (after .leafCopy rowEnd).folio.copied = [1, 0] ∧ (after .leafCopy badLeaf).fld .glFolioStatus F.glFolioStatus_CAUSE = 3 ∧
    Out.folioLeaf 3 0 [(3, 5)] ∈ (after .leafCopy rowEnd).out ∧ Out.folioLeaf 2 327680 [] ∈ (after .leafCopy (copying 10)).out ∧
    min ((copying 10).folioG - 2) ((copying 10).folioL - 5 * ((copying 10).folioG - 2)) ≤ 1 ∧ 1 < (copying 10).folioG - 2 := by decide +kernel
theorem test_folio_end : (after .folioCommit (copying 11)).folioState = 3 ∧ (after (.folioAbort .host) (foD 1 0)).folio.gen = 1 ∧
    (after (.folioAbort .host) (foD 4 0)).fld .glFolioStatus F.glFolioStatus_RCODE = 4 ∧
    (after (.abandonNotice 1 4) (foD 1 0)).fld .glFolioStatus F.glFolioStatus_CAUSE = 0 := by decide +kernel
theorem test_restore : (after (.restore .host 15 11) (foD 0 0)).folioState = 4 ∧
    (after (.restoreChoice 3 7) { foD 4 0 with folio := { choices := [(0, 5), (1, 4), (2, 6)] } }).folio.chosen = some 4 ∧
    (after (.restoreAnnouncement 3 [] noRows) (foD 4 0)).folio.rcode = some 2 ∧
    (after .restoreEnd { foD 4 0 with folio := { rcode := some 2 } }).fld .glFolioStatus F.glFolioStatus_RCODE = 2 := by decide +kernel

/-! ### The management port (20) -/

/-- A package of 192 logical cores in a line of 4 packages, its custodian on;
core 0 fenced; core 0 in its fence; core 0 under test; attestation ready. -/
def mgD : Dev := (bcD 0).setFld .glCoreCount F.glCoreCount_LOGICAL 192
def mgF : Dev := mgD.wr (.glUnitFenced 0) 1
def mgB : Dev := mgD.setCore 0 { mgD.core 0 with fence := some ⟨3, true, none, true, false, 0, 0⟩ }
def mgT : Dev := mgD.setCore 0 { mgD.core 0 with sound := some ⟨true, none, none⟩ }
def mgA : Dev := mgD.setFld .glBootStatus F.glBootStatus_ATTEST 1
/-- One whose owner's key is set and fused, and which signed the key `keyB`. -/
def owned (d : Dev) : Dev := { d with board := some { brd with fuse := true }, ownerKey := some (Laws.Image.keyZ keyB) }
def mgO : Dev := owned mgD
def capWord (cap floor : Nat) : Word := F.glPwrCap_CAP.put cap (F.glPwrCap_FLOOR.put floor 0)
def thrWord (warn rst : Nat) : Word := F.glSupplyCfg_WARN.put warn (F.glSupplyCfg_RESET.put rst 0)
/-- HEALTH_GET in the mailbox, tag 5. -/
def mgM : Dev := mbD brd [(0, 0x05010000E35B)]

theorem test_hyps_management_cores : mgD.custodianOn = true ∧ mgD.nCores = 192 ∧ mgF.coreFenced 0 = true ∧ mgD.coreFenced 0 = false ∧
    mgD.flag .glFenceCtl F.glFenceCtl_BUSY = false ∧ (mgD.core 0).fence = none ∧ (mgD.core 0).sound = none ∧ (mgB.core 0).fence.isSome = true ∧
    (mgT.core 0).sound.isSome = true ∧ mgD.flag (.coreSound 0) F.coreSound_BUSY = false ∧ (mgF.core 0).sound = none ∧
    mgF.flag .glFenceCtl F.glFenceCtl_BUSY = false ∧ (mgF.core 0).fence = none ∧ mgF.custodianOn = true ∧ mgB.custodianOn = true ∧
    mgT.custodianOn = true ∧ mgF.nCores = 192 := by decide +kernel
theorem test_hyps_management_port : mgD.writeTaken .glPwrCap (capWord 3000 2500) = true ∧ mgD.writeTaken .glPwrCap (capWord 2500 3000) = false ∧
    mgD.writeTaken .glSupplyCfg (thrWord 184 168) = true ∧ mgD.writeTaken .glSupplyCfg (thrWord 0 255) = false ∧ (zeros 32).length = 32 ∧
    mgA.flag .glBootStatus F.glBootStatus_ATTEST = true ∧ mgA.board = some brd ∧ mgA.topq = some 8 ∧ mgA.leaf < 1024 ∧
    mgD.flag .glBootStatus F.glBootStatus_ATTEST = false ∧ hssKeyOk keyB = true ∧ keyB.length = 60 ∧ brd.fuse = false ∧ mgD.board = some brd ∧
    mgD.torusIn 3 = true ∧ mgD.torusIn 4 = false ∧ (mgD.setBcastState 3).bcastState = 3 ∧ (mgD.setBcastState 5).bcastState = 5 ∧
    mgD.bcast.verified = false ∧ (mgD.setBcast { mgD.bcast with verified := true }).bcast.verified = true ∧ 0 < mgD.bcast.chunks ∧
    mgA.custodianOn = true ∧ mgD.pwrGood = true := by decide +kernel
theorem keyB_signed : (keyB ++ ([0, 0, 0, 0] ++ Laws.Image.sigZ)).take 60 = keyB ∧
    (keyB ++ ([0, 0, 0, 0] ++ Laws.Image.sigZ)).drop 60 = [0, 0, 0, 0] ++ Laws.Image.sigZ := by
  have h : keyB.length = 60 := by decide
  exact ⟨by rw [← h]; exact List.take_left' rfl, by rw [← h]; exact List.drop_left' rfl⟩
/-- 16 R467 to R469: a change of a fused owner's key, signed under it and not. -/
theorem test_hyps_management_owner : let bs := keyB ++ ([0, 0, 0, 0] ++ Laws.Image.sigZ)
    mgO.custodianOn = true ∧ 60 ≤ bs.length ∧ (∃ b, mgO.board = some b ∧ b.fuse = true) ∧ hssKeyOk (bs.take 60) = true ∧
    (∃ k, mgO.ownerKey = some k ∧ hssVerify k (bs.drop 60) (bs.take 60) = true) ∧
    ¬ (false = true ∨ ∃ k, ({ mgO with ownerKey := none } : Dev).ownerKey = some k ∧ hssVerify k (bs.drop 60) (bs.take 60) = true) := by
  intro bs
  refine ⟨by unfold mgO owned; decide +kernel, by simp [bs, keyB, zeros], ⟨_, rfl, rfl⟩, ?_, ⟨_, rfl, ?_⟩, ?_⟩
  · show hssKeyOk (List.take 60 _) = true
    rw [keyB_signed.1]; decide
  · show hssVerify _ (List.drop 60 _) (List.take 60 _) = true
    rw [keyB_signed.1, keyB_signed.2]; exact Laws.Image.hssVerify_keyZ keyB
  · rintro (h | ⟨k, h, -⟩) <;> cases h
theorem test_hyps_management_mailbox : (mgM.exists .hlMboxCtl = true ∧ mgM.mayWrite .host .hlMboxCtl (mboxWord 4 6) = true) ∧ mgM.replayed 4 = false ∧
    mgM.recording 4 = false ∧ mgM.flag .hlMboxCtl F.hlMboxCtl_BUSY = false ∧ mgM.custodianOn = true ∧ (mgM.mboxBytes 6).take 4 = enterprise ∧
    numAt (mgM.mboxBytes 6) 4 1 = 1 := by decide +kernel

/-- R564: the status of each reply. -/
theorem test_reply_codes : ([(.fenceCore 7 192 true, mgD), (.fenceCore 7 0 true, mgB), (.fenceCore 7 0 true, mgF), (.sound 7 0 true, mgB), (.setCap 7 3000 2500, mgD),
      (.setCap 7 2500 3000, mgD), (.setThresh 7 0 255, mgD), (.managementAttest 7 [], mgD), (.managementAttest 7 (zeros 32), mgD), (.reparent 7 4, mgD),
      (.addChild 7 3, mgD), (.dropChild 7 3, mgD), (.logFetch 7 0 31, mgD), (.logFetch 7 0 1, mgD)] : List (Instr × Dev)).map
        (fun x => ((after x.1 x.2).out.map (fun o => match o with | .mgmtReply c t s _ => (c, t, s) | _ => (0, 0, 0)))) =
      [[(2, 7, 1)], [(2, 7, 2)], [(2, 7, 0)], [(3, 7, 2)], [(4, 7, 0)], [(4, 7, 3)], [(5, 7, 3)], [(8, 7, 1)], [(8, 7, 4)], [(10, 7, 1)], [(11, 7, 3)],
        [(12, 7, 0)], [(6, 7, 1)], [(6, 7, 0)]] := by decide +kernel
theorem test_management_fence : ((after (.fenceCore 7 0 true) mgD).core 0).fence.map (fun f => (f.cause, f.record, f.mgmt)) = some (4, true, some 7) ∧
    (after (.fenceCore 7 0 true) mgD).coreFenced 0 = true ∧ ((after (.sound 7 0 true) mgD).core 0).sound = some ⟨true, none, some 7⟩ := by decide +kernel
theorem test_management_owner : (after (.managementOwnerSet 7 keyB false) mgD).board = some { brd with ownerKey := some keyB, fuse := true } ∧
    (after (.managementOwnerSet 7 (keyB.set 3 0) true) mgD).out = [.mgmtReply 9 7 3 []] := by decide +kernel
theorem test_reparent : (after (.reparent 7 3) (mgD.setBcastState 5)).bcastState = 4 ∧ (after (.reparent 7 3) mgD).parent = 3 ∧
    Out.chunk 3 0 65537 0 ∈ (after (.addChild 7 3) (mgD.setBcast { mgD.bcast with verified := true })).out ∧ (after (.dropChild 7 2) mgD).children = [] := by
  decide +kernel
/-- R562, R563: the control messages, and a firmware update of the copy that does not run. -/
theorem test_mctp : (after (.mctpControl (.setEid 9)) mgD).out = [.mctp [9]] ∧ (after (.mctpControl .getTypes) mgD).out = [.mctp [0, 1, 0x7F]] ∧
    (after (.mctpControl .getEid) (mgD.setFld .glMgmtStatus F.glMgmtStatus_EID 4)).out = [.mctp [4]] ∧
    (after (.pldmMonitoring (.sensor 0)) (mgD.setFld .glSupplyStatus F.glSupplyStatus_VIN 700)).out = [.pldm [188, 2]] := by decide +kernel
theorem test_firmware : ((after (.pldmFirmwareUpdate (.data [1, 2])) mgD).mgmt.fw = [1, 2]) ∧
    (after (.pldmFirmwareUpdate (.finish (some 9))) mgD).board = some { brd with fwB := some 9 } ∧
    (after (.i3cDynamicAddressAssignment 5) mgD).fld .glMgmtStatus F.glMgmtStatus_DADDR = 5 := by decide +kernel
/-- R449, R565: HEALTH_GET through the mailbox answers the summary after enterprise number, code, tag and status. -/
theorem test_mailbox_health : (after (.mgmt .host 6 false) mgM).mboxBytes 7 = [0x5B, 0xE3, 0, 0, 1, 5, 0] ∧
    (after .healthSummary mgD).mgmt.seq = 1 ∧ (after (.healthGet 7) mgD).out.length = 1 := by decide +kernel
theorem test_management_reset : (after (.mgmtReset 7) mgD).out.contains (.mgmtReply 7 7 0 []) = true ∧
    (after (.mgmtReset 7) mgD).fld .glImgStatus F.glImgStatus_STATE = 0 := by decide +kernel

/-! ### Frames and the whole machine -/

/-- The command answers a next state. -/
def runs (c : Instr) (d : Dev) : Bool := match exec c (W d) with
  | .next _ => true
  | _ => false
theorem next_of_runs (c : Instr) (d : Dev) (h : runs c d = true) : exec c (W d) = .next ⟨after c d, match exec c (W d) with | .next t => t.pending | _ => []⟩ := by
  unfold runs at h
  unfold after
  split at h
  · rename_i t e; rw [e]
  · cases h

theorem test_hyps_steps : (⟨D, [.plantLinkUp 0, .resetN]⟩ : State).pending = .plantLinkUp 0 :: [.resetN] ∧ (W D).pending = [] ∧
    D.coveReach .host 0x10000000000 4 = false ∧ runs (.coveAccess .host 0x10000000000 none 4 {}) D = false ∧
    runs (.coveAccess .host 0 none 4 {}) D = true := by decide +kernel
theorem test_hyps_frame_control : [Instr.ccSys 0, .ccdone 0 1 2, .ccLoad 0 0 0 false false 1 2 0].all (fun c => runs c (ccD 1 [])) = true := by decide +kernel
theorem test_hyps_frame_engines : (vx8 0 0).vxRun 0 = some (0, { run1 (desc 0x400 0 0 0 0 0) with done := false, params := [7, 9] }) ∧
    runs (.vxEnd 0 vx0) (vx8 0 0) = true ∧ (after (.vxEnd 0 vx0) (vx8 0 0)).coreFenced 0 = (vx8 0 0).coreFenced 0 ∧
    runs (.sgMm 0 ⟨none, [⟨4, 0, true, 3⟩]⟩) D = true ∧ (∀ y ∈ [(⟨4, 0, true, 3⟩ : Upset)], y.kind = 4 → y.tries ≤ 3) ∧
    runs (.vld 0 0 0 0) (ccD 1 []) = true ∧ (ccD 1 []).cache = [] ∧ D.qTarget 0 = 0 := by decide +kernel
theorem test_hyps_frame_tide : [Instr.pllLockLoss, .tideStep .host, .freePhaseComplete, .tgPtimeAdjWrite .host 5, .cqNop 0, .cqResume .host 0, .signalCounterWrite .host 3 1,
    .dramRefresh 0, .unkeep .host 0, .xlatInv .host (.cc 0), .rngRegisterWrite .host 0 0 1, .plantLinkUp 0, .dbSet .host 0, .fbGstatReset .host 0].all
      (fun c => runs c (featured (tided 2 0))) = true := by decide +kernel
theorem test_hyps_frame_fabric : [Instr.acknowledgementSend 1, .acknowledgementReceive 1 2, .torusPacketHop ⟨0, 1, 0, none, 0⟩, .folioTrigger, .broadcastDiscardNotice,
    .reparent 1 3, .healthGet 1, .managementAttest 1 [], .healthSummary, .setCap 1 3000 2500, .setThresh 1 184 168, .i3cDynamicAddressAssignment 1,
    .pldmFirmwareUpdate (.data [1]), .identityTreesBuilt true, .minClr .host, .armOff .host, .hostLinkUp].all (fun c => runs c mgD) = true := by decide +kernel
theorem test_hyps_writes_ignored : imgD.regAt 0xC00 = some .glFolioMembers ∧ Reg.glFolioMembers.info.eff = .load ∧ imgD.loaded = true ∧
    (∃ off r f, Reg.locate off = some r ∧ D.exists r = true ∧ f ∈ r.info.fields ∧ f.writable = true ∧ f.inUse 0 = false) :=
  ⟨by decide +kernel, by decide +kernel, by decide +kernel, 0xA00, .glBcastCtl, ⟨15, 8, .rw, 20, false, [(1, 255)]⟩, by decide +kernel⟩
theorem test_hyps_force_stop : [0, 1, 2, 3, 4].all (fun n => (tided n 0).tideState == n && (tided n 0).exists .tgCmd && (tided n 0).mayWrite .host .tgCmd 8) = true := by
  decide +kernel
theorem test_hyps_hostless : ofD.fld .glBootStatus F.glBootStatus_STAGE = 4 ∧ ofD.hostLink = false ∧ ofD.flag .hlFeatCtl F.hlFeatCtl_LOCKED = false ∧
    ofD.bcast.startHeld = false ∧ (ofD.setBcast { ofD.bcast with startHeld := true }).bcast.startHeld = true := by decide +kernel
theorem test_hyps_default_access : D.regAt 0x140 = some .glPwrCap ∧ Reg.glPwrCap.info.acl = .dflt ∧ Reg.glPwrCap.info.bytes = 8 := by decide +kernel
theorem test_hyps_keeps_inv : D.Inv ∧ step (W D) = .next (W (D.elapse 1)) := by unfold Dev.Inv Dev.memWf Dev.custWf; exact ⟨by decide +kernel, rfl⟩

end Sys2Proof.Tests
end

section
/-! The state after reset (00 R10). At reset the tables of the package are empty, so a register reads its Reset column and a field reads
that column's bits; what a reset field holds is then a fact about one register's table. -/

namespace Sys2Proof.Machine

/-! ### A package whose tables are empty -/

/-- A package that lists no register reads every register at its Reset column. -/
theorem Dev.rd_of_regs_nil {d : Dev} (h : d.regs = []) (r : Reg) : d.rd r = r.rst := by
  rw [Dev.rd, h, tget]

/-- A package that lists no queue has every queue unbound. -/
theorem Dev.queue_mode_of_queues_nil {d : Dev} (h : d.queues = []) (q : Nat) : (d.queue q).mode = .unbound := by
  rw [Dev.queue, h, tget]

/-- A memory that lists nothing reads zero at every address (the model's choice, log entry 2). -/
theorem Mem.get_nil (a : Nat) : Mem.get [] a = 0 := rfl

/-- A package that stores nothing and has no event pending meets the invariant. -/
theorem Dev.inv_of_nil {d : Dev} (hmem : d.mem = []) (hfar : d.far = []) (hcores : d.cores = []) (hcust : d.custQ = []) : d.Inv := by
  have memories : d.memWf := by
    refine ⟨?_, ?_, ?_⟩
    · rw [hmem]; exact Memory.nil_wf
    · rw [hfar]; exact Memory.nil_wf
    · simp [hcores]
  have events : d.custWf := by simp [Dev.custWf, hcust]
  exact ⟨memories, events⟩

/-! ### The package at reset -/

/-- R10: at reset a register reads its Reset column. -/
@[simp] theorem State.reset_rd (r : Reg) : State.reset.dev.rd r = r.rst := Dev.rd_of_regs_nil rfl r

/-- R10: at reset a field reads its bits of the Reset column. -/
@[simp] theorem State.reset_fld (r : Reg) (f : Fld) : State.reset.dev.fld r f = f.get r.rst := by
  rw [Dev.fld, State.reset_rd]

/-- 02, table of TG_STATUS: the tide gate is UNLOCKED at reset. -/
theorem State.reset_tideState : State.reset.dev.tideState = 0 := by
  rw [Dev.tideState, State.reset_fld]; decide

/-- 15, table of GL_IMG_STATUS: no image is loaded at reset. -/
theorem State.reset_loaded : State.reset.dev.loaded = false := by
  rw [Dev.loaded, State.reset_fld]; decide

/-- 01, table of GL_PWR_CAP: the power cap and its floor at reset. -/
theorem State.reset_glPwrCap :
    State.reset.dev.fld .glPwrCap F.glPwrCap_CAP = 3400 ∧ State.reset.dev.fld .glPwrCap F.glPwrCap_FLOOR = 2400 := by
  simp only [State.reset_fld]; decide

/-- 08, table of CC_STATUS: every control core is halted and privileged at reset. -/
theorem State.reset_ccStatus (k : Nat) :
    State.reset.dev.fld (.ccStatus k) F.ccStatus_HALT = 1 ∧ State.reset.dev.fld (.ccStatus k) F.ccStatus_PRIV = 1 := by
  have column : (Reg.ccStatus k).rst = 33 := rfl
  rw [State.reset_fld, State.reset_fld, column]; decide

/-- 08, table of CC_VSTATE: every control core's vector configuration is illegal at reset (R215). -/
theorem State.reset_ccVstate (k : Nat) : State.reset.dev.fld (.ccVstate k) F.ccVstate_ILL = 1 := by
  have column : (Reg.ccVstate k).rst = 0x1000 := rfl
  rw [State.reset_fld, column]; decide

end Sys2Proof.Machine

open Sys2Proof.Machine

/-- Settles O3: the reset state's tables are empty, so every register reads its Reset column, no queue is bound, memories read zero and
the invariant holds; the fields that the statement names are facts of their registers' tables. -/
theorem resetState : Obligations.ResetState := by
  unfold Obligations.ResetState
  obtain ⟨cap, floor⟩ := State.reset_glPwrCap
  obtain ⟨halted, privileged⟩ := State.reset_ccStatus 0
  exact ⟨rfl, State.reset_rd, Dev.inv_of_nil rfl rfl rfl rfl, cap, floor, State.reset_tideState, State.reset_loaded, halted, privileged,
    State.reset_ccVstate 0, Dev.queue_mode_of_queues_nil rfl, Mem.get_nil⟩

end
